-- ==== Sys2Proof/Word.lean ====
section
/-! DEFINITION. The word types of the machine: a byte, a 64-bit word, and the sparse table every store is kept in. -/

namespace Sys2Proof

/-- One byte (R3: little-endian for all data, descriptors, records and registers). -/
abbrev Byte := BitVec 8

/-- One 64-bit word. -/
abbrev Word := BitVec 64

/-- A sparse table: keys strictly rising, and no entry that equals what an unlisted key reads as. -/
abbrev SMap (α : Type) := List (Nat × α)

end Sys2Proof
end

