-- ==== Sys2Proof/Syntax.lean ====
section
/-! DEFINITION. The commands of the block: one constructor per row of spec/opcode_table.json, with the operands the
spec gives the operation or event. Units are named by number (core, ring, context, port, group, channel), and what only
the outside decides (a host's answer, the outcome of a decoder, a measured quantity) is an operand. -/

namespace Sys2Proof

/-- The host's answer to the accesses that a command makes to host memory: denied (R196, R197), delivered poisoned, or
data. A write uses only the denial. Of a command that makes several accesses, the first `after` are not denied. -/
structure HostAns where
  denied : Bool
  poisoned : Bool
  data : List Byte
  after : Nat
deriving DecidableEq, Repr

/-- The outcomes of Table 8.9 for a line that carries no poison marker. -/
inductive LineOutcome where
  | clean | dieCorrected | corrected | uncorrectable
deriving DecidableEq, Repr

/-- What comes back from HBM for a line (R179): whether the DRAM's on-die ECC reports a correction, how many of the 72
symbols are in error, whether the line is from another address, and whether the command's parity failed twice
(Table 8.5). Of six errors and more the spec says nothing. -/
structure LineIn where
  dieCe : Bool
  bad : Fin 6
  wrong : Bool
  parity : Bool
deriving DecidableEq, Repr

/-- A line with nothing wrong. -/
def LineIn.good : LineIn := ⟨false, 0, false, false⟩

abbrev CoreId := Fin 192
abbrev RingId := Fin 4096
abbrev CtxId := Fin 64
abbrev ChanId := Fin 640
abbrev PortId := Fin 16
abbrev GroupId := Fin 4096

/-- What the Reed-Solomon decoder finds in a codeword of an FEC block: the logical lanes that carried corrected symbols,
one entry a symbol. -/
inductive Codeword where
  | clean
  | corrected (lanes : List (Fin 8))
  | uncorrectable
deriving DecidableEq, Repr

/-- A row of a channel that has been copied (R183): what came back for each of its lines. -/
structure RowIn where
  ch : ChanId
  found : List LineIn
deriving DecidableEq, Repr

/-- What boot finds of the package (R311, R321): whether a guest die is fitted, and the straps of the dies at places 0 to
15. -/
structure BootPins where
  guest : Bool
  straps : List (Option (BitVec 9))
deriving DecidableEq, Repr

/-- A directed module of a D2D path, by the module index of Table 17.6. -/
abbrev D2dId := Fin 14464
/-- A die with a rail of its own: 0 to 11 compute slots, 12 to 15 base dies. -/
abbrev DieId := Fin 16

/-- What the Calender's fast loop reads (R325, R329, R344): the power that the work would draw with no limit active, each
die's activity estimate, temperatures of the dies and stacks and of the module's air-side sensor (R430), whether a rail regulator is at its current limit, whether a
core rail droops (Table 16.1, VOLT), and the cores whose tokens pacing holds back. -/
structure FastIn where
  demand : Nat
  est : List Nat
  tj : List Nat
  hbmTj : List Nat
  air : Nat
  regLimit : Bool
  droop : Bool
  paced : List CoreId
deriving DecidableEq, Repr

/-- What a channel's training phase finds (R186 to R188): whether its test passed, eyes in ps, eye height in mV, whether
the traffic-generator path passed and the width and height of the region it found, and the logged rows whose bank has no repair resource left (R184). -/
structure TrainIn where
  pass : Bool
  rdEye : Nat
  wrEye : Nat
  height : Nat
  tg : Bool
  tgRd : Nat
  tgWr : Nat
  tgHeight : Nat
  noSpare : List Nat
deriving DecidableEq, Repr

/-- How a management message arrives (R403): over I3C from the board controller, over a PCIe VDM, perhaps inside a secured
session, over PCIe DOE from a function, or over the fabric from a node. `unlisted` stands for an SPDM message that Table 20.3
does not list (PSK_EXCHANGE, mutual authentication, GET_CSR, SET_CERTIFICATE, chunking) in place of the row's own: over DOE from
a function, or over MCTP (R396). -/
inductive Via where
  | i3c
  | vdm (session : Option (Fin 65536))
  | doe (fn : CtxId)
  | fabric (node : Fin 65536)
  | unlisted (doe : Option CtxId)
deriving DecidableEq, Repr

/-- A word of a digest register that a read names: eight bytes, or their lower (0) or upper (1) four (R408, R409). -/
structure MeasWord where
  word : Fin 6
  half : Option (Fin 2)
deriving DecidableEq, Repr

/-- The commands. Each names its row of spec/opcode_table.json and the rule the row cites. -/
inductive Instr where
  /-- REGISTER_WRITE (R6). -/
  | registerWrite (fn : CtxId) (off : Fin 0x2000000) (len : Fin 4097) (val : Word)
  /-- SHADOW_WRITE (R416). -/
  | shadowWrite (fn : CtxId) (off : Fin 0x2000000) (len : Fin 4097) (val : Word)
  /-- TXN_BEGIN (R415). -/
  | txnBegin (fn : CtxId)
  /-- TXN_COMMIT (R417). -/
  | txnCommit (fn : CtxId)
  /-- TXN_APPLY (R417). -/
  | txnApply
  /-- TXN_TIMEOUT (R419). -/
  | txnTimeout
  /-- TXN_ABORT (R420). -/
  | txnAbort (fn : CtxId)
  /-- RATE_WINDOW_END (R23). -/
  | rateWindowEnd (core : CoreId) (replica : Fin 16777216)
  /-- RAIL_UNDERVOLTAGE (R22). -/
  | railUndervoltage (die : Fin 16)
  /-- DEV_ERR_LOG_CTL (R371). -/
  | devErrLogCtl (val : BitVec 32)
  /-- CP_INSTRUCTION (R136). -/
  | cpInstruction (core : CoreId) (host : HostAns)
  /-- ECALL (R136). -/
  | ecall (core : CoreId)
  /-- TPUSH_M (R149). -/
  | tpushM (core : CoreId)
  /-- TPUSH_V (R149). -/
  | tpushV (core : CoreId)
  /-- TPUSH_L (R149). -/
  | tpushL (core : CoreId)
  /-- TPUSH_D (R149). -/
  | tpushD (core : CoreId)
  /-- TWAIT (R145). -/
  | twait (core : CoreId)
  /-- TDONE (R147). -/
  | tdone (core : CoreId)
  /-- TFLAGS (R152). -/
  | tflags (core : CoreId)
  /-- SKIP (R151). -/
  | skipBlock (core : CoreId)
  /-- FLUSH (R151). -/
  | flushQueue (core : CoreId)
  /-- TEXIT (R158). -/
  | texit (core : CoreId)
  /-- CORE_EXIT (R158). -/
  | coreExit (core : CoreId)
  /-- SIG (R227). -/
  | sig (core : CoreId)
  /-- SWAIT_LOOK (R228). -/
  | swaitLook (core : CoreId)
  /-- SWAIT_TAKE (R228). -/
  | swaitTake (core : CoreId)
  /-- SREAD (R230). -/
  | sread (core : CoreId)
  /-- TQPOP (R160). -/
  | tqpop (core : CoreId)
  /-- TQPUSH (R160). -/
  | tqpush (core : CoreId)
  /-- MMA (R76). -/
  | mma (core : CoreId)
  /-- SUBSQ_ADD (R76). -/
  | subsqAdd (core : CoreId)
  /-- ABSDIFF_ADD (R76). -/
  | absdiffAdd (core : CoreId)
  /-- ADD_MAX (R76). -/
  | addMax (core : CoreId)
  /-- ADD_MIN (R76). -/
  | addMin (core : CoreId)
  /-- AND_POPC (R76). -/
  | andPopc (core : CoreId)
  /-- XOR_POPC (R76). -/
  | xorPopc (core : CoreId)
  /-- MATRIX_STEP (R64). -/
  | matrixStep (core : CoreId)
  /-- TILE_COMPLETE (R152). -/
  | tileComplete (core : CoreId)
  /-- BALLAST_STEP (R80). -/
  | ballastStep (core : CoreId)
  /-- VLD (R116). -/
  | vld (core : CoreId)
  /-- VST (R116). -/
  | vst (core : CoreId)
  /-- VMOV (R120). -/
  | vmov (core : CoreId)
  /-- ACCRD (R134). -/
  | accrd (core : CoreId)
  /-- CVT (R121). -/
  | cvt (core : CoreId)
  /-- SEL (R118). -/
  | sel (core : CoreId)
  /-- FADD (R119). -/
  | fadd (core : CoreId)
  /-- FSUB (R119). -/
  | fsub (core : CoreId)
  /-- FMUL (R119). -/
  | fmul (core : CoreId)
  /-- FMA (R119). -/
  | fma (core : CoreId)
  /-- FDIV (R119). -/
  | fdiv (core : CoreId)
  /-- FSQRT (R119). -/
  | fsqrt (core : CoreId)
  /-- FMAX (R119). -/
  | fmax (core : CoreId)
  /-- FMIN (R119). -/
  | fmin (core : CoreId)
  /-- FRINT (R119). -/
  | frint (core : CoreId)
  /-- FNEG (R120). -/
  | fneg (core : CoreId)
  /-- FABS (R120). -/
  | fabs (core : CoreId)
  /-- FCOPYSIGN (R120). -/
  | fcopysign (core : CoreId)
  /-- FXORSIGN (R120). -/
  | fxorsign (core : CoreId)
  /-- CMPEQ (R58). -/
  | cmpeq (core : CoreId)
  /-- CMPNE (R58). -/
  | cmpne (core : CoreId)
  /-- CMPLT (R58). -/
  | cmplt (core : CoreId)
  /-- CMPLE (R58). -/
  | cmple (core : CoreId)
  /-- CMPGT (R58). -/
  | cmpgt (core : CoreId)
  /-- CMPGE (R58). -/
  | cmpge (core : CoreId)
  /-- IADD (R122). -/
  | iadd (core : CoreId)
  /-- ISUB (R122). -/
  | isub (core : CoreId)
  /-- IMUL (R122). -/
  | imul (core : CoreId)
  /-- IADDS (R122). -/
  | iadds (core : CoreId)
  /-- ISUBS (R122). -/
  | isubs (core : CoreId)
  /-- IMAX (R122). -/
  | imax (core : CoreId)
  /-- IMIN (R122). -/
  | imin (core : CoreId)
  /-- AND (R122). -/
  | vand (core : CoreId)
  /-- OR (R122). -/
  | vor (core : CoreId)
  /-- XOR (R122). -/
  | vxor (core : CoreId)
  /-- SHL (R122). -/
  | vshl (core : CoreId)
  /-- SHR (R122). -/
  | vshr (core : CoreId)
  /-- SRA (R122). -/
  | vsra (core : CoreId)
  /-- FAADD (R123). -/
  | faadd (core : CoreId)
  /-- RSUM (R124). -/
  | rsum (core : CoreId)
  /-- RMAX (R124). -/
  | rmax (core : CoreId)
  /-- RMIN (R124). -/
  | rmin (core : CoreId)
  /-- SHUF (R120). -/
  | shuf (core : CoreId)
  /-- EXP2 (R132). -/
  | exp2 (core : CoreId)
  /-- LOG2 (R132). -/
  | log2 (core : CoreId)
  /-- RCP (R132). -/
  | rcp (core : CoreId)
  /-- RSQRT (R132). -/
  | rsqrt (core : CoreId)
  /-- TANH (R132). -/
  | tanh (core : CoreId)
  /-- SIN (R132). -/
  | sin (core : CoreId)
  /-- COS (R132). -/
  | cos (core : CoreId)
  /-- CHAIN (R128). -/
  | chain (core : CoreId)
  /-- VECTOR_BLOCK_COMPLETE (R125). -/
  | vectorBlockComplete (core : CoreId)
  /-- DMA_COPY (R153). -/
  | dmaCopy (core : CoreId) (vat : Bool) (host : HostAns)
  /-- DMA_FILL (R153). -/
  | dmaFill (core : CoreId) (vat : Bool) (host : HostAns)
  /-- DMA_ATOMIC (R156). -/
  | dmaAtomic (core : CoreId)
  /-- DMA_BLOCK_COMPLETE (R155). -/
  | dmaBlockComplete (core : CoreId) (vat : Bool)
  /-- LAUNCH_START (R157). -/
  | launchStart (ring : RingId)
  /-- SAVE (R162). -/
  | save (core : CoreId) (spad : Bool)
  /-- CONTEXT_SAVE_COMPLETE (R162). -/
  | contextSaveComplete (core : CoreId)
  /-- RESTORE (R163). -/
  | restore (core : CoreId)
  /-- CONTEXT_RESTORE_COMPLETE (R163). -/
  | contextRestoreComplete (core : CoreId)
  /-- CORE_OWNER (R164). -/
  | coreOwner (core : CoreId) (val : BitVec 32)
  /-- MEM_CTX_INVAL (R143). -/
  | memCtxInval (ctx : CtxId)
  /-- MEM_CTX_INVAL_COMPLETE (R143). -/
  | memCtxInvalComplete (ctx : CtxId)
  /-- FE_TQ_CTL (R161). -/
  | feTqCtl (queue : Fin 1024) (val : BitVec 32)
  /-- HBM_LINE_READ (R180). -/
  | hbmLineRead (line : Fin 10737418240) (found : LineIn)
  /-- ROW_REMAP_COMPLETE (R183). -/
  | rowRemapComplete (row : RowIn)
  /-- HBM_WRITE (R176). -/
  | hbmWrite (addr : Fin 687194767360) (data : List Byte) (poison : Bool)
  /-- WCB_ENTRY_FLUSH (R176). -/
  | wcbEntryFlush (ch : ChanId) (entry : Fin 256)
  /-- WCB_AGE_FLUSH (R176). -/
  | wcbAgeFlush (ch : ChanId)
  /-- MEM_WCB_FLUSH (R176). -/
  | memWcbFlush
  /-- MEM_WCB_FLUSH_COMPLETE (R176). -/
  | memWcbFlushComplete
  /-- SCRUB_READ (R185). -/
  | scrubRead (ch : ChanId) (found : LineIn)
  /-- MEM_TG_START (R190). -/
  | memTgStart (val : Word)
  /-- MEM_TG_COMPLETE (R190). -/
  | memTgComplete (errs : Fin 65536)
  /-- NUDGE (R195). -/
  | nudge (fn : CtxId) (word : BitVec 32)
  /-- RING_POLL (R201). -/
  | ringPoll (ring : RingId)
  /-- TAIL_READ (R202). -/
  | tailRead (ring : RingId) (host : HostAns)
  /-- DESCRIPTOR_FETCH (R203). -/
  | descriptorFetch (ring : RingId) (host : HostAns)
  /-- NOP (R205). -/
  | nopDesc (ring : RingId)
  /-- COPY (R206). -/
  | copyDesc (ring : RingId) (host : HostAns)
  /-- FILL (R206). -/
  | fillDesc (ring : RingId) (host : HostAns)
  /-- LAUNCH (R203). -/
  | launchDesc (ring : RingId)
  /-- TASKQ_PUSH (R161). -/
  | taskqPush (ring : RingId) (host : HostAns)
  /-- EVENT_RECORD (R205). -/
  | eventRecord (ring : RingId)
  /-- EVENT_WAIT (R204). -/
  | eventWait (ring : RingId)
  /-- SIGNAL (R205). -/
  | signalDesc (ring : RingId)
  /-- WAIT_LOOK (R228). -/
  | waitLook (ring : RingId)
  /-- WAIT_TAKE (R228). -/
  | waitTake (ring : RingId)
  /-- HINT (R334). -/
  | hint (ring : RingId)
  /-- TIMESTAMP (R205). -/
  | timestamp (ring : RingId) (host : HostAns)
  /-- FROST (R372). -/
  | frost (ring : RingId)
  /-- FE_DMA_COMPLETE (R205). -/
  | feDmaComplete (ring : RingId) (seq : BitVec 32)
  /-- COMPLETION_RECORD_WRITE (R207). -/
  | completionRecordWrite (ring : RingId) (recOk hdrOk : Bool)
  /-- FE_RING_CTL (R199). -/
  | feRingCtl (ring : RingId) (val : BitVec 32) (hdrOk : Bool)
  /-- ARM (R213). -/
  | arm (ring : RingId) (oks : List Bool)
  /-- ABORT (R215). -/
  | abort (ring : RingId)
  /-- ABORT_COMPLETE (R215). -/
  | abortComplete (ring : RingId) (oks : List Bool)
  /-- WATCHDOG_EXPIRY (R214). -/
  | watchdogExpiry (ring : RingId)
  /-- FUNCTION_LEVEL_RESET (R216). -/
  | functionLevelReset (fn : CtxId)
  /-- VF_DISABLE (R192). -/
  | vfDisable (enable : Bool) (num : CtxId)
  /-- PCIE_HOT_RESET (R358). -/
  | pcieHotReset
  /-- PRI_RESPONSE (R197). -/
  | priResponse (ctx : CtxId) (host : HostAns)
  /-- PROGRESS_MIRROR_WRITE (R211). -/
  | progressMirrorWrite (slot : Fin 72) (ok : Bool)
  /-- FE_FLT_CTL (R218). -/
  | feFltCtl (val : BitVec 32)
  /-- BAR4_READ (R194). -/
  | bar4Read (off : Fin 0x1000000000) (len : Fin 4097)
  /-- BAR4_WRITE (R194). -/
  | bar4Write (off : Fin 0x1000000000) (data : List Byte)
  /-- SYNC_ARBITRATION (R229). -/
  | syncArbitration (pword : Fin 1048576) (add : Word)
  /-- SYNC_CLR (R219). -/
  | syncClr (val : BitVec 32)
  /-- SYNC_CTX_LIM (R226). -/
  | syncCtxLim (ctx : CtxId) (val : BitVec 32)
  /-- SYNC_CTX_INVAL_COMPLETE (R226). -/
  | syncCtxInvalComplete (ctx : CtxId)
  /-- CORE_SYNC_CTL (R223). -/
  | coreSyncCtl (core : CoreId) (val : BitVec 32)
  /-- SYNC_BAR_CTL (R232). -/
  | syncBarCtl (bar : Fin 256) (val : Word)
  /-- SYNC_RALN_CTL (R236). -/
  | syncRalnCtl (set : Fin 64) (val : Word)
  /-- BARRIER_ARRIVAL (R233). -/
  | barrierArrival (bar : Fin 256) (core : CoreId) (amount : Word)
  /-- SLOT_CONTRIBUTION (R233). -/
  | slotContribution (bar : Fin 256) (slot : Fin 12)
  /-- BASE_CONTRIBUTION (R233). -/
  | baseContribution (bar : Fin 256) (base : Fin 4)
  /-- THAW_WAVE (R335). -/
  | thawWave (wave : Fin 12)
  /-- BLOCK_RECEIVE (R243). -/
  | blockReceive (port : PortId) (a b : Codeword) (hdr : BitVec 40) (flits : List (List Byte))
  /-- IDLE_FLIT (R246). -/
  | idleFlit (port : PortId)
  /-- DATA (R250). -/
  | data (port : PortId)
  /-- DATA_END (R250). -/
  | dataEnd (port : PortId)
  /-- REPLAY_TIMEOUT (R251). -/
  | replayTimeout (port : PortId)
  /-- PARAM (R245). -/
  | param (port : PortId)
  /-- LINKDOWN (R253). -/
  | linkdown (port : PortId)
  /-- LOSS_OF_SIGNAL (R253). -/
  | lossOfSignal (port : PortId) (lane : Fin 8)
  /-- RETRAIN (R253). -/
  | retrain (port : PortId)
  /-- LNK_CTL_EN (R252). -/
  | lnkCtlEn (port : PortId) (val : BitVec 32)
  /-- TRAIN (R252). -/
  | train (port : PortId)
  /-- LANEMAP (R252). -/
  | lanemap (port : PortId) (nums : List (Fin 8)) (good pol : BitVec 8)
  /-- TRAINING_TIMEOUT (R252). -/
  | trainingTimeout (port : PortId)
  /-- AUTO_RETRY (R252). -/
  | autoRetry (port : PortId)
  /-- AUTH (R400). -/
  | auth (port : PortId)
  /-- PACKET_ROUTE (R257). -/
  | packetRoute (port : PortId) (vc : Fin 9)
  /-- ESCAPE_TIMEOUT (R263). -/
  | escapeTimeout (port : PortId) (vc : Fin 4)
  /-- PUT (R271). -/
  | put (host : HostAns)
  /-- GET (R271). -/
  | get (host : HostAns)
  /-- ATOMIC (R271). -/
  | atomic
  /-- SIGNAL_REQUEST (R271). -/
  | signalRequest
  /-- GETF (R271). -/
  | getf (host : HostAns)
  /-- ACK (R269). -/
  | ack
  /-- GET_DATA (R269). -/
  | getData
  /-- ATOMIC_RSP (R269). -/
  | atomicRsp
  /-- FWD_DATA (R271). -/
  | fwdData (host : HostAns)
  /-- MGMT_PACKET (R265). -/
  | mgmtPacket (room : Bool)
  /-- RETRANSMIT_TIMEOUT (R270). -/
  | retransmitTimeout (flow : Fin 65536) (seq : BitVec 32)
  /-- FLOW_RECORD_EXPIRY (R271). -/
  | flowRecordExpiry (src flow : Fin 65536)
  /-- FAB_CTL_READ (R275). -/
  | fabCtlRead
  /-- FAB_CTX_DOM (R273). -/
  | fabCtxDom (ctx : CtxId) (val : BitVec 32)
  /-- ALLREDUCE (R285). -/
  | allreduce (ring : RingId)
  /-- REDUCE (R285). -/
  | reduceCol (ring : RingId)
  /-- BROADCAST (R291). -/
  | broadcast (ring : RingId)
  /-- ALLGATHER (R291). -/
  | allgather (ring : RingId)
  /-- REDUCE_SCATTER (R285). -/
  | reduceScatter (ring : RingId)
  /-- ALLTOALL (R293). -/
  | alltoall (ring : RingId)
  /-- ALLTOALLV (R293). -/
  | alltoallv (ring : RingId)
  /-- BARRIER (R301). -/
  | barrierCol (ring : RingId)
  /-- RINGPASS (R296). -/
  | ringpass (ring : RingId)
  /-- RESHARD (R297). -/
  | reshard (ring : RingId)
  /-- COLLECTIVE_START (R286). -/
  | collectiveStart (group : GroupId)
  /-- UP (R285). -/
  | up
  /-- DOWN (R291). -/
  | down
  /-- WMARK (R292). -/
  | wmark
  /-- GRANT (R289). -/
  | grant
  /-- READY (R293). -/
  | ready
  /-- DONE (R293). -/
  | done
  /-- RING (R296). -/
  | ringBlock
  /-- COL_ABORT (R302). -/
  | colAbort
  /-- SEGMENT_TIMEOUT (R289). -/
  | segmentTimeout (group : GroupId) (peer : Fin 65536) (kind : Fin 3) (num : BitVec 32)
  /-- COL_GRP_CTL (R281). -/
  | colGrpCtl (group : GroupId) (val : BitVec 32)
  /-- D2D_FRAME (R314). The source may offer a frame of a role (R319). -/
  | d2dFrame (module : D2dId) (offer : Option (Fin 4)) (data : List Byte) (flips : List (Fin 2112))
  /-- D2D_REPLAY_TIMEOUT (R314). -/
  | d2dReplayTimeout (module : D2dId)
  /-- MODULE_RETRAIN_COMPLETE (R317). -/
  | moduleRetrainComplete (module : D2dId) (bad : BitVec 36)
  /-- GUEST_REQUEST (R321). -/
  | guestRequest (write : Bool) (addr : Word) (len : Fin 4097) (data : List Byte)
  /-- GUEST_RATE_RELEASE (R323). -/
  | guestRateRelease (window : Fin 16)
  /-- CALENDER_FAST_LOOP (R329). -/
  | calenderFastLoop (x : FastIn)
  /-- POWER_MEASUREMENT (R325). -/
  | powerMeasurement (watts vin : Fin 65536)
  /-- MEASUREMENT_ONLY_EXIT (R337). -/
  | measurementOnlyExit
  /-- RAMP_INTERVAL (R331). -/
  | rampInterval
  /-- PHASE_SLOT_EXPIRY (R333). -/
  | phaseSlotExpiry
  /-- EQUALISATION (R339). -/
  | equalisation (rates : List (Fin 65536))
  /-- AGEING_TRIM (R340). -/
  | ageingTrim (rates : List (Fin 65536))
  /-- RATE_OUTLIER (R341). -/
  | rateOutlier (die : DieId) (ageing : Bool)
  /-- ISO_RATE_CHANGE (R343). -/
  | isoRateChange (rates : List (Fin 65536))
  /-- PWR_CAP (R326). -/
  | pwrCap (val : BitVec 32)
  /-- THERMTRIP (R345). -/
  | thermtrip (die : DieId)
  /-- COOLANT_OUT_OF_RANGE (R346). -/
  | coolantOutOfRange
  /-- VSB (R349). -/
  | vsb
  /-- SUPPLY (R347). -/
  | supply (bad : Bool)
  /-- PWR_GOOD (R347). -/
  | pwrGood (low : Bool)
  /-- RESET_N (R352). -/
  | resetN (low : Bool)
  /-- PERST_N (R347). -/
  | perstN (low : Bool)
  /-- MGMT_WDOG (R347). -/
  | mgmtWdog
  /-- DEV_SYS_RST (R366). -/
  | devSysRst (val : BitVec 32)
  /-- DEV_CORE_RST (R357). -/
  | devCoreRst (val : BitVec 32)
  /-- CORE_RESET_END (R355). -/
  | coreResetEnd
  /-- RESET_STRETCH_END (R350). -/
  | resetStretchEnd
  /-- RESET_END (R350). -/
  | resetEnd
  /-- OTP_LOAD (R363). -/
  | otpLoad
  /-- FIRMWARE_VERIFICATION (R393). -/
  | firmwareVerification
  /-- D2D_TRAINING (R316). -/
  | d2dTraining (pins : BootPins) (bad : List (D2dId × Fin 36))
  /-- HBM_TRAIN_PHASE (R186). -/
  | hbmTrainPhase (ch : ChanId) (x : TrainIn)
  /-- COMPUTE_SELFTEST (R359). -/
  | computeSelftest (failed : Bool)
  /-- HOST_READY (R361). -/
  | hostReady
  /-- OTP_PROGRAM (R364). -/
  | otpProgram (val : BitVec 32)
  /-- OTP_PROGRAM_COMPLETE (R365). -/
  | otpProgramComplete (ok : Bool)
  /-- FROST_N (R428). -/
  | frostN (low : Bool)
  /-- FREEZE (R372). -/
  | freeze (scope : Bool)
  /-- STOP_MARKER (R372). -/
  | stopMarker (port : PortId)
  /-- LOCAL_CUT (R374). -/
  | localCut
  /-- ROUND_MARKER (R375). -/
  | roundMarker (port : PortId)
  /-- DUMP (R377). -/
  | dump
  /-- DUMP_COMPLETE (R377). -/
  | dumpComplete
  /-- THAW (R378). -/
  | thaw (forward : Bool)
  /-- THAW_MARKER (R378). -/
  | thawMarker (port : PortId)
  /-- SAMPLE (R381). -/
  | sample (ctx : CtxId) (ok : Bool)
  /-- RESET (R381). -/
  | resetBank (ctx : CtxId) (ok : Bool)
  /-- SAMPLE_RESET (R381). -/
  | sampleReset (ctx : CtxId) (ok : Bool)
  /-- TRACE_BUDGET_WINDOW (R386). -/
  | traceBudgetWindow
  /-- TRACE_DRAIN_COMPLETE (R385). -/
  | traceDrainComplete
  /-- WAIT_FOR_GRAPH (R390). -/
  | waitForGraph
  /-- WAIT_FOR_GRAPH_COMPLETE (R390). -/
  | waitForGraphComplete (ok : Bool)
  /-- HALT (R392). -/
  | halt (core : CoreId) (val : BitVec 32)
  /-- GET_VERSION (R396). -/
  | getVersion (via : Via)
  /-- GET_CAPABILITIES (R396). -/
  | getCapabilities (via : Via)
  /-- NEGOTIATE_ALGORITHMS (R396). -/
  | negotiateAlgorithms (via : Via) (supported : Bool)
  /-- GET_DIGESTS (R396). -/
  | getDigests (via : Via)
  /-- GET_CERTIFICATE (R396). -/
  | getCertificate (via : Via) (slot : Fin 8) (off len : Fin 65536)
  /-- CHALLENGE (R396). -/
  | challenge (via : Via) (slot : Fin 8) (nonce : List Byte)
  /-- GET_MEASUREMENTS (R395). -/
  | getMeasurements (via : Via) (index : Fin 256) (nonce : List Byte)
  /-- KEY_EXCHANGE (R396). -/
  | keyExchange (via : Via) (slot : Fin 8) (data : List Byte)
  /-- FINISH (R396). -/
  | finish (via : Via) (session : Fin 65536) (verified : Bool)
  /-- HEARTBEAT (R396). -/
  | heartbeat (via : Via) (session : Fin 65536)
  /-- KEY_UPDATE (R396). -/
  | keyUpdate (via : Via) (session : Fin 65536)
  /-- END_SESSION (R396). -/
  | endSession (via : Via) (session : Fin 65536)
  /-- VDM_RESET (R403). -/
  | vdmReset (via : Via)
  /-- EXT_CAP (R326). -/
  | extCap (via : Via) (cap : BitVec 12) (en : Bool)
  /-- WFG (R390). -/
  | wfg (via : Via) (chunk : Fin 65536)
  /-- VDM_FROST (R372). -/
  | vdmFrost (via : Via) (thaw scope : Bool)
  /-- OTP_NONCE (R404). -/
  | otpNonce (via : Via)
  /-- OTP_AUTH (R404). -/
  | otpAuth (via : Via) (typ : Fin 16) (gen : Fin 4) (body sig : List Byte)
  /-- BOOT_STATUS (R403). -/
  | bootStatus (via : Via)
  /-- PLDM_SENSOR_READ (R405). -/
  | pldmSensorRead (via : Via) (id : Fin 65536)
  /-- EXT_CAP_EFFECTER (R405). -/
  | extCapEffecter (via : Via) (cap : BitVec 12) (en : Bool)
  /-- RESET_EFFECTER (R405). -/
  | resetEffecter (via : Via)
  /-- SENSOR_REFRESH (R405). -/
  | sensorRefresh
  /-- FIRMWARE_BLOCK_TRANSFER (R406). -/
  | firmwareBlockTransfer (agent : Fin 256) (data : List Byte)
  /-- ACTIVATE_FIRMWARE (R406). -/
  | activateFirmware (agent : Fin 256)
  /-- SEC_LNK_KEY (R401). -/
  | secLnkKey (port : PortId) (area : Fin 4) (word : Fin 16) (val : BitVec 32)
  /-- SEC_MEAS_READ (R409). -/
  | secMeasRead (index : Fin 6) (word : MeasWord)
  /-- VSB_3V3_LOSS (R425). -/
  | vsbLoss
  /-- VF_ENABLE (R192). -/
  | vfEnable (num : CtxId)
  /-- COOLANT_IN_RANGE (R346). -/
  | coolantInRange
  /-- MCTP_CONTROL_MESSAGE (R403). -/
  | mctpControlMessage (via : Via) (cmd arg : Fin 256)
  /-- REQUEST_UPDATE (R406). -/
  | requestUpdate (agent : Fin 256) (blocks : Fin 385) (slot : Bool)
deriving DecidableEq, Repr

end Sys2Proof
end

