-- ==== Sys2Proof/Decode.lean ====
section
/-! DEFINITION. The decoder. The opcode table gives no row any bits: a command of this block is an event or an access with
operands and no word spells one. -/

namespace Sys2Proof

/-- The command that a word spells: none, since no row of the table has bits. -/
def decodeTableWord (_nbits _w : Nat) : Option Instr := none

end Sys2Proof
end

