-- ==== Sys2Proof/Config.lean ====
section
/-! DEFINITION. What an implementation or the outside fixes, and the free values: opaque constants with no body, so
nothing can be proved of any particular value of them. The assumption log names each. -/

namespace Sys2Proof.Config

/-- A byte the spec leaves undefined: seed of the event that left it so, and the byte's address. -/
opaque freeByte : Nat → Nat → BitVec 8

/-- A free number, by the value of the model's counter at the time. -/
opaque freeNat : Nat → Nat

/-- A free choice. -/
opaque freeBool : Nat → Bool

/-- The fixed map of a special function for FP32 operands with no special value in Table 6.10, by function number and
operand bits (R132): within 2 ulp, otherwise known only to the bit-exact reference. -/
opaque specialF32 : Nat → BitVec 32 → BitVec 32

/-- Host memory as the collective engine finds it, by time in ns, context and I/O virtual address: a byte, whether the host
denies the access, and whether it answers with a poisoned TLP. -/
opaque hostByte : Nat → Nat → Nat → BitVec 8
opaque hostDenies : Nat → Nat → Nat → Bool
opaque hostPoisons : Nat → Nat → Nat → Bool

/-- SHA-384 of a byte string, as 48 bytes. -/
opaque sha384 : List (BitVec 8) → List (BitVec 8)

/-- The bytes of the boot ROM, and of the firmware image that the factory placed (R395). -/
opaque romImage : List (BitVec 8)
opaque factoryImage : List (BitVec 8)

/-- The certificate chain of slot 0 up to the device identity certificate, which the factory issued, and the alias certificate
that the device issues for the firmware measurement it runs (R396). -/
opaque identityChain : List (BitVec 8)
opaque aliasCert : List (BitVec 8) → List (BitVec 8)

/-- Whether a signature verifies: key bytes, message, signature. -/
opaque verify : List (BitVec 8) → List (BitVec 8) → List (BitVec 8) → Bool

/-- A field of a firmware image, whose layout the spec does not give (R393): 0 KGEN, 1 VERSION, 2 the public key, 3 the
signature. -/
opaque imageField : Nat → List (BitVec 8) → List (BitVec 8)

/-- A byte of a signature, key agreement or random answer of the root of trust: purpose, counter, index. -/
opaque cryptoByte : Nat → Nat → Nat → BitVec 8

/-- AES-256-GCM with a 128-bit tag (R399): keystream byte by key, nonce and index. -/
opaque gcmByte : List (BitVec 8) → List (BitVec 8) → Nat → BitVec 8

/-- The 30 parity symbols of an RS(544,514) codeword, by its 514 message symbols: the spec names the code and not its
polynomials (R242). -/
opaque rsParity : List Nat → List Nat

/-- Flits that a VC's buffer on the FAB lanes of a bridge holds beyond the 18 of the largest packet (R262). -/
opaque bridgeExtra : Nat → Nat

/-- Receive buffers of a role on a bridge path beyond one frame (R319). -/
opaque roleExtra : Nat → Nat

/-- REPLICA_STEPS of a core for the window that ends at a boundary (R23). -/
opaque replicaSteps : Nat → Nat → Nat

/-- CORE_MARGIN_STAT of a core at a time (Table 2.5). -/
opaque margins : Nat → Nat → Nat

/-- The replica rate, in M steps/s, that a die has at a time with its rail at a setpoint in steps of 2.5 mV (R343). -/
opaque rateAt : Nat → Nat → Nat → Nat

/-- The power, in W, that a die saves when its rail goes one step of 2.5 mV down from a setpoint, at an activity estimate
in W (R344). -/
opaque stepWatts : Nat → Nat → Nat → Nat

/-- AES-256-GCM tag over key, nonce, and data, as 16 bytes. -/
opaque gcmTag : List (BitVec 8) → List (BitVec 8) → List (BitVec 8) → List (BitVec 8)

/-- A byte of the factory's OTP record bodies, by record type and index: serial, trims, keys, repairs. -/
opaque factoryOtp : Nat → Nat → BitVec 8

/-- Replay timeout of a D2D module in ns, which the spec does not give a number (R314). -/
opaque d2dTimeout : Nat

/-- Values of the physical world that the spec reports but does not compute, by quantity and counter. -/
opaque physical : Nat → Nat → Nat

end Sys2Proof.Config
end

