-- ==== Sys2Proof/Machine/Regs.lean ====
section
/-! DEFINITION. The register table of BAR0, written from the register tables of the chapters of spec/ (Table 21.1
for the block bases; each register's own table for offset, strides, width, fields, access codes and reset values;
Table 21.6 for the transactional registers). A field's range is the set of values its table accepts; a write of any
other value leaves the field unchanged. -/

namespace Sys2Proof.Machine

/-- The access codes of Table 0.3 (R6). Reserved bits have no entry: they read zero and ignore writes. -/
inductive Acc where
  | rw | ro | wo | w1c | w1s
deriving DecidableEq, Repr

/-- One field of a register: place, access code, and the values a write may give it. -/
structure FieldSpec where
  lsb : Nat
  width : Nat
  acc : Acc
  lo : Nat
  hi : Nat
deriving DecidableEq, Repr

/-- The registers of BAR0 by their names in the spec. An array of registers is one name with an index. -/
inductive Reg where
  | DEV_ID
  | DEV_PART
  | DEV_SERIAL
  | DEV_CAP1
  | DEV_CAP2
  | DEV_TIMEBASE
  | DEV_NUM_CTL
  | DEV_REPRO_CTL
  | DEV_RST_CAUSE
  | DEV_RST_CNT
  | DEV_CORE_RST
  | DEV_SYS_RST
  | DEV_BOOT_STAT
  | DEV_ERR_POLICY
  | DEV_ERR_LOG_BASE
  | DEV_ERR_LOG_CTL
  | DEV_ERR_LOG_HEAD
  | DEV_ERR_LOG_STAT
  | DEV_ERR_CNT
  | DEV_ERR_CTX
  | DEV_FROST_CTL
  | DEV_FROST_CMD
  | DEV_FROST_STAT
  | DEV_FROST_DUMP
  | TXN_BEGIN
  | TXN_COMMIT
  | TXN_ABORT
  | TXN_VIEW
  | TXN_CTL
  | TXN_STAT
  | OTP_GEN
  | OTP_PROG_CTL
  | OTP_PROG_STAT
  | FE_POLL_CTL
  | FE_BAR4_OFFSET
  | FE_CTX_CFG
  | FE_FLT_BASE
  | FE_FLT_CTL
  | FE_FLT_STAT
  | FE_PROG_MIRROR
  | FE_TQ_BASE
  | FE_TQ_CTL
  | FE_RING_BASE
  | FE_RING_HDR
  | FE_RING_CQ
  | FE_RING_CTL
  | FE_RING_CMD
  | SYNC_CTX_TBL
  | SYNC_CTX_LIM
  | SYNC_CLR
  | SYNC_BAR_CTL
  | SYNC_BAR_MASK
  | SYNC_BAR_STAT
  | SYNC_RALN_CTL
  | SYNC_RALN_WORD
  | SYNC_RALN_STAT
  | SYNC_RALN_BASE
  | PWR_CAP
  | PWR_RAMP_UP
  | PWR_RAMP_DN
  | PWR_BALLAST
  | PWR_PHASE
  | PWR_THAW
  | PWR_THAW_MAP
  | PWR_RAIL_CTL
  | PWR_ISO_CTL
  | PWR_ILIM
  | PWR_EXT_CAP
  | PWR_ALERT_MASK
  | PWR_THERM
  | PWR_MEAS
  | PWR_THR_STAT
  | PWR_THR_NS
  | PWR_DIE
  | PWR_EVT
  | PWR_OUTLIER
  | MEM_ILV_CTL
  | MEM_WCB_CTL
  | MEM_REMAP_CTL
  | MEM_SCRUB_CTL
  | MEM_TRAIN_STAT
  | MEM_TG_CTL
  | MEM_TG_STAT
  | MEM_CTX_PTBASE
  | MEM_CTX_INVAL
  | MEM_CH_STAT
  | MEM_CH_MARGIN
  | VAT_PART
  | FAB_NODE
  | FAB_DIM_CFG
  | FAB_RT
  | FAB_ESC_CTL
  | FAB_TP_CTL
  | FAB_CTL
  | FAB_EVT
  | FAB_DROP_CNT
  | FAB_TP_CNT
  | FAB_CTX_DOM
  | LNK_CTL
  | LNK_STAT
  | LNK_RETRY_CTL
  | LNK_VC_CRED
  | LNK_BUF_STAT
  | LNK_FEC_CNT
  | LNK_LL_CNT
  | LNK_LANE_SYM
  | LNK_EVT
  | COL_GRP_LIST
  | COL_GRP_CTL
  | COL_GRP_STAT
  | COL_GRP_EPOCH
  | DBG_SNAP_ADDR
  | DBG_SNAP_CMD
  | DBG_TRC_CTL
  | DBG_TRC_BASE
  | DBG_TRC_STAT
  | DBG_TRC_DROP
  | DBG_WFG_ADDR
  | DBG_WFG_CTL
  | SEC_BOOT_STAT
  | SEC_LNK_CTL
  | SEC_LNK_STAT
  | D2D_DIE_ID
  | D2D_PATH_STAT
  | D2D_PATH_CNT
  | D2D_BR_ROLE
  | D2D_EVT
  | D2D_GW_BASE
  | D2D_GW_TGT
  | D2D_GW_CTL
  | D2D_GUEST_STAT
  | CORE_OWNER
  | CORE_CTX_CTL
  | CORE_CTX_SAVE
  | CORE_CTX_STAT
  | CORE_RATE_CTL
  | CORE_RATE_CNT
  | CORE_MARGIN_STAT
  | CORE_SR_SEED
  | CORE_ACC_STAT
  | CORE_VEC_FLAGS
  | CORE_Q_STAT
  | CORE_SYNC_CTL
  | CORE_WAIT
  | CORE_WAIT_SINCE
  | CORE_DBG_CTL
  | CORE_DBG_PC
deriving DecidableEq, Repr

/-- One field by register name, place and width: what the meanings read and write. -/
structure Fld where
  reg : Reg
  lsb : Nat
  width : Nat
deriving DecidableEq, Repr

/-- Where a register lies (BAR0 offset, index strides and counts), its width in bits, its reset value and fields. -/
structure RegInfo where
  base : Nat
  n1 : Nat
  s1 : Nat
  n2 : Nat
  s2 : Nat
  width : Nat
  txn : Bool
  reset : Nat
  fields : List FieldSpec
deriving DecidableEq, Repr

/-- The number that keys a register name in the register map: its place in the list above. -/
def Reg.code : Reg → Nat
  | .DEV_ID => 0
  | .DEV_PART => 1
  | .DEV_SERIAL => 2
  | .DEV_CAP1 => 3
  | .DEV_CAP2 => 4
  | .DEV_TIMEBASE => 5
  | .DEV_NUM_CTL => 6
  | .DEV_REPRO_CTL => 7
  | .DEV_RST_CAUSE => 8
  | .DEV_RST_CNT => 9
  | .DEV_CORE_RST => 10
  | .DEV_SYS_RST => 11
  | .DEV_BOOT_STAT => 12
  | .DEV_ERR_POLICY => 13
  | .DEV_ERR_LOG_BASE => 14
  | .DEV_ERR_LOG_CTL => 15
  | .DEV_ERR_LOG_HEAD => 16
  | .DEV_ERR_LOG_STAT => 17
  | .DEV_ERR_CNT => 18
  | .DEV_ERR_CTX => 19
  | .DEV_FROST_CTL => 20
  | .DEV_FROST_CMD => 21
  | .DEV_FROST_STAT => 22
  | .DEV_FROST_DUMP => 23
  | .TXN_BEGIN => 24
  | .TXN_COMMIT => 25
  | .TXN_ABORT => 26
  | .TXN_VIEW => 27
  | .TXN_CTL => 28
  | .TXN_STAT => 29
  | .OTP_GEN => 30
  | .OTP_PROG_CTL => 31
  | .OTP_PROG_STAT => 32
  | .FE_POLL_CTL => 33
  | .FE_BAR4_OFFSET => 34
  | .FE_CTX_CFG => 35
  | .FE_FLT_BASE => 36
  | .FE_FLT_CTL => 37
  | .FE_FLT_STAT => 38
  | .FE_PROG_MIRROR => 39
  | .FE_TQ_BASE => 40
  | .FE_TQ_CTL => 41
  | .FE_RING_BASE => 42
  | .FE_RING_HDR => 43
  | .FE_RING_CQ => 44
  | .FE_RING_CTL => 45
  | .FE_RING_CMD => 46
  | .SYNC_CTX_TBL => 47
  | .SYNC_CTX_LIM => 48
  | .SYNC_CLR => 49
  | .SYNC_BAR_CTL => 50
  | .SYNC_BAR_MASK => 51
  | .SYNC_BAR_STAT => 52
  | .SYNC_RALN_CTL => 53
  | .SYNC_RALN_WORD => 54
  | .SYNC_RALN_STAT => 55
  | .SYNC_RALN_BASE => 56
  | .PWR_CAP => 57
  | .PWR_RAMP_UP => 58
  | .PWR_RAMP_DN => 59
  | .PWR_BALLAST => 60
  | .PWR_PHASE => 61
  | .PWR_THAW => 62
  | .PWR_THAW_MAP => 63
  | .PWR_RAIL_CTL => 64
  | .PWR_ISO_CTL => 65
  | .PWR_ILIM => 66
  | .PWR_EXT_CAP => 67
  | .PWR_ALERT_MASK => 68
  | .PWR_THERM => 69
  | .PWR_MEAS => 70
  | .PWR_THR_STAT => 71
  | .PWR_THR_NS => 72
  | .PWR_DIE => 73
  | .PWR_EVT => 74
  | .PWR_OUTLIER => 75
  | .MEM_ILV_CTL => 76
  | .MEM_WCB_CTL => 77
  | .MEM_REMAP_CTL => 78
  | .MEM_SCRUB_CTL => 79
  | .MEM_TRAIN_STAT => 80
  | .MEM_TG_CTL => 81
  | .MEM_TG_STAT => 82
  | .MEM_CTX_PTBASE => 83
  | .MEM_CTX_INVAL => 84
  | .MEM_CH_STAT => 85
  | .MEM_CH_MARGIN => 86
  | .VAT_PART => 87
  | .FAB_NODE => 88
  | .FAB_DIM_CFG => 89
  | .FAB_RT => 90
  | .FAB_ESC_CTL => 91
  | .FAB_TP_CTL => 92
  | .FAB_CTL => 93
  | .FAB_EVT => 94
  | .FAB_DROP_CNT => 95
  | .FAB_TP_CNT => 96
  | .FAB_CTX_DOM => 97
  | .LNK_CTL => 98
  | .LNK_STAT => 99
  | .LNK_RETRY_CTL => 100
  | .LNK_VC_CRED => 101
  | .LNK_BUF_STAT => 102
  | .LNK_FEC_CNT => 103
  | .LNK_LL_CNT => 104
  | .LNK_LANE_SYM => 105
  | .LNK_EVT => 106
  | .COL_GRP_LIST => 107
  | .COL_GRP_CTL => 108
  | .COL_GRP_STAT => 109
  | .COL_GRP_EPOCH => 110
  | .DBG_SNAP_ADDR => 111
  | .DBG_SNAP_CMD => 112
  | .DBG_TRC_CTL => 113
  | .DBG_TRC_BASE => 114
  | .DBG_TRC_STAT => 115
  | .DBG_TRC_DROP => 116
  | .DBG_WFG_ADDR => 117
  | .DBG_WFG_CTL => 118
  | .SEC_BOOT_STAT => 119
  | .SEC_LNK_CTL => 120
  | .SEC_LNK_STAT => 121
  | .D2D_DIE_ID => 122
  | .D2D_PATH_STAT => 123
  | .D2D_PATH_CNT => 124
  | .D2D_BR_ROLE => 125
  | .D2D_EVT => 126
  | .D2D_GW_BASE => 127
  | .D2D_GW_TGT => 128
  | .D2D_GW_CTL => 129
  | .D2D_GUEST_STAT => 130
  | .CORE_OWNER => 131
  | .CORE_CTX_CTL => 132
  | .CORE_CTX_SAVE => 133
  | .CORE_CTX_STAT => 134
  | .CORE_RATE_CTL => 135
  | .CORE_RATE_CNT => 136
  | .CORE_MARGIN_STAT => 137
  | .CORE_SR_SEED => 138
  | .CORE_ACC_STAT => 139
  | .CORE_VEC_FLAGS => 140
  | .CORE_Q_STAT => 141
  | .CORE_SYNC_CTL => 142
  | .CORE_WAIT => 143
  | .CORE_WAIT_SINCE => 144
  | .CORE_DBG_CTL => 145
  | .CORE_DBG_PC => 146

/-- The table of registers. -/
def Reg.info : Reg → RegInfo
  | .DEV_ID => ⟨0x0, 1, 0x0, 1, 0, 64, false, 0x7c011d7a,
      [⟨0, 16, .ro, 0, 65535⟩, ⟨16, 16, .ro, 0, 65535⟩, ⟨32, 8, .ro, 0, 255⟩, ⟨40, 8, .ro, 0, 255⟩]⟩
  | .DEV_PART => ⟨0x8, 1, 0x0, 1, 0, 64, false, 0x0,
      [⟨0, 16, .ro, 0, 65535⟩, ⟨16, 1, .ro, 0, 1⟩, ⟨32, 16, .ro, 0, 65535⟩]⟩
  | .DEV_SERIAL => ⟨0x10, 1, 0x0, 1, 0, 64, false, 0x0,
      [⟨0, 64, .ro, 0, 18446744073709551615⟩]⟩
  | .DEV_CAP1 => ⟨0x20, 1, 0x0, 1, 0, 64, false, 0x4010001014c00c,
      [⟨0, 8, .ro, 0, 255⟩, ⟨8, 8, .ro, 0, 255⟩, ⟨16, 8, .ro, 0, 255⟩, ⟨24, 8, .ro, 0, 255⟩,
      ⟨32, 16, .ro, 0, 65535⟩, ⟨48, 8, .ro, 0, 255⟩]⟩
  | .DEV_CAP2 => ⟨0x28, 1, 0x0, 1, 0, 64, false, 0x400100002800200,
      [⟨0, 16, .ro, 0, 65535⟩, ⟨16, 16, .ro, 0, 65535⟩, ⟨32, 16, .ro, 0, 65535⟩, ⟨48, 16, .ro, 0, 65535⟩]⟩
  | .DEV_TIMEBASE => ⟨0x100, 1, 0x0, 1, 0, 64, false, 0x0,
      [⟨0, 64, .ro, 0, 18446744073709551615⟩]⟩
  | .DEV_NUM_CTL => ⟨0x200, 1, 0x0, 1, 0, 32, false, 0x6,
      [⟨0, 1, .rw, 0, 1⟩, ⟨1, 1, .ro, 0, 1⟩, ⟨2, 1, .ro, 0, 1⟩]⟩
  | .DEV_REPRO_CTL => ⟨0x210, 1, 0x0, 1, 0, 64, false, 0xffffffffffffffff,
      [⟨0, 64, .rw, 0, 18446744073709551615⟩]⟩
  | .DEV_RST_CAUSE => ⟨0x300, 1, 0x0, 1, 0, 64, false, 0x0,
      [⟨0, 9, .ro, 0, 511⟩, ⟨9, 2, .ro, 0, 3⟩, ⟨16, 16, .ro, 0, 65535⟩, ⟨32, 12, .ro, 0, 4095⟩]⟩
  | .DEV_RST_CNT => ⟨0x308, 1, 0x0, 1, 0, 64, false, 0x0,
      [⟨0, 32, .ro, 0, 4294967295⟩, ⟨32, 32, .ro, 0, 4294967295⟩]⟩
  | .DEV_CORE_RST => ⟨0x310, 1, 0x0, 1, 0, 32, false, 0x0,
      [⟨0, 12, .rw, 0, 4095⟩, ⟨16, 1, .wo, 0, 1⟩, ⟨17, 1, .ro, 0, 1⟩, ⟨18, 1, .w1c, 0, 1⟩]⟩
  | .DEV_SYS_RST => ⟨0x318, 1, 0x0, 1, 0, 32, false, 0x0,
      [⟨0, 8, .wo, 0, 255⟩, ⟨8, 1, .wo, 0, 1⟩]⟩
  | .DEV_BOOT_STAT => ⟨0x320, 1, 0x0, 1, 0, 32, false, 0x0,
      [⟨0, 4, .ro, 0, 15⟩, ⟨4, 1, .ro, 0, 1⟩, ⟨5, 1, .ro, 0, 1⟩, ⟨8, 8, .ro, 0, 255⟩]⟩
  | .DEV_ERR_POLICY => ⟨0x400, 1, 0x0, 1, 0, 32, false, 0x0,
      [⟨0, 1, .rw, 0, 1⟩, ⟨1, 1, .rw, 0, 1⟩]⟩
  | .DEV_ERR_LOG_BASE => ⟨0x408, 1, 0x0, 1, 0, 64, false, 0x0,
      [⟨12, 52, .rw, 0, 4503599627370495⟩]⟩
  | .DEV_ERR_LOG_CTL => ⟨0x410, 1, 0x0, 1, 0, 32, false, 0x0,
      [⟨0, 4, .rw, 0, 15⟩, ⟨4, 1, .rw, 0, 1⟩]⟩
  | .DEV_ERR_LOG_HEAD => ⟨0x414, 1, 0x0, 1, 0, 32, false, 0x0,
      [⟨0, 32, .rw, 0, 4294967295⟩]⟩
  | .DEV_ERR_LOG_STAT => ⟨0x418, 1, 0x0, 1, 0, 64, false, 0x0,
      [⟨0, 32, .ro, 0, 4294967295⟩, ⟨32, 16, .ro, 0, 65535⟩, ⟨48, 1, .w1c, 0, 1⟩]⟩
  | .DEV_ERR_CNT => ⟨0x420, 1, 0x0, 1, 0, 64, false, 0x0,
      [⟨0, 16, .ro, 0, 65535⟩, ⟨16, 16, .ro, 0, 65535⟩, ⟨32, 16, .ro, 0, 65535⟩, ⟨48, 16, .ro, 0, 65535⟩]⟩
  | .DEV_ERR_CTX => ⟨0x428, 1, 0x0, 1, 0, 64, false, 0x0,
      [⟨0, 64, .w1c, 0, 18446744073709551615⟩]⟩
  | .DEV_FROST_CTL => ⟨0x440, 1, 0x0, 1, 0, 32, false, 0x204,
      [⟨0, 1, .rw, 0, 1⟩, ⟨1, 1, .rw, 0, 1⟩, ⟨2, 1, .rw, 0, 1⟩, ⟨3, 1, .rw, 0, 1⟩,
      ⟨4, 6, .rw, 0, 63⟩]⟩
  | .DEV_FROST_CMD => ⟨0x448, 1, 0x0, 1, 0, 32, false, 0x0,
      [⟨0, 1, .w1s, 0, 1⟩, ⟨1, 1, .wo, 0, 1⟩, ⟨2, 1, .w1s, 0, 1⟩, ⟨3, 1, .wo, 0, 1⟩,
      ⟨4, 1, .w1s, 0, 1⟩]⟩
  | .DEV_FROST_STAT => ⟨0x450, 1, 0x0, 1, 0, 64, false, 0x0,
      [⟨0, 2, .ro, 0, 3⟩, ⟨2, 1, .ro, 0, 1⟩, ⟨4, 4, .ro, 0, 15⟩, ⟨8, 6, .ro, 0, 63⟩,
      ⟨16, 16, .ro, 0, 65535⟩, ⟨32, 32, .ro, 0, 4294967295⟩]⟩
  | .DEV_FROST_DUMP => ⟨0x458, 1, 0x0, 1, 0, 64, false, 0x0,
      [⟨30, 18, .rw, 0, 262143⟩]⟩
  | .TXN_BEGIN => ⟨0x10000, 1, 0x0, 1, 0, 32, false, 0x0,
      [⟨0, 1, .wo, 0, 1⟩]⟩
  | .TXN_COMMIT => ⟨0x10008, 1, 0x0, 1, 0, 32, false, 0x0,
      [⟨0, 1, .wo, 0, 1⟩]⟩
  | .TXN_ABORT => ⟨0x10010, 1, 0x0, 1, 0, 32, false, 0x0,
      [⟨0, 1, .wo, 0, 1⟩]⟩
  | .TXN_VIEW => ⟨0x10018, 1, 0x0, 1, 0, 32, false, 0x0,
      [⟨0, 1, .rw, 0, 1⟩]⟩
  | .TXN_CTL => ⟨0x10020, 1, 0x0, 1, 0, 32, false, 0x3e8,
      [⟨0, 16, .rw, 1, 65535⟩]⟩
  | .TXN_STAT => ⟨0x10028, 1, 0x0, 1, 0, 64, false, 0x0,
      [⟨0, 2, .ro, 0, 3⟩, ⟨2, 1, .w1c, 0, 1⟩, ⟨3, 1, .w1c, 0, 1⟩, ⟨4, 3, .ro, 0, 7⟩,
      ⟨8, 8, .ro, 0, 255⟩, ⟨16, 16, .ro, 0, 65535⟩, ⟨32, 25, .ro, 0, 33554431⟩]⟩
  | .OTP_GEN => ⟨0x20000, 1, 0x0, 1, 0, 32, false, 0x0,
      [⟨0, 2, .ro, 0, 3⟩, ⟨2, 1, .ro, 0, 1⟩, ⟨4, 2, .ro, 0, 3⟩, ⟨6, 1, .ro, 0, 1⟩,
      ⟨8, 2, .ro, 0, 3⟩, ⟨10, 1, .ro, 0, 1⟩, ⟨12, 2, .ro, 0, 3⟩, ⟨14, 1, .ro, 0, 1⟩,
      ⟨16, 2, .ro, 0, 3⟩, ⟨18, 1, .ro, 0, 1⟩, ⟨20, 2, .ro, 0, 3⟩, ⟨22, 1, .ro, 0, 1⟩]⟩
  | .OTP_PROG_CTL => ⟨0x20010, 1, 0x0, 1, 0, 32, false, 0x0,
      [⟨0, 4, .rw, 0, 15⟩, ⟨4, 2, .rw, 0, 3⟩, ⟨8, 8, .wo, 0, 255⟩, ⟨16, 1, .wo, 0, 1⟩]⟩
  | .OTP_PROG_STAT => ⟨0x20018, 1, 0x0, 1, 0, 32, false, 0x0,
      [⟨0, 1, .ro, 0, 1⟩, ⟨1, 3, .ro, 0, 7⟩]⟩
  | .FE_POLL_CTL => ⟨0x40000, 1, 0x0, 1, 0, 32, false, 0x64,
      [⟨0, 16, .rw, 2, 65535⟩]⟩
  | .FE_BAR4_OFFSET => ⟨0x40010, 1, 0x0, 1, 0, 64, false, 0x0,
      [⟨30, 18, .rw, 0, 262143⟩]⟩
  | .FE_CTX_CFG => ⟨0x40400, 64, 0x10, 1, 0, 64, false, 0x0,
      [⟨0, 20, .rw, 0, 1048575⟩, ⟨20, 1, .rw, 0, 1⟩, ⟨21, 1, .rw, 0, 1⟩]⟩
  | .FE_FLT_BASE => ⟨0x41000, 1, 0x0, 1, 0, 64, false, 0x0,
      [⟨12, 52, .rw, 0, 4503599627370495⟩]⟩
  | .FE_FLT_CTL => ⟨0x41008, 1, 0x0, 1, 0, 32, false, 0x0,
      [⟨0, 4, .rw, 0, 15⟩, ⟨4, 1, .rw, 0, 1⟩]⟩
  | .FE_FLT_STAT => ⟨0x41010, 1, 0x0, 1, 0, 64, false, 0x0,
      [⟨0, 32, .ro, 0, 4294967295⟩, ⟨32, 16, .ro, 0, 65535⟩, ⟨48, 1, .w1c, 0, 1⟩]⟩
  | .FE_PROG_MIRROR => ⟨0x43000, 72, 0x8, 1, 0, 64, false, 0x0,
      [⟨0, 1, .rw, 0, 1⟩, ⟨5, 59, .rw, 0, 576460752303423487⟩]⟩
  | .FE_TQ_BASE => ⟨0x4c000, 1024, 0x10, 1, 0, 64, false, 0x0,
      [⟨6, 42, .rw, 0, 4398046511103⟩]⟩
  | .FE_TQ_CTL => ⟨0x4c008, 1024, 0x10, 1, 0, 32, false, 0x0,
      [⟨0, 6, .rw, 0, 63⟩, ⟨8, 4, .rw, 0, 15⟩, ⟨16, 1, .rw, 0, 1⟩]⟩
  | .FE_RING_BASE => ⟨0x50000, 4096, 0x20, 1, 0, 64, false, 0x0,
      [⟨6, 58, .rw, 0, 288230376151711743⟩]⟩
  | .FE_RING_HDR => ⟨0x50008, 4096, 0x20, 1, 0, 64, false, 0x0,
      [⟨6, 58, .rw, 0, 288230376151711743⟩]⟩
  | .FE_RING_CQ => ⟨0x50010, 4096, 0x20, 1, 0, 64, false, 0x0,
      [⟨6, 58, .rw, 0, 288230376151711743⟩]⟩
  | .FE_RING_CTL => ⟨0x50018, 4096, 0x20, 1, 0, 32, false, 0x0,
      [⟨0, 6, .rw, 0, 63⟩, ⟨8, 5, .rw, 0, 31⟩, ⟨13, 1, .rw, 0, 1⟩, ⟨14, 1, .rw, 0, 1⟩,
      ⟨16, 5, .rw, 0, 31⟩, ⟨24, 5, .rw, 0, 26⟩]⟩
  | .FE_RING_CMD => ⟨0x5001c, 4096, 0x20, 1, 0, 32, false, 0x0,
      [⟨0, 1, .w1s, 0, 1⟩, ⟨1, 1, .w1s, 0, 1⟩, ⟨8, 3, .ro, 0, 7⟩, ⟨16, 7, .ro, 0, 127⟩,
      ⟨24, 4, .ro, 0, 15⟩]⟩
  | .SYNC_CTX_TBL => ⟨0x80000, 64, 0x10, 1, 0, 64, false, 0x0,
      [⟨0, 1, .rw, 0, 1⟩, ⟨12, 36, .rw, 0, 68719476735⟩]⟩
  | .SYNC_CTX_LIM => ⟨0x80008, 64, 0x10, 1, 0, 32, false, 0x0,
      [⟨0, 21, .rw, 0, 1048576⟩, ⟨31, 1, .w1s, 0, 1⟩]⟩
  | .SYNC_CLR => ⟨0x80800, 1, 0x0, 1, 0, 32, false, 0x0,
      [⟨0, 20, .wo, 0, 1048575⟩, ⟨31, 1, .wo, 0, 1⟩]⟩
  | .SYNC_BAR_CTL => ⟨0x81000, 256, 0x40, 1, 0, 64, false, 0x4,
      [⟨0, 1, .rw, 0, 1⟩, ⟨1, 1, .rw, 0, 1⟩, ⟨2, 1, .rw, 0, 1⟩, ⟨8, 6, .rw, 0, 63⟩,
      ⟨16, 12, .rw, 0, 4095⟩, ⟨32, 20, .rw, 0, 1048575⟩]⟩
  | .SYNC_BAR_MASK => ⟨0x81008, 256, 0x40, 3, 8, 64, false, 0x0,
      [⟨0, 64, .rw, 0, 18446744073709551615⟩]⟩
  | .SYNC_BAR_STAT => ⟨0x81020, 256, 0x40, 1, 0, 64, false, 0x0,
      [⟨0, 32, .ro, 0, 4294967295⟩, ⟨32, 1, .w1c, 0, 1⟩, ⟨33, 1, .w1c, 0, 1⟩]⟩
  | .SYNC_RALN_CTL => ⟨0x85000, 64, 0x100, 1, 0, 64, false, 0x0,
      [⟨0, 1, .rw, 0, 1⟩, ⟨8, 8, .rw, 0, 255⟩, ⟨16, 4, .rw, 0, 15⟩, ⟨32, 32, .rw, 0, 4294967295⟩]⟩
  | .SYNC_RALN_WORD => ⟨0x85010, 64, 0x100, 16, 8, 32, false, 0x0,
      [⟨0, 20, .rw, 0, 1048575⟩]⟩
  | .SYNC_RALN_STAT => ⟨0x85090, 64, 0x100, 1, 0, 64, false, 0x0,
      [⟨0, 32, .ro, 0, 4294967295⟩, ⟨32, 1, .w1c, 0, 1⟩]⟩
  | .SYNC_RALN_BASE => ⟨0x85098, 64, 0x100, 1, 0, 64, false, 0x0,
      [⟨0, 64, .ro, 0, 18446744073709551615⟩]⟩
  | .PWR_CAP => ⟨0xc0000, 1, 0x0, 1, 0, 32, false, 0xbb8,
      [⟨0, 12, .rw, 1000, 3000⟩, ⟨16, 1, .rw, 0, 1⟩]⟩
  | .PWR_RAMP_UP => ⟨0xc0008, 1, 0x0, 1, 0, 32, false, 0x14,
      [⟨0, 8, .rw, 1, 200⟩]⟩
  | .PWR_RAMP_DN => ⟨0xc000c, 1, 0x0, 1, 0, 32, false, 0x14,
      [⟨0, 8, .rw, 1, 200⟩]⟩
  | .PWR_BALLAST => ⟨0xc0010, 1, 0x0, 1, 0, 32, false, 0x2801,
      [⟨0, 1, .rw, 0, 1⟩, ⟨8, 6, .rw, 0, 40⟩]⟩
  | .PWR_PHASE => ⟨0xc0018, 1, 0x0, 1, 0, 32, false, 0x28320000,
      [⟨0, 6, .rw, 0, 63⟩, ⟨16, 10, .rw, 0, 1000⟩, ⟨26, 6, .rw, 1, 50⟩]⟩
  | .PWR_THAW => ⟨0xc0020, 1, 0x0, 1, 0, 32, false, 0x8,
      [⟨0, 8, .rw, 0, 255⟩, ⟨8, 1, .rw, 0, 1⟩]⟩
  | .PWR_THAW_MAP => ⟨0xc0028, 1, 0x0, 1, 0, 64, false, 0xba9876543210,
      [⟨0, 4, .rw, 0, 15⟩, ⟨4, 4, .rw, 0, 15⟩, ⟨8, 4, .rw, 0, 15⟩, ⟨12, 4, .rw, 0, 15⟩,
      ⟨16, 4, .rw, 0, 15⟩, ⟨20, 4, .rw, 0, 15⟩, ⟨24, 4, .rw, 0, 15⟩, ⟨28, 4, .rw, 0, 15⟩,
      ⟨32, 4, .rw, 0, 15⟩, ⟨36, 4, .rw, 0, 15⟩, ⟨40, 4, .rw, 0, 15⟩, ⟨44, 4, .rw, 0, 15⟩]⟩
  | .PWR_RAIL_CTL => ⟨0xc0040, 1, 0x0, 1, 0, 32, false, 0x302ee,
      [⟨0, 10, .rw, 550, 900⟩, ⟨16, 1, .rw, 0, 1⟩, ⟨17, 1, .rw, 0, 1⟩]⟩
  | .PWR_ISO_CTL => ⟨0xc0048, 1, 0x0, 1, 0, 32, false, 0x0,
      [⟨0, 1, .rw, 0, 1⟩, ⟨1, 1, .ro, 0, 1⟩]⟩
  | .PWR_ILIM => ⟨0xc0050, 1, 0x0, 1, 0, 32, false, 0x3e,
      [⟨0, 8, .rw, 20, 62⟩]⟩
  | .PWR_EXT_CAP => ⟨0xc0058, 1, 0x0, 1, 0, 32, false, 0xbb8,
      [⟨0, 12, .ro, 0, 4095⟩, ⟨12, 1, .ro, 0, 1⟩]⟩
  | .PWR_ALERT_MASK => ⟨0xc0060, 1, 0x0, 1, 0, 32, false, 0x7,
      [⟨0, 1, .rw, 0, 1⟩, ⟨1, 1, .rw, 0, 1⟩, ⟨2, 1, .rw, 0, 1⟩, ⟨3, 1, .rw, 0, 1⟩]⟩
  | .PWR_THERM => ⟨0xc0068, 1, 0x0, 1, 0, 32, false, 0x64,
      [⟨0, 8, .rw, 70, 100⟩]⟩
  | .PWR_MEAS => ⟨0xc0100, 1, 0x0, 1, 0, 64, false, 0xbb800000000,
      [⟨0, 16, .ro, 0, 65535⟩, ⟨16, 16, .ro, 0, 65535⟩, ⟨32, 16, .ro, 0, 65535⟩, ⟨48, 16, .ro, 0, 65535⟩]⟩
  | .PWR_THR_STAT => ⟨0xc0108, 1, 0x0, 1, 0, 32, false, 0xf00,
      [⟨0, 8, .ro, 0, 255⟩, ⟨8, 4, .ro, 0, 15⟩, ⟨12, 1, .ro, 0, 1⟩, ⟨16, 12, .ro, 0, 4095⟩]⟩
  | .PWR_THR_NS => ⟨0xc0200, 8, 0x8, 1, 0, 64, false, 0x0,
      [⟨0, 64, .ro, 0, 18446744073709551615⟩]⟩
  | .PWR_DIE => ⟨0xc0400, 16, 0x8, 1, 0, 64, false, 0x2ee,
      [⟨0, 10, .ro, 0, 1023⟩, ⟨10, 6, .ro, 0, 63⟩, ⟨16, 6, .ro, 0, 63⟩, ⟨24, 8, .ro, 0, 255⟩,
      ⟨32, 16, .ro, 0, 65535⟩, ⟨48, 1, .ro, 0, 1⟩]⟩
  | .PWR_EVT => ⟨0xc0500, 1, 0x0, 1, 0, 32, false, 0x0,
      [⟨0, 1, .w1c, 0, 1⟩, ⟨1, 1, .w1c, 0, 1⟩, ⟨2, 1, .w1c, 0, 1⟩, ⟨3, 1, .w1c, 0, 1⟩,
      ⟨4, 1, .w1c, 0, 1⟩, ⟨5, 1, .w1c, 0, 1⟩, ⟨6, 1, .w1c, 0, 1⟩]⟩
  | .PWR_OUTLIER => ⟨0xc0508, 1, 0x0, 1, 0, 32, false, 0x0,
      [⟨0, 3, .ro, 0, 7⟩, ⟨3, 2, .ro, 0, 3⟩, ⟨5, 5, .ro, 0, 31⟩, ⟨16, 8, .ro, 0, 255⟩]⟩
  | .MEM_ILV_CTL => ⟨0x100000, 1, 0x0, 1, 0, 32, true, 0x0,
      [⟨0, 1, .rw, 0, 1⟩]⟩
  | .MEM_WCB_CTL => ⟨0x100010, 1, 0x0, 1, 0, 32, false, 0xc014,
      [⟨0, 8, .rw, 1, 255⟩, ⟨8, 8, .rw, 64, 255⟩, ⟨16, 1, .w1s, 0, 1⟩]⟩
  | .MEM_REMAP_CTL => ⟨0x100020, 1, 0x0, 1, 0, 32, false, 0x108,
      [⟨0, 8, .rw, 1, 255⟩, ⟨8, 1, .rw, 0, 1⟩]⟩
  | .MEM_SCRUB_CTL => ⟨0x100028, 1, 0x0, 1, 0, 32, false, 0x1801,
      [⟨0, 1, .rw, 0, 1⟩, ⟨8, 8, .rw, 1, 255⟩]⟩
  | .MEM_TRAIN_STAT => ⟨0x100040, 1, 0x0, 1, 0, 64, false, 0x0,
      [⟨0, 20, .ro, 0, 1048575⟩, ⟨20, 20, .ro, 0, 1048575⟩, ⟨40, 1, .ro, 0, 1⟩, ⟨41, 1, .ro, 0, 1⟩]⟩
  | .MEM_TG_CTL => ⟨0x100100, 1, 0x0, 1, 0, 64, false, 0x0,
      [⟨0, 10, .rw, 0, 639⟩, ⟨10, 2, .rw, 0, 3⟩, ⟨16, 1, .w1s, 0, 1⟩, ⟨32, 32, .rw, 0, 4294967295⟩]⟩
  | .MEM_TG_STAT => ⟨0x100108, 1, 0x0, 1, 0, 64, false, 0x0,
      [⟨0, 32, .ro, 0, 4294967295⟩, ⟨32, 16, .ro, 0, 65535⟩, ⟨48, 1, .ro, 0, 1⟩, ⟨49, 1, .w1c, 0, 1⟩]⟩
  | .MEM_CTX_PTBASE => ⟨0x10f000, 64, 0x10, 1, 0, 64, false, 0x0,
      [⟨0, 1, .rw, 0, 1⟩, ⟨12, 36, .rw, 0, 68719476735⟩]⟩
  | .MEM_CTX_INVAL => ⟨0x10f008, 64, 0x10, 1, 0, 32, false, 0x0,
      [⟨0, 1, .w1s, 0, 1⟩]⟩
  | .MEM_CH_STAT => ⟨0x110000, 640, 0x8, 1, 0, 64, false, 0x0,
      [⟨0, 7, .ro, 0, 127⟩, ⟨7, 1, .w1c, 0, 1⟩, ⟨8, 16, .ro, 0, 65535⟩, ⟨24, 16, .ro, 0, 65535⟩,
      ⟨40, 16, .ro, 0, 65535⟩]⟩
  | .MEM_CH_MARGIN => ⟨0x112000, 640, 0x8, 1, 0, 32, false, 0x0,
      [⟨0, 8, .ro, 0, 255⟩, ⟨8, 8, .ro, 0, 255⟩, ⟨16, 8, .ro, 0, 255⟩, ⟨24, 1, .ro, 0, 1⟩,
      ⟨25, 1, .ro, 0, 1⟩]⟩
  | .VAT_PART => ⟨0x200000, 4, 0x8, 1, 0, 32, true, 0x10081804,
      [⟨0, 8, .rw, 0, 255⟩, ⟨8, 8, .rw, 0, 255⟩, ⟨16, 8, .rw, 0, 255⟩, ⟨24, 8, .rw, 0, 255⟩]⟩
  | .FAB_NODE => ⟨0x300000, 1, 0x0, 1, 0, 32, true, 0x0,
      [⟨0, 16, .rw, 0, 65535⟩]⟩
  | .FAB_DIM_CFG => ⟨0x300010, 4, 0x8, 1, 0, 32, true, 0x0,
      [⟨0, 4, .rw, 0, 15⟩, ⟨4, 1, .rw, 0, 1⟩, ⟨8, 4, .rw, 0, 15⟩]⟩
  | .FAB_RT => ⟨0x300100, 4, 0x8, 1, 0, 32, true, 0x0,
      [⟨0, 2, .rw, 0, 3⟩, ⟨2, 2, .rw, 0, 3⟩, ⟨4, 2, .rw, 0, 3⟩, ⟨6, 2, .rw, 0, 3⟩,
      ⟨8, 2, .rw, 0, 3⟩, ⟨10, 2, .rw, 0, 3⟩, ⟨12, 2, .rw, 0, 3⟩, ⟨14, 2, .rw, 0, 3⟩,
      ⟨16, 2, .rw, 0, 3⟩, ⟨18, 2, .rw, 0, 3⟩, ⟨20, 2, .rw, 0, 3⟩, ⟨22, 2, .rw, 0, 3⟩,
      ⟨24, 2, .rw, 0, 3⟩, ⟨26, 2, .rw, 0, 3⟩, ⟨28, 2, .rw, 0, 3⟩, ⟨30, 2, .rw, 0, 3⟩]⟩
  | .FAB_ESC_CTL => ⟨0x300200, 1, 0x0, 1, 0, 32, false, 0xc8,
      [⟨0, 16, .rw, 1, 65535⟩]⟩
  | .FAB_TP_CTL => ⟨0x300210, 1, 0x0, 1, 0, 32, false, 0x100064,
      [⟨0, 16, .rw, 1, 65535⟩, ⟨16, 8, .rw, 1, 255⟩]⟩
  | .FAB_CTL => ⟨0x300300, 1, 0x0, 1, 0, 32, false, 0x0,
      [⟨0, 1, .rw, 0, 1⟩, ⟨1, 1, .ro, 0, 1⟩]⟩
  | .FAB_EVT => ⟨0x300308, 1, 0x0, 1, 0, 32, false, 0x0,
      [⟨0, 1, .w1c, 0, 1⟩]⟩
  | .FAB_DROP_CNT => ⟨0x300400, 1, 0x0, 1, 0, 64, false, 0x0,
      [⟨0, 16, .ro, 0, 65535⟩, ⟨16, 16, .ro, 0, 65535⟩, ⟨32, 8, .ro, 0, 255⟩, ⟨40, 16, .ro, 0, 65535⟩,
      ⟨56, 8, .ro, 0, 255⟩]⟩
  | .FAB_TP_CNT => ⟨0x300408, 1, 0x0, 1, 0, 64, false, 0x0,
      [⟨0, 32, .ro, 0, 4294967295⟩, ⟨32, 32, .ro, 0, 4294967295⟩]⟩
  | .FAB_CTX_DOM => ⟨0x301000, 64, 0x8, 1, 0, 32, false, 0x0,
      [⟨0, 16, .rw, 0, 65535⟩, ⟨16, 1, .rw, 0, 1⟩]⟩
  | .LNK_CTL => ⟨0x400000, 16, 0x10000, 1, 0, 32, false, 0x2,
      [⟨0, 1, .rw, 0, 1⟩, ⟨1, 1, .rw, 0, 1⟩, ⟨2, 1, .rw, 0, 1⟩, ⟨3, 1, .rw, 0, 1⟩,
      ⟨4, 2, .rw, 0, 2⟩, ⟨6, 1, .w1s, 0, 1⟩]⟩
  | .LNK_STAT => ⟨0x400008, 16, 0x10000, 1, 0, 64, false, 0x0,
      [⟨0, 3, .ro, 0, 7⟩, ⟨3, 1, .ro, 0, 1⟩, ⟨4, 2, .ro, 0, 3⟩, ⟨6, 1, .ro, 0, 1⟩,
      ⟨8, 8, .ro, 0, 255⟩, ⟨16, 8, .ro, 0, 255⟩, ⟨32, 16, .ro, 0, 65535⟩, ⟨48, 4, .ro, 0, 15⟩]⟩
  | .LNK_RETRY_CTL => ⟨0x400010, 16, 0x10000, 1, 0, 32, false, 0x828,
      [⟨0, 8, .rw, 1, 255⟩, ⟨8, 8, .rw, 1, 255⟩]⟩
  | .LNK_VC_CRED => ⟨0x400020, 16, 0x10000, 9, 4, 32, true, 0x1c7,
      [⟨0, 12, .rw, 0, 4095⟩]⟩
  | .LNK_BUF_STAT => ⟨0x400050, 16, 0x10000, 1, 0, 64, false, 0x0,
      [⟨0, 16, .ro, 0, 65535⟩, ⟨16, 16, .ro, 0, 65535⟩, ⟨32, 16, .ro, 0, 65535⟩]⟩
  | .LNK_FEC_CNT => ⟨0x400080, 16, 0x10000, 1, 0, 64, false, 0x0,
      [⟨0, 40, .ro, 0, 1099511627775⟩, ⟨40, 24, .ro, 0, 16777215⟩]⟩
  | .LNK_LL_CNT => ⟨0x400088, 16, 0x10000, 1, 0, 64, false, 0x0,
      [⟨0, 24, .ro, 0, 16777215⟩, ⟨24, 24, .ro, 0, 16777215⟩, ⟨48, 16, .ro, 0, 65535⟩]⟩
  | .LNK_LANE_SYM => ⟨0x400090, 16, 0x10000, 8, 8, 64, false, 0x0,
      [⟨0, 48, .ro, 0, 281474976710655⟩]⟩
  | .LNK_EVT => ⟨0x400100, 16, 0x10000, 1, 0, 32, false, 0x0,
      [⟨0, 1, .w1c, 0, 1⟩, ⟨1, 1, .w1c, 0, 1⟩, ⟨2, 1, .w1c, 0, 1⟩, ⟨3, 1, .w1c, 0, 1⟩,
      ⟨4, 1, .w1c, 0, 1⟩, ⟨5, 1, .w1c, 0, 1⟩]⟩
  | .COL_GRP_LIST => ⟨0x500000, 4096, 0x20, 1, 0, 64, false, 0x0,
      [⟨6, 42, .rw, 0, 4398046511103⟩]⟩
  | .COL_GRP_CTL => ⟨0x500008, 4096, 0x20, 1, 0, 32, false, 0x80000,
      [⟨0, 1, .rw, 0, 1⟩, ⟨2, 6, .rw, 0, 63⟩, ⟨8, 2, .rw, 0, 3⟩, ⟨16, 6, .rw, 1, 63⟩]⟩
  | .COL_GRP_STAT => ⟨0x500010, 4096, 0x20, 1, 0, 64, false, 0x0,
      [⟨0, 2, .ro, 0, 3⟩, ⟨8, 8, .ro, 0, 255⟩, ⟨16, 16, .ro, 0, 65535⟩, ⟨32, 32, .ro, 0, 4294967295⟩]⟩
  | .COL_GRP_EPOCH => ⟨0x500018, 4096, 0x20, 1, 0, 32, false, 0x0,
      [⟨0, 32, .ro, 0, 4294967295⟩]⟩
  | .DBG_SNAP_ADDR => ⟨0x600000, 64, 0x10, 1, 0, 64, false, 0x0,
      [⟨6, 58, .rw, 0, 288230376151711743⟩]⟩
  | .DBG_SNAP_CMD => ⟨0x600008, 64, 0x10, 1, 0, 32, false, 0x0,
      [⟨0, 8, .rw, 0, 255⟩, ⟨8, 2, .rw, 0, 3⟩, ⟨10, 1, .w1s, 0, 1⟩, ⟨11, 1, .ro, 0, 1⟩,
      ⟨12, 1, .w1c, 0, 1⟩, ⟨13, 1, .w1c, 0, 1⟩]⟩
  | .DBG_TRC_CTL => ⟨0x601000, 1, 0x0, 1, 0, 32, false, 0xa0078,
      [⟨0, 1, .rw, 0, 1⟩, ⟨1, 1, .rw, 0, 1⟩, ⟨2, 6, .rw, 5, 50⟩, ⟨8, 8, .rw, 0, 255⟩,
      ⟨16, 4, .rw, 0, 15⟩]⟩
  | .DBG_TRC_BASE => ⟨0x601010, 4, 0x10, 1, 0, 64, false, 0x14000000000000,
      [⟨12, 36, .rw, 0, 68719476735⟩, ⟨48, 6, .rw, 0, 63⟩]⟩
  | .DBG_TRC_STAT => ⟨0x601100, 4, 0x10, 1, 0, 64, false, 0x0,
      [⟨0, 40, .ro, 0, 1099511627775⟩]⟩
  | .DBG_TRC_DROP => ⟨0x601108, 4, 0x10, 1, 0, 64, false, 0x0,
      [⟨0, 24, .ro, 0, 16777215⟩, ⟨24, 24, .ro, 0, 16777215⟩, ⟨48, 16, .ro, 0, 65535⟩]⟩
  | .DBG_WFG_ADDR => ⟨0x603000, 1, 0x0, 1, 0, 64, false, 0x0,
      [⟨12, 52, .rw, 0, 4503599627370495⟩]⟩
  | .DBG_WFG_CTL => ⟨0x603008, 1, 0x0, 1, 0, 32, false, 0x3e8,
      [⟨0, 16, .rw, 0, 65535⟩, ⟨16, 1, .w1s, 0, 1⟩, ⟨17, 1, .ro, 0, 1⟩, ⟨18, 1, .w1c, 0, 1⟩]⟩
  | .SEC_BOOT_STAT => ⟨0x700000, 1, 0x0, 1, 0, 64, false, 0x0,
      [⟨0, 1, .ro, 0, 1⟩, ⟨1, 1, .ro, 0, 1⟩, ⟨2, 2, .ro, 0, 3⟩, ⟨4, 1, .ro, 0, 1⟩,
      ⟨5, 1, .ro, 0, 1⟩, ⟨16, 32, .ro, 0, 4294967295⟩]⟩
  | .SEC_LNK_CTL => ⟨0x710000, 16, 0x200, 1, 0, 32, false, 0x800,
      [⟨0, 1, .rw, 0, 1⟩, ⟨1, 1, .rw, 0, 1⟩, ⟨2, 1, .ro, 0, 1⟩, ⟨8, 4, .rw, 1, 15⟩]⟩
  | .SEC_LNK_STAT => ⟨0x710008, 16, 0x200, 1, 0, 64, false, 0x0,
      [⟨0, 32, .ro, 0, 4294967295⟩, ⟨32, 4, .ro, 0, 15⟩]⟩
  | .D2D_DIE_ID => ⟨0x800000, 17, 0x8, 1, 0, 32, false, 0x0,
      [⟨0, 8, .ro, 0, 255⟩, ⟨8, 1, .ro, 0, 1⟩, ⟨9, 1, .ro, 0, 1⟩]⟩
  | .D2D_PATH_STAT => ⟨0x800100, 34, 0x10, 1, 0, 64, false, 0x0,
      [⟨0, 10, .ro, 0, 1023⟩, ⟨10, 10, .ro, 0, 1023⟩, ⟨20, 10, .ro, 0, 1023⟩, ⟨32, 16, .ro, 0, 65535⟩]⟩
  | .D2D_PATH_CNT => ⟨0x800108, 34, 0x10, 1, 0, 64, false, 0x0,
      [⟨0, 32, .ro, 0, 4294967295⟩, ⟨32, 32, .ro, 0, 4294967295⟩]⟩
  | .D2D_BR_ROLE => ⟨0x800400, 8, 0x8, 1, 0, 64, true, 0xaa50000000000000,
      [⟨0, 2, .rw, 0, 3⟩, ⟨2, 2, .rw, 0, 3⟩, ⟨4, 2, .rw, 0, 3⟩, ⟨6, 2, .rw, 0, 3⟩,
      ⟨8, 2, .rw, 0, 3⟩, ⟨10, 2, .rw, 0, 3⟩, ⟨12, 2, .rw, 0, 3⟩, ⟨14, 2, .rw, 0, 3⟩,
      ⟨16, 2, .rw, 0, 3⟩, ⟨18, 2, .rw, 0, 3⟩, ⟨20, 2, .rw, 0, 3⟩, ⟨22, 2, .rw, 0, 3⟩,
      ⟨24, 2, .rw, 0, 3⟩, ⟨26, 2, .rw, 0, 3⟩, ⟨28, 2, .rw, 0, 3⟩, ⟨30, 2, .rw, 0, 3⟩,
      ⟨32, 2, .rw, 0, 3⟩, ⟨34, 2, .rw, 0, 3⟩, ⟨36, 2, .rw, 0, 3⟩, ⟨38, 2, .rw, 0, 3⟩,
      ⟨40, 2, .rw, 0, 3⟩, ⟨42, 2, .rw, 0, 3⟩, ⟨44, 2, .rw, 0, 3⟩, ⟨46, 2, .rw, 0, 3⟩,
      ⟨48, 2, .rw, 0, 3⟩, ⟨50, 2, .rw, 0, 3⟩, ⟨52, 2, .rw, 0, 3⟩, ⟨54, 2, .rw, 0, 3⟩,
      ⟨56, 2, .rw, 0, 3⟩, ⟨58, 2, .rw, 0, 3⟩, ⟨60, 2, .rw, 0, 3⟩, ⟨62, 2, .rw, 0, 3⟩]⟩
  | .D2D_EVT => ⟨0x800500, 1, 0x0, 1, 0, 32, false, 0x0,
      [⟨0, 1, .w1c, 0, 1⟩, ⟨1, 1, .w1c, 0, 1⟩, ⟨2, 1, .w1c, 0, 1⟩, ⟨3, 1, .w1c, 0, 1⟩]⟩
  | .D2D_GW_BASE => ⟨0x801000, 16, 0x20, 1, 0, 64, true, 0x0,
      [⟨16, 32, .rw, 0, 4294967295⟩]⟩
  | .D2D_GW_TGT => ⟨0x801008, 16, 0x20, 1, 0, 64, true, 0x0,
      [⟨0, 48, .rw, 0, 281474976710655⟩]⟩
  | .D2D_GW_CTL => ⟨0x801010, 16, 0x20, 1, 0, 32, true, 0x3e80000,
      [⟨0, 1, .rw, 0, 1⟩, ⟨1, 1, .rw, 0, 1⟩, ⟨2, 1, .rw, 0, 1⟩, ⟨3, 1, .rw, 0, 1⟩,
      ⟨4, 6, .rw, 0, 63⟩, ⟨10, 6, .rw, 0, 63⟩, ⟨16, 10, .rw, 1, 1023⟩]⟩
  | .D2D_GUEST_STAT => ⟨0x801200, 1, 0x0, 1, 0, 64, false, 0x0,
      [⟨0, 1, .ro, 0, 1⟩, ⟨32, 32, .ro, 0, 4294967295⟩]⟩
  | .CORE_OWNER => ⟨0x1000000, 192, 0x10000, 1, 0, 32, false, 0x0,
      [⟨0, 6, .rw, 0, 63⟩, ⟨8, 1, .rw, 0, 1⟩]⟩
  | .CORE_CTX_CTL => ⟨0x1000010, 192, 0x10000, 1, 0, 32, false, 0x0,
      [⟨0, 2, .wo, 0, 3⟩, ⟨2, 1, .wo, 0, 1⟩]⟩
  | .CORE_CTX_SAVE => ⟨0x1000018, 192, 0x10000, 1, 0, 64, false, 0x0,
      [⟨16, 32, .rw, 0, 4294967295⟩]⟩
  | .CORE_CTX_STAT => ⟨0x1000020, 192, 0x10000, 1, 0, 32, false, 0x0,
      [⟨0, 3, .ro, 0, 7⟩, ⟨3, 1, .w1c, 0, 1⟩, ⟨4, 1, .w1c, 0, 1⟩]⟩
  | .CORE_RATE_CTL => ⟨0x1000100, 192, 0x10000, 1, 0, 32, false, 0x104,
      [⟨0, 4, .rw, 0, 10⟩, ⟨8, 1, .rw, 0, 1⟩]⟩
  | .CORE_RATE_CNT => ⟨0x1000108, 192, 0x10000, 1, 0, 64, false, 0x0,
      [⟨0, 24, .ro, 0, 16777215⟩, ⟨24, 24, .ro, 0, 16777215⟩, ⟨48, 16, .ro, 0, 65535⟩]⟩
  | .CORE_MARGIN_STAT => ⟨0x1000118, 192, 0x10000, 1, 0, 32, false, 0x0,
      [⟨0, 8, .ro, 0, 255⟩, ⟨8, 8, .ro, 0, 255⟩, ⟨16, 8, .ro, 0, 255⟩, ⟨24, 8, .ro, 0, 255⟩]⟩
  | .CORE_SR_SEED => ⟨0x1000128, 192, 0x10000, 1, 0, 64, false, 0x0,
      [⟨0, 64, .rw, 0, 18446744073709551615⟩]⟩
  | .CORE_ACC_STAT => ⟨0x1000130, 192, 0x10000, 1, 0, 32, false, 0x0,
      [⟨0, 1, .ro, 0, 1⟩, ⟨1, 1, .ro, 0, 1⟩]⟩
  | .CORE_VEC_FLAGS => ⟨0x1000140, 192, 0x10000, 1, 0, 32, false, 0x0,
      [⟨0, 1, .w1c, 0, 1⟩, ⟨1, 1, .w1c, 0, 1⟩, ⟨2, 1, .w1c, 0, 1⟩, ⟨3, 1, .w1c, 0, 1⟩,
      ⟨4, 1, .w1c, 0, 1⟩, ⟨5, 1, .w1c, 0, 1⟩]⟩
  | .CORE_Q_STAT => ⟨0x1000150, 192, 0x10000, 1, 0, 64, false, 0x0,
      [⟨0, 4, .ro, 0, 15⟩, ⟨16, 4, .ro, 0, 15⟩, ⟨32, 4, .ro, 0, 15⟩, ⟨48, 4, .ro, 0, 15⟩,
      ⟨4, 6, .ro, 0, 63⟩, ⟨20, 6, .ro, 0, 63⟩, ⟨36, 6, .ro, 0, 63⟩, ⟨52, 6, .ro, 0, 63⟩]⟩
  | .CORE_SYNC_CTL => ⟨0x1000160, 192, 0x10000, 1, 0, 32, false, 0x0,
      [⟨0, 1, .rw, 0, 1⟩]⟩
  | .CORE_WAIT => ⟨0x1000170, 192, 0x10000, 1, 0, 64, false, 0x7,
      [⟨0, 4, .ro, 0, 15⟩, ⟨4, 1, .ro, 0, 1⟩, ⟨8, 56, .ro, 0, 72057594037927935⟩]⟩
  | .CORE_WAIT_SINCE => ⟨0x1000178, 192, 0x10000, 1, 0, 64, false, 0x0,
      [⟨0, 64, .ro, 0, 18446744073709551615⟩]⟩
  | .CORE_DBG_CTL => ⟨0x1000180, 192, 0x10000, 1, 0, 32, false, 0x0,
      [⟨0, 1, .rw, 0, 1⟩]⟩
  | .CORE_DBG_PC => ⟨0x1000188, 192, 0x10000, 1, 0, 64, false, 0x0,
      [⟨0, 64, .ro, 0, 18446744073709551615⟩]⟩

/-- Every register name, in the order of the codes. -/
def allRegs : List Reg :=
  [.DEV_ID, .DEV_PART, .DEV_SERIAL, .DEV_CAP1, .DEV_CAP2, .DEV_TIMEBASE, .DEV_NUM_CTL, .DEV_REPRO_CTL, .DEV_RST_CAUSE, .DEV_RST_CNT, .DEV_CORE_RST, .DEV_SYS_RST, .DEV_BOOT_STAT, .DEV_ERR_POLICY, .DEV_ERR_LOG_BASE, .DEV_ERR_LOG_CTL, .DEV_ERR_LOG_HEAD, .DEV_ERR_LOG_STAT, .DEV_ERR_CNT, .DEV_ERR_CTX, .DEV_FROST_CTL, .DEV_FROST_CMD, .DEV_FROST_STAT, .DEV_FROST_DUMP] ++
  [.TXN_BEGIN, .TXN_COMMIT, .TXN_ABORT, .TXN_VIEW, .TXN_CTL, .TXN_STAT, .OTP_GEN, .OTP_PROG_CTL, .OTP_PROG_STAT, .FE_POLL_CTL, .FE_BAR4_OFFSET, .FE_CTX_CFG, .FE_FLT_BASE, .FE_FLT_CTL, .FE_FLT_STAT, .FE_PROG_MIRROR, .FE_TQ_BASE, .FE_TQ_CTL, .FE_RING_BASE, .FE_RING_HDR, .FE_RING_CQ, .FE_RING_CTL, .FE_RING_CMD, .SYNC_CTX_TBL] ++
  [.SYNC_CTX_LIM, .SYNC_CLR, .SYNC_BAR_CTL, .SYNC_BAR_MASK, .SYNC_BAR_STAT, .SYNC_RALN_CTL, .SYNC_RALN_WORD, .SYNC_RALN_STAT, .SYNC_RALN_BASE, .PWR_CAP, .PWR_RAMP_UP, .PWR_RAMP_DN, .PWR_BALLAST, .PWR_PHASE, .PWR_THAW, .PWR_THAW_MAP, .PWR_RAIL_CTL, .PWR_ISO_CTL, .PWR_ILIM, .PWR_EXT_CAP, .PWR_ALERT_MASK, .PWR_THERM, .PWR_MEAS, .PWR_THR_STAT] ++
  [.PWR_THR_NS, .PWR_DIE, .PWR_EVT, .PWR_OUTLIER, .MEM_ILV_CTL, .MEM_WCB_CTL, .MEM_REMAP_CTL, .MEM_SCRUB_CTL, .MEM_TRAIN_STAT, .MEM_TG_CTL, .MEM_TG_STAT, .MEM_CTX_PTBASE, .MEM_CTX_INVAL, .MEM_CH_STAT, .MEM_CH_MARGIN, .VAT_PART, .FAB_NODE, .FAB_DIM_CFG, .FAB_RT, .FAB_ESC_CTL, .FAB_TP_CTL, .FAB_CTL, .FAB_EVT, .FAB_DROP_CNT] ++
  [.FAB_TP_CNT, .FAB_CTX_DOM, .LNK_CTL, .LNK_STAT, .LNK_RETRY_CTL, .LNK_VC_CRED, .LNK_BUF_STAT, .LNK_FEC_CNT, .LNK_LL_CNT, .LNK_LANE_SYM, .LNK_EVT, .COL_GRP_LIST, .COL_GRP_CTL, .COL_GRP_STAT, .COL_GRP_EPOCH, .DBG_SNAP_ADDR, .DBG_SNAP_CMD, .DBG_TRC_CTL, .DBG_TRC_BASE, .DBG_TRC_STAT, .DBG_TRC_DROP, .DBG_WFG_ADDR, .DBG_WFG_CTL, .SEC_BOOT_STAT] ++
  [.SEC_LNK_CTL, .SEC_LNK_STAT, .D2D_DIE_ID, .D2D_PATH_STAT, .D2D_PATH_CNT, .D2D_BR_ROLE, .D2D_EVT, .D2D_GW_BASE, .D2D_GW_TGT, .D2D_GW_CTL, .D2D_GUEST_STAT, .CORE_OWNER, .CORE_CTX_CTL, .CORE_CTX_SAVE, .CORE_CTX_STAT, .CORE_RATE_CTL, .CORE_RATE_CNT, .CORE_MARGIN_STAT, .CORE_SR_SEED, .CORE_ACC_STAT, .CORE_VEC_FLAGS, .CORE_Q_STAT, .CORE_SYNC_CTL, .CORE_WAIT] ++
  [.CORE_WAIT_SINCE, .CORE_DBG_CTL, .CORE_DBG_PC]

/-! Every field by name: register name, underscore, field name. -/
namespace F
def DEV_ID_VENDOR : Fld := ⟨.DEV_ID, 0, 16⟩
def DEV_ID_DEVICE : Fld := ⟨.DEV_ID, 16, 16⟩
def DEV_ID_REV : Fld := ⟨.DEV_ID, 32, 8⟩
def DEV_ID_STEP : Fld := ⟨.DEV_ID, 40, 8⟩
def DEV_PART_NNNN : Fld := ⟨.DEV_PART, 0, 16⟩
def DEV_PART_GUEST : Fld := ⟨.DEV_PART, 16, 1⟩
def DEV_PART_WEEK : Fld := ⟨.DEV_PART, 32, 16⟩
def DEV_SERIAL_SERIAL : Fld := ⟨.DEV_SERIAL, 0, 64⟩
def DEV_CAP1_CDIES : Fld := ⟨.DEV_CAP1, 0, 8⟩
def DEV_CAP1_CORES : Fld := ⟨.DEV_CAP1, 8, 8⟩
def DEV_CAP1_STACKS : Fld := ⟨.DEV_CAP1, 16, 8⟩
def DEV_CAP1_PORTS : Fld := ⟨.DEV_CAP1, 24, 8⟩
def DEV_CAP1_RINGS : Fld := ⟨.DEV_CAP1, 32, 16⟩
def DEV_CAP1_CTX : Fld := ⟨.DEV_CAP1, 48, 8⟩
def DEV_CAP2_VAT_MIB : Fld := ⟨.DEV_CAP2, 0, 16⟩
def DEV_CAP2_HBM_GIB : Fld := ⟨.DEV_CAP2, 16, 16⟩
def DEV_CAP2_GROUPS : Fld := ⟨.DEV_CAP2, 32, 16⟩
def DEV_CAP2_TQ : Fld := ⟨.DEV_CAP2, 48, 16⟩
def DEV_TIMEBASE_TIME : Fld := ⟨.DEV_TIMEBASE, 0, 64⟩
def DEV_NUM_CTL_STRICT : Fld := ⟨.DEV_NUM_CTL, 0, 1⟩
def DEV_NUM_CTL_STRICT_AUTO : Fld := ⟨.DEV_NUM_CTL, 1, 1⟩
def DEV_NUM_CTL_STRICT_EFF : Fld := ⟨.DEV_NUM_CTL, 2, 1⟩
def DEV_REPRO_CTL_REPRO : Fld := ⟨.DEV_REPRO_CTL, 0, 64⟩
def DEV_RST_CAUSE_SRC : Fld := ⟨.DEV_RST_CAUSE, 0, 9⟩
def DEV_RST_CAUSE_LEVEL : Fld := ⟨.DEV_RST_CAUSE, 9, 2⟩
def DEV_RST_CAUSE_FATAL_CODE : Fld := ⟨.DEV_RST_CAUSE, 16, 16⟩
def DEV_RST_CAUSE_CORE_MASK : Fld := ⟨.DEV_RST_CAUSE, 32, 12⟩
def DEV_RST_CNT_SYS : Fld := ⟨.DEV_RST_CNT, 0, 32⟩
def DEV_RST_CNT_CORE : Fld := ⟨.DEV_RST_CNT, 32, 32⟩
def DEV_CORE_RST_MASK : Fld := ⟨.DEV_CORE_RST, 0, 12⟩
def DEV_CORE_RST_GO : Fld := ⟨.DEV_CORE_RST, 16, 1⟩
def DEV_CORE_RST_BUSY : Fld := ⟨.DEV_CORE_RST, 17, 1⟩
def DEV_CORE_RST_BADREQ : Fld := ⟨.DEV_CORE_RST, 18, 1⟩
def DEV_SYS_RST_KEY : Fld := ⟨.DEV_SYS_RST, 0, 8⟩
def DEV_SYS_RST_GO : Fld := ⟨.DEV_SYS_RST, 8, 1⟩
def DEV_BOOT_STAT_STEP : Fld := ⟨.DEV_BOOT_STAT, 0, 4⟩
def DEV_BOOT_STAT_READY : Fld := ⟨.DEV_BOOT_STAT, 4, 1⟩
def DEV_BOOT_STAT_FAIL : Fld := ⟨.DEV_BOOT_STAT, 5, 1⟩
def DEV_BOOT_STAT_CODE : Fld := ⟨.DEV_BOOT_STAT, 8, 8⟩
def DEV_ERR_POLICY_ACT : Fld := ⟨.DEV_ERR_POLICY, 0, 1⟩
def DEV_ERR_POLICY_HOLD_FABRIC : Fld := ⟨.DEV_ERR_POLICY, 1, 1⟩
def DEV_ERR_LOG_BASE_ADDR : Fld := ⟨.DEV_ERR_LOG_BASE, 12, 52⟩
def DEV_ERR_LOG_CTL_LOG2N : Fld := ⟨.DEV_ERR_LOG_CTL, 0, 4⟩
def DEV_ERR_LOG_CTL_EN : Fld := ⟨.DEV_ERR_LOG_CTL, 4, 1⟩
def DEV_ERR_LOG_HEAD_HEAD : Fld := ⟨.DEV_ERR_LOG_HEAD, 0, 32⟩
def DEV_ERR_LOG_STAT_TAIL : Fld := ⟨.DEV_ERR_LOG_STAT, 0, 32⟩
def DEV_ERR_LOG_STAT_LOST : Fld := ⟨.DEV_ERR_LOG_STAT, 32, 16⟩
def DEV_ERR_LOG_STAT_FAIL : Fld := ⟨.DEV_ERR_LOG_STAT, 48, 1⟩
def DEV_ERR_CNT_CE : Fld := ⟨.DEV_ERR_CNT, 0, 16⟩
def DEV_ERR_CNT_DEF : Fld := ⟨.DEV_ERR_CNT, 16, 16⟩
def DEV_ERR_CNT_CON : Fld := ⟨.DEV_ERR_CNT, 32, 16⟩
def DEV_ERR_CNT_FAT : Fld := ⟨.DEV_ERR_CNT, 48, 16⟩
def DEV_ERR_CTX_KILLED : Fld := ⟨.DEV_ERR_CTX, 0, 64⟩
def DEV_FROST_CTL_DUMP : Fld := ⟨.DEV_FROST_CTL, 0, 1⟩
def DEV_FROST_CTL_PIN_IN : Fld := ⟨.DEV_FROST_CTL, 1, 1⟩
def DEV_FROST_CTL_PIN_SCOPE : Fld := ⟨.DEV_FROST_CTL, 2, 1⟩
def DEV_FROST_CTL_PIN_OUT : Fld := ⟨.DEV_FROST_CTL, 3, 1⟩
def DEV_FROST_CTL_ROUNDS : Fld := ⟨.DEV_FROST_CTL, 4, 6⟩
def DEV_FROST_CMD_FREEZE : Fld := ⟨.DEV_FROST_CMD, 0, 1⟩
def DEV_FROST_CMD_SCOPE : Fld := ⟨.DEV_FROST_CMD, 1, 1⟩
def DEV_FROST_CMD_THAW : Fld := ⟨.DEV_FROST_CMD, 2, 1⟩
def DEV_FROST_CMD_TSCOPE : Fld := ⟨.DEV_FROST_CMD, 3, 1⟩
def DEV_FROST_CMD_DUMP : Fld := ⟨.DEV_FROST_CMD, 4, 1⟩
def DEV_FROST_STAT_STATE : Fld := ⟨.DEV_FROST_STAT, 0, 2⟩
def DEV_FROST_STAT_DUMPED : Fld := ⟨.DEV_FROST_STAT, 2, 1⟩
def DEV_FROST_STAT_SRC : Fld := ⟨.DEV_FROST_STAT, 4, 4⟩
def DEV_FROST_STAT_ROUND : Fld := ⟨.DEV_FROST_STAT, 8, 6⟩
def DEV_FROST_STAT_FGEN : Fld := ⟨.DEV_FROST_STAT, 16, 16⟩
def DEV_FROST_STAT_ENTRIES : Fld := ⟨.DEV_FROST_STAT, 32, 32⟩
def DEV_FROST_DUMP_ADDR : Fld := ⟨.DEV_FROST_DUMP, 30, 18⟩
def TXN_BEGIN_GO : Fld := ⟨.TXN_BEGIN, 0, 1⟩
def TXN_COMMIT_GO : Fld := ⟨.TXN_COMMIT, 0, 1⟩
def TXN_ABORT_GO : Fld := ⟨.TXN_ABORT, 0, 1⟩
def TXN_VIEW_SHADOW : Fld := ⟨.TXN_VIEW, 0, 1⟩
def TXN_CTL_TMO : Fld := ⟨.TXN_CTL, 0, 16⟩
def TXN_STAT_STATE : Fld := ⟨.TXN_STAT, 0, 2⟩
def TXN_STAT_BADREQ : Fld := ⟨.TXN_STAT, 2, 1⟩
def TXN_STAT_STRAY : Fld := ⟨.TXN_STAT, 3, 1⟩
def TXN_STAT_RESULT : Fld := ⟨.TXN_STAT, 4, 3⟩
def TXN_STAT_DIRTY : Fld := ⟨.TXN_STAT, 8, 8⟩
def TXN_STAT_SEQ : Fld := ⟨.TXN_STAT, 16, 16⟩
def TXN_STAT_OFFSET : Fld := ⟨.TXN_STAT, 32, 25⟩
def OTP_GEN_GEN1 : Fld := ⟨.OTP_GEN, 0, 2⟩
def OTP_GEN_VALID1 : Fld := ⟨.OTP_GEN, 2, 1⟩
def OTP_GEN_GEN2 : Fld := ⟨.OTP_GEN, 4, 2⟩
def OTP_GEN_VALID2 : Fld := ⟨.OTP_GEN, 6, 1⟩
def OTP_GEN_GEN3 : Fld := ⟨.OTP_GEN, 8, 2⟩
def OTP_GEN_VALID3 : Fld := ⟨.OTP_GEN, 10, 1⟩
def OTP_GEN_GEN4 : Fld := ⟨.OTP_GEN, 12, 2⟩
def OTP_GEN_VALID4 : Fld := ⟨.OTP_GEN, 14, 1⟩
def OTP_GEN_GEN5 : Fld := ⟨.OTP_GEN, 16, 2⟩
def OTP_GEN_VALID5 : Fld := ⟨.OTP_GEN, 18, 1⟩
def OTP_GEN_GEN6 : Fld := ⟨.OTP_GEN, 20, 2⟩
def OTP_GEN_VALID6 : Fld := ⟨.OTP_GEN, 22, 1⟩
def OTP_PROG_CTL_TYPE : Fld := ⟨.OTP_PROG_CTL, 0, 4⟩
def OTP_PROG_CTL_GEN : Fld := ⟨.OTP_PROG_CTL, 4, 2⟩
def OTP_PROG_CTL_KEY : Fld := ⟨.OTP_PROG_CTL, 8, 8⟩
def OTP_PROG_CTL_GO : Fld := ⟨.OTP_PROG_CTL, 16, 1⟩
def OTP_PROG_STAT_BUSY : Fld := ⟨.OTP_PROG_STAT, 0, 1⟩
def OTP_PROG_STAT_RESULT : Fld := ⟨.OTP_PROG_STAT, 1, 3⟩
def FE_POLL_CTL_INTERVAL : Fld := ⟨.FE_POLL_CTL, 0, 16⟩
def FE_BAR4_OFFSET_ADDR : Fld := ⟨.FE_BAR4_OFFSET, 30, 18⟩
def FE_CTX_CFG_PASID : Fld := ⟨.FE_CTX_CFG, 0, 20⟩
def FE_CTX_CFG_PASID_EN : Fld := ⟨.FE_CTX_CFG, 20, 1⟩
def FE_CTX_CFG_FAULTABLE : Fld := ⟨.FE_CTX_CFG, 21, 1⟩
def FE_FLT_BASE_ADDR : Fld := ⟨.FE_FLT_BASE, 12, 52⟩
def FE_FLT_CTL_LOG2N : Fld := ⟨.FE_FLT_CTL, 0, 4⟩
def FE_FLT_CTL_EN : Fld := ⟨.FE_FLT_CTL, 4, 1⟩
def FE_FLT_STAT_TAIL : Fld := ⟨.FE_FLT_STAT, 0, 32⟩
def FE_FLT_STAT_LOST : Fld := ⟨.FE_FLT_STAT, 32, 16⟩
def FE_FLT_STAT_FAIL : Fld := ⟨.FE_FLT_STAT, 48, 1⟩
def FE_PROG_MIRROR_EN : Fld := ⟨.FE_PROG_MIRROR, 0, 1⟩
def FE_PROG_MIRROR_ADDR : Fld := ⟨.FE_PROG_MIRROR, 5, 59⟩
def FE_TQ_BASE_ADDR : Fld := ⟨.FE_TQ_BASE, 6, 42⟩
def FE_TQ_CTL_CTX : Fld := ⟨.FE_TQ_CTL, 0, 6⟩
def FE_TQ_CTL_LOG2N : Fld := ⟨.FE_TQ_CTL, 8, 4⟩
def FE_TQ_CTL_EN : Fld := ⟨.FE_TQ_CTL, 16, 1⟩
def FE_RING_BASE_ADDR : Fld := ⟨.FE_RING_BASE, 6, 58⟩
def FE_RING_HDR_ADDR : Fld := ⟨.FE_RING_HDR, 6, 58⟩
def FE_RING_CQ_ADDR : Fld := ⟨.FE_RING_CQ, 6, 58⟩
def FE_RING_CTL_CTX : Fld := ⟨.FE_RING_CTL, 0, 6⟩
def FE_RING_CTL_LOG2N : Fld := ⟨.FE_RING_CTL, 8, 5⟩
def FE_RING_CTL_EN : Fld := ⟨.FE_RING_CTL, 13, 1⟩
def FE_RING_CTL_STOP_ON_ERR : Fld := ⟨.FE_RING_CTL, 14, 1⟩
def FE_RING_CTL_VEC : Fld := ⟨.FE_RING_CTL, 16, 5⟩
def FE_RING_CTL_WDOG : Fld := ⟨.FE_RING_CTL, 24, 5⟩
def FE_RING_CMD_ARM : Fld := ⟨.FE_RING_CMD, 0, 1⟩
def FE_RING_CMD_ABORT : Fld := ⟨.FE_RING_CMD, 1, 1⟩
def FE_RING_CMD_STATE : Fld := ⟨.FE_RING_CMD, 8, 3⟩
def FE_RING_CMD_PARKED : Fld := ⟨.FE_RING_CMD, 16, 7⟩
def FE_RING_CMD_CAUSE : Fld := ⟨.FE_RING_CMD, 24, 4⟩
def SYNC_CTX_TBL_EN : Fld := ⟨.SYNC_CTX_TBL, 0, 1⟩
def SYNC_CTX_TBL_ADDR : Fld := ⟨.SYNC_CTX_TBL, 12, 36⟩
def SYNC_CTX_LIM_LIMIT : Fld := ⟨.SYNC_CTX_LIM, 0, 21⟩
def SYNC_CTX_LIM_GO : Fld := ⟨.SYNC_CTX_LIM, 31, 1⟩
def SYNC_CLR_PWORD : Fld := ⟨.SYNC_CLR, 0, 20⟩
def SYNC_CLR_GO : Fld := ⟨.SYNC_CLR, 31, 1⟩
def SYNC_BAR_CTL_EN : Fld := ⟨.SYNC_BAR_CTL, 0, 1⟩
def SYNC_BAR_CTL_NET : Fld := ⟨.SYNC_BAR_CTL, 1, 1⟩
def SYNC_BAR_CTL_THAW : Fld := ⟨.SYNC_BAR_CTL, 2, 1⟩
def SYNC_BAR_CTL_CTX : Fld := ⟨.SYNC_BAR_CTL, 8, 6⟩
def SYNC_BAR_CTL_GROUP : Fld := ⟨.SYNC_BAR_CTL, 16, 12⟩
def SYNC_BAR_CTL_RELEASE : Fld := ⟨.SYNC_BAR_CTL, 32, 20⟩
def SYNC_BAR_MASK_CORES : Fld := ⟨.SYNC_BAR_MASK, 0, 64⟩
def SYNC_BAR_STAT_GEN : Fld := ⟨.SYNC_BAR_STAT, 0, 32⟩
def SYNC_BAR_STAT_ERR : Fld := ⟨.SYNC_BAR_STAT, 32, 1⟩
def SYNC_BAR_STAT_NETERR : Fld := ⟨.SYNC_BAR_STAT, 33, 1⟩
def SYNC_RALN_CTL_EN : Fld := ⟨.SYNC_RALN_CTL, 0, 1⟩
def SYNC_RALN_CTL_BAR : Fld := ⟨.SYNC_RALN_CTL, 8, 8⟩
def SYNC_RALN_CTL_NWORD : Fld := ⟨.SYNC_RALN_CTL, 16, 4⟩
def SYNC_RALN_CTL_PERIOD : Fld := ⟨.SYNC_RALN_CTL, 32, 32⟩
def SYNC_RALN_WORD_PWORD : Fld := ⟨.SYNC_RALN_WORD, 0, 20⟩
def SYNC_RALN_STAT_COUNT : Fld := ⟨.SYNC_RALN_STAT, 0, 32⟩
def SYNC_RALN_STAT_MISMATCH : Fld := ⟨.SYNC_RALN_STAT, 32, 1⟩
def SYNC_RALN_BASE_BASE : Fld := ⟨.SYNC_RALN_BASE, 0, 64⟩
def PWR_CAP_CAP : Fld := ⟨.PWR_CAP, 0, 12⟩
def PWR_CAP_IMMED : Fld := ⟨.PWR_CAP, 16, 1⟩
def PWR_RAMP_UP_RATE : Fld := ⟨.PWR_RAMP_UP, 0, 8⟩
def PWR_RAMP_DN_RATE : Fld := ⟨.PWR_RAMP_DN, 0, 8⟩
def PWR_BALLAST_EN : Fld := ⟨.PWR_BALLAST, 0, 1⟩
def PWR_BALLAST_MAXPCT : Fld := ⟨.PWR_BALLAST, 8, 6⟩
def PWR_PHASE_SLOT : Fld := ⟨.PWR_PHASE, 0, 6⟩
def PWR_PHASE_WIDTH : Fld := ⟨.PWR_PHASE, 16, 10⟩
def PWR_PHASE_THRESH : Fld := ⟨.PWR_PHASE, 26, 6⟩
def PWR_THAW_W : Fld := ⟨.PWR_THAW, 0, 8⟩
def PWR_THAW_ROTATE : Fld := ⟨.PWR_THAW, 8, 1⟩
def PWR_THAW_MAP_WAVE0 : Fld := ⟨.PWR_THAW_MAP, 0, 4⟩
def PWR_THAW_MAP_WAVE1 : Fld := ⟨.PWR_THAW_MAP, 4, 4⟩
def PWR_THAW_MAP_WAVE2 : Fld := ⟨.PWR_THAW_MAP, 8, 4⟩
def PWR_THAW_MAP_WAVE3 : Fld := ⟨.PWR_THAW_MAP, 12, 4⟩
def PWR_THAW_MAP_WAVE4 : Fld := ⟨.PWR_THAW_MAP, 16, 4⟩
def PWR_THAW_MAP_WAVE5 : Fld := ⟨.PWR_THAW_MAP, 20, 4⟩
def PWR_THAW_MAP_WAVE6 : Fld := ⟨.PWR_THAW_MAP, 24, 4⟩
def PWR_THAW_MAP_WAVE7 : Fld := ⟨.PWR_THAW_MAP, 28, 4⟩
def PWR_THAW_MAP_WAVE8 : Fld := ⟨.PWR_THAW_MAP, 32, 4⟩
def PWR_THAW_MAP_WAVE9 : Fld := ⟨.PWR_THAW_MAP, 36, 4⟩
def PWR_THAW_MAP_WAVE10 : Fld := ⟨.PWR_THAW_MAP, 40, 4⟩
def PWR_THAW_MAP_WAVE11 : Fld := ⟨.PWR_THAW_MAP, 44, 4⟩
def PWR_RAIL_CTL_VMAX : Fld := ⟨.PWR_RAIL_CTL, 0, 10⟩
def PWR_RAIL_CTL_EQ_EN : Fld := ⟨.PWR_RAIL_CTL, 16, 1⟩
def PWR_RAIL_CTL_TRIM_EN : Fld := ⟨.PWR_RAIL_CTL, 17, 1⟩
def PWR_ISO_CTL_EN : Fld := ⟨.PWR_ISO_CTL, 0, 1⟩
def PWR_ISO_CTL_ACTIVE : Fld := ⟨.PWR_ISO_CTL, 1, 1⟩
def PWR_ILIM_AMPS : Fld := ⟨.PWR_ILIM, 0, 8⟩
def PWR_EXT_CAP_CAP : Fld := ⟨.PWR_EXT_CAP, 0, 12⟩
def PWR_EXT_CAP_EN : Fld := ⟨.PWR_EXT_CAP, 12, 1⟩
def PWR_ALERT_MASK_MEASONLY : Fld := ⟨.PWR_ALERT_MASK, 0, 1⟩
def PWR_ALERT_MASK_THERM : Fld := ⟨.PWR_ALERT_MASK, 1, 1⟩
def PWR_ALERT_MASK_COOLANT : Fld := ⟨.PWR_ALERT_MASK, 2, 1⟩
def PWR_ALERT_MASK_OUTLIER : Fld := ⟨.PWR_ALERT_MASK, 3, 1⟩
def PWR_THERM_TJ_TGT : Fld := ⟨.PWR_THERM, 0, 8⟩
def PWR_MEAS_P_MEAS : Fld := ⟨.PWR_MEAS, 0, 16⟩
def PWR_MEAS_P_EST : Fld := ⟨.PWR_MEAS, 16, 16⟩
def PWR_MEAS_CAP_EFF : Fld := ⟨.PWR_MEAS, 32, 16⟩
def PWR_MEAS_VIN : Fld := ⟨.PWR_MEAS, 48, 16⟩
def PWR_THR_STAT_ACTIVE : Fld := ⟨.PWR_THR_STAT, 0, 8⟩
def PWR_THR_STAT_BIND : Fld := ⟨.PWR_THR_STAT, 8, 4⟩
def PWR_THR_STAT_MEASONLY : Fld := ⟨.PWR_THR_STAT, 12, 1⟩
def PWR_THR_STAT_BALLAST : Fld := ⟨.PWR_THR_STAT, 16, 12⟩
def PWR_THR_NS_NS : Fld := ⟨.PWR_THR_NS, 0, 64⟩
def PWR_DIE_VSET : Fld := ⟨.PWR_DIE, 0, 10⟩
def PWR_DIE_EQ : Fld := ⟨.PWR_DIE, 10, 6⟩
def PWR_DIE_TRIM : Fld := ⟨.PWR_DIE, 16, 6⟩
def PWR_DIE_TJ : Fld := ⟨.PWR_DIE, 24, 8⟩
def PWR_DIE_RATE : Fld := ⟨.PWR_DIE, 32, 16⟩
def PWR_DIE_THERM : Fld := ⟨.PWR_DIE, 48, 1⟩
def PWR_EVT_OUTLIER : Fld := ⟨.PWR_EVT, 0, 1⟩
def PWR_EVT_ESTIMATE : Fld := ⟨.PWR_EVT, 1, 1⟩
def PWR_EVT_ISO_MISS : Fld := ⟨.PWR_EVT, 2, 1⟩
def PWR_EVT_BALLAST_SHORT : Fld := ⟨.PWR_EVT, 3, 1⟩
def PWR_EVT_COOLANT : Fld := ⟨.PWR_EVT, 4, 1⟩
def PWR_EVT_THERM : Fld := ⟨.PWR_EVT, 5, 1⟩
def PWR_EVT_HINT_DROP : Fld := ⟨.PWR_EVT, 6, 1⟩
def PWR_OUTLIER_CAUSE : Fld := ⟨.PWR_OUTLIER, 0, 3⟩
def PWR_OUTLIER_KIND : Fld := ⟨.PWR_OUTLIER, 3, 2⟩
def PWR_OUTLIER_INDEX : Fld := ⟨.PWR_OUTLIER, 5, 5⟩
def PWR_OUTLIER_DEFICIT : Fld := ⟨.PWR_OUTLIER, 16, 8⟩
def MEM_ILV_CTL_MODE : Fld := ⟨.MEM_ILV_CTL, 0, 1⟩
def MEM_WCB_CTL_AGE : Fld := ⟨.MEM_WCB_CTL, 0, 8⟩
def MEM_WCB_CTL_HWM : Fld := ⟨.MEM_WCB_CTL, 8, 8⟩
def MEM_WCB_CTL_FLUSH : Fld := ⟨.MEM_WCB_CTL, 16, 1⟩
def MEM_REMAP_CTL_CE_THRESH : Fld := ⟨.MEM_REMAP_CTL, 0, 8⟩
def MEM_REMAP_CTL_AUTO : Fld := ⟨.MEM_REMAP_CTL, 8, 1⟩
def MEM_SCRUB_CTL_EN : Fld := ⟨.MEM_SCRUB_CTL, 0, 1⟩
def MEM_SCRUB_CTL_PERIOD : Fld := ⟨.MEM_SCRUB_CTL, 8, 8⟩
def MEM_TRAIN_STAT_DEGR : Fld := ⟨.MEM_TRAIN_STAT, 0, 20⟩
def MEM_TRAIN_STAT_FALLBACK : Fld := ⟨.MEM_TRAIN_STAT, 20, 20⟩
def MEM_TRAIN_STAT_DONE : Fld := ⟨.MEM_TRAIN_STAT, 40, 1⟩
def MEM_TRAIN_STAT_FAIL : Fld := ⟨.MEM_TRAIN_STAT, 41, 1⟩
def MEM_TG_CTL_CH : Fld := ⟨.MEM_TG_CTL, 0, 10⟩
def MEM_TG_CTL_PAT : Fld := ⟨.MEM_TG_CTL, 10, 2⟩
def MEM_TG_CTL_START : Fld := ⟨.MEM_TG_CTL, 16, 1⟩
def MEM_TG_CTL_LINES : Fld := ⟨.MEM_TG_CTL, 32, 32⟩
def MEM_TG_STAT_DONE_LINES : Fld := ⟨.MEM_TG_STAT, 0, 32⟩
def MEM_TG_STAT_ERRS : Fld := ⟨.MEM_TG_STAT, 32, 16⟩
def MEM_TG_STAT_BUSY : Fld := ⟨.MEM_TG_STAT, 48, 1⟩
def MEM_TG_STAT_ERR : Fld := ⟨.MEM_TG_STAT, 49, 1⟩
def MEM_CTX_PTBASE_EN : Fld := ⟨.MEM_CTX_PTBASE, 0, 1⟩
def MEM_CTX_PTBASE_ADDR : Fld := ⟨.MEM_CTX_PTBASE, 12, 36⟩
def MEM_CTX_INVAL_GO : Fld := ⟨.MEM_CTX_INVAL, 0, 1⟩
def MEM_CH_STAT_REMAP_USED : Fld := ⟨.MEM_CH_STAT, 0, 7⟩
def MEM_CH_STAT_REMAP_FULL : Fld := ⟨.MEM_CH_STAT, 7, 1⟩
def MEM_CH_STAT_CE : Fld := ⟨.MEM_CH_STAT, 8, 16⟩
def MEM_CH_STAT_UE : Fld := ⟨.MEM_CH_STAT, 24, 16⟩
def MEM_CH_STAT_DIE_CE : Fld := ⟨.MEM_CH_STAT, 40, 16⟩
def MEM_CH_MARGIN_RD_EYE : Fld := ⟨.MEM_CH_MARGIN, 0, 8⟩
def MEM_CH_MARGIN_WR_EYE : Fld := ⟨.MEM_CH_MARGIN, 8, 8⟩
def MEM_CH_MARGIN_HEIGHT : Fld := ⟨.MEM_CH_MARGIN, 16, 8⟩
def MEM_CH_MARGIN_TG : Fld := ⟨.MEM_CH_MARGIN, 24, 1⟩
def MEM_CH_MARGIN_DEGR : Fld := ⟨.MEM_CH_MARGIN, 25, 1⟩
def VAT_PART_SYNC : Fld := ⟨.VAT_PART, 0, 8⟩
def VAT_PART_COL : Fld := ⟨.VAT_PART, 8, 8⟩
def VAT_PART_LINK : Fld := ⟨.VAT_PART, 16, 8⟩
def VAT_PART_MEMBUF : Fld := ⟨.VAT_PART, 24, 8⟩
def FAB_NODE_ID : Fld := ⟨.FAB_NODE, 0, 16⟩
def FAB_DIM_CFG_SIZE : Fld := ⟨.FAB_DIM_CFG, 0, 4⟩
def FAB_DIM_CFG_WRAP : Fld := ⟨.FAB_DIM_CFG, 4, 1⟩
def FAB_DIM_CFG_DATELINE : Fld := ⟨.FAB_DIM_CFG, 8, 4⟩
def FAB_RT_DIR0 : Fld := ⟨.FAB_RT, 0, 2⟩
def FAB_RT_DIR1 : Fld := ⟨.FAB_RT, 2, 2⟩
def FAB_RT_DIR2 : Fld := ⟨.FAB_RT, 4, 2⟩
def FAB_RT_DIR3 : Fld := ⟨.FAB_RT, 6, 2⟩
def FAB_RT_DIR4 : Fld := ⟨.FAB_RT, 8, 2⟩
def FAB_RT_DIR5 : Fld := ⟨.FAB_RT, 10, 2⟩
def FAB_RT_DIR6 : Fld := ⟨.FAB_RT, 12, 2⟩
def FAB_RT_DIR7 : Fld := ⟨.FAB_RT, 14, 2⟩
def FAB_RT_DIR8 : Fld := ⟨.FAB_RT, 16, 2⟩
def FAB_RT_DIR9 : Fld := ⟨.FAB_RT, 18, 2⟩
def FAB_RT_DIR10 : Fld := ⟨.FAB_RT, 20, 2⟩
def FAB_RT_DIR11 : Fld := ⟨.FAB_RT, 22, 2⟩
def FAB_RT_DIR12 : Fld := ⟨.FAB_RT, 24, 2⟩
def FAB_RT_DIR13 : Fld := ⟨.FAB_RT, 26, 2⟩
def FAB_RT_DIR14 : Fld := ⟨.FAB_RT, 28, 2⟩
def FAB_RT_DIR15 : Fld := ⟨.FAB_RT, 30, 2⟩
def FAB_ESC_CTL_TMO : Fld := ⟨.FAB_ESC_CTL, 0, 16⟩
def FAB_TP_CTL_TMO : Fld := ⟨.FAB_TP_CTL, 0, 16⟩
def FAB_TP_CTL_RETRY : Fld := ⟨.FAB_TP_CTL, 16, 8⟩
def FAB_CTL_HOLD : Fld := ⟨.FAB_CTL, 0, 1⟩
def FAB_CTL_QUIET : Fld := ⟨.FAB_CTL, 1, 1⟩
def FAB_EVT_MISWIRE : Fld := ⟨.FAB_EVT, 0, 1⟩
def FAB_DROP_CNT_DOWN : Fld := ⟨.FAB_DROP_CNT, 0, 16⟩
def FAB_DROP_CNT_NOROUTE : Fld := ⟨.FAB_DROP_CNT, 16, 16⟩
def FAB_DROP_CNT_HOPS : Fld := ⟨.FAB_DROP_CNT, 32, 8⟩
def FAB_DROP_CNT_PCRC : Fld := ⟨.FAB_DROP_CNT, 40, 16⟩
def FAB_DROP_CNT_MGMT : Fld := ⟨.FAB_DROP_CNT, 56, 8⟩
def FAB_TP_CNT_RETX : Fld := ⟨.FAB_TP_CNT, 0, 32⟩
def FAB_TP_CNT_ESC : Fld := ⟨.FAB_TP_CNT, 32, 32⟩
def FAB_CTX_DOM_DOM : Fld := ⟨.FAB_CTX_DOM, 0, 16⟩
def FAB_CTX_DOM_EN : Fld := ⟨.FAB_CTX_DOM, 16, 1⟩
def LNK_CTL_EN : Fld := ⟨.LNK_CTL, 0, 1⟩
def LNK_CTL_AUTO : Fld := ⟨.LNK_CTL, 1, 1⟩
def LNK_CTL_MEDIUM : Fld := ⟨.LNK_CTL, 2, 1⟩
def LNK_CTL_MAXRATE : Fld := ⟨.LNK_CTL, 3, 1⟩
def LNK_CTL_MINW : Fld := ⟨.LNK_CTL, 4, 2⟩
def LNK_CTL_RETRAIN : Fld := ⟨.LNK_CTL, 6, 1⟩
def LNK_STAT_STATE : Fld := ⟨.LNK_STAT, 0, 3⟩
def LNK_STAT_RATE : Fld := ⟨.LNK_STAT, 3, 1⟩
def LNK_STAT_WIDTH : Fld := ⟨.LNK_STAT, 4, 2⟩
def LNK_STAT_REV : Fld := ⟨.LNK_STAT, 6, 1⟩
def LNK_STAT_POL : Fld := ⟨.LNK_STAT, 8, 8⟩
def LNK_STAT_LANES : Fld := ⟨.LNK_STAT, 16, 8⟩
def LNK_STAT_PEER_NODE : Fld := ⟨.LNK_STAT, 32, 16⟩
def LNK_STAT_PEER_PORT : Fld := ⟨.LNK_STAT, 48, 4⟩
def LNK_RETRY_CTL_TMO : Fld := ⟨.LNK_RETRY_CTL, 0, 8⟩
def LNK_RETRY_CTL_LIMIT : Fld := ⟨.LNK_RETRY_CTL, 8, 8⟩
def LNK_VC_CRED_FLITS : Fld := ⟨.LNK_VC_CRED, 0, 12⟩
def LNK_BUF_STAT_REPLAY : Fld := ⟨.LNK_BUF_STAT, 0, 16⟩
def LNK_BUF_STAT_INGRESS : Fld := ⟨.LNK_BUF_STAT, 16, 16⟩
def LNK_BUF_STAT_EGRESS : Fld := ⟨.LNK_BUF_STAT, 32, 16⟩
def LNK_FEC_CNT_CORR : Fld := ⟨.LNK_FEC_CNT, 0, 40⟩
def LNK_FEC_CNT_UNCORR : Fld := ⟨.LNK_FEC_CNT, 40, 24⟩
def LNK_LL_CNT_CRC : Fld := ⟨.LNK_LL_CNT, 0, 24⟩
def LNK_LL_CNT_REPLAY : Fld := ⟨.LNK_LL_CNT, 24, 24⟩
def LNK_LL_CNT_DOWN : Fld := ⟨.LNK_LL_CNT, 48, 16⟩
def LNK_LANE_SYM_SYM : Fld := ⟨.LNK_LANE_SYM, 0, 48⟩
def LNK_EVT_DOWN : Fld := ⟨.LNK_EVT, 0, 1⟩
def LNK_EVT_DEGR : Fld := ⟨.LNK_EVT, 1, 1⟩
def LNK_EVT_RLIM : Fld := ⟨.LNK_EVT, 2, 1⟩
def LNK_EVT_BLKLOSS : Fld := ⟨.LNK_EVT, 3, 1⟩
def LNK_EVT_PEERDN : Fld := ⟨.LNK_EVT, 4, 1⟩
def LNK_EVT_TRFAIL : Fld := ⟨.LNK_EVT, 5, 1⟩
def COL_GRP_LIST_ADDR : Fld := ⟨.COL_GRP_LIST, 6, 42⟩
def COL_GRP_CTL_EN : Fld := ⟨.COL_GRP_CTL, 0, 1⟩
def COL_GRP_CTL_CTX : Fld := ⟨.COL_GRP_CTL, 2, 6⟩
def COL_GRP_CTL_SLICE : Fld := ⟨.COL_GRP_CTL, 8, 2⟩
def COL_GRP_CTL_SLOTS : Fld := ⟨.COL_GRP_CTL, 16, 6⟩
def COL_GRP_STAT_STATE : Fld := ⟨.COL_GRP_STAT, 0, 2⟩
def COL_GRP_STAT_ERRC : Fld := ⟨.COL_GRP_STAT, 8, 8⟩
def COL_GRP_STAT_RANK : Fld := ⟨.COL_GRP_STAT, 16, 16⟩
def COL_GRP_STAT_OPSEQ : Fld := ⟨.COL_GRP_STAT, 32, 32⟩
def COL_GRP_EPOCH_EPOCH : Fld := ⟨.COL_GRP_EPOCH, 0, 32⟩
def DBG_SNAP_ADDR_ADDR : Fld := ⟨.DBG_SNAP_ADDR, 6, 58⟩
def DBG_SNAP_CMD_BANK : Fld := ⟨.DBG_SNAP_CMD, 0, 8⟩
def DBG_SNAP_CMD_OP : Fld := ⟨.DBG_SNAP_CMD, 8, 2⟩
def DBG_SNAP_CMD_GO : Fld := ⟨.DBG_SNAP_CMD, 10, 1⟩
def DBG_SNAP_CMD_BUSY : Fld := ⟨.DBG_SNAP_CMD, 11, 1⟩
def DBG_SNAP_CMD_REFUSED : Fld := ⟨.DBG_SNAP_CMD, 12, 1⟩
def DBG_SNAP_CMD_FAIL : Fld := ⟨.DBG_SNAP_CMD, 13, 1⟩
def DBG_TRC_CTL_EN : Fld := ⟨.DBG_TRC_CTL, 0, 1⟩
def DBG_TRC_CTL_WRAP : Fld := ⟨.DBG_TRC_CTL, 1, 1⟩
def DBG_TRC_CTL_BUDGET : Fld := ⟨.DBG_TRC_CTL, 2, 6⟩
def DBG_TRC_CTL_SRCMASK : Fld := ⟨.DBG_TRC_CTL, 8, 8⟩
def DBG_TRC_CTL_RXSAMP : Fld := ⟨.DBG_TRC_CTL, 16, 4⟩
def DBG_TRC_BASE_ADDR : Fld := ⟨.DBG_TRC_BASE, 12, 36⟩
def DBG_TRC_BASE_LOG2SZ : Fld := ⟨.DBG_TRC_BASE, 48, 6⟩
def DBG_TRC_STAT_REC : Fld := ⟨.DBG_TRC_STAT, 0, 40⟩
def DBG_TRC_DROP_BUDGET : Fld := ⟨.DBG_TRC_DROP, 0, 24⟩
def DBG_TRC_DROP_BUSY : Fld := ⟨.DBG_TRC_DROP, 24, 24⟩
def DBG_TRC_DROP_FULL : Fld := ⟨.DBG_TRC_DROP, 48, 16⟩
def DBG_WFG_ADDR_ADDR : Fld := ⟨.DBG_WFG_ADDR, 12, 52⟩
def DBG_WFG_CTL_MINAGE : Fld := ⟨.DBG_WFG_CTL, 0, 16⟩
def DBG_WFG_CTL_GO : Fld := ⟨.DBG_WFG_CTL, 16, 1⟩
def DBG_WFG_CTL_TRUNC : Fld := ⟨.DBG_WFG_CTL, 17, 1⟩
def DBG_WFG_CTL_FAIL : Fld := ⟨.DBG_WFG_CTL, 18, 1⟩
def SEC_BOOT_STAT_SLOT : Fld := ⟨.SEC_BOOT_STAT, 0, 1⟩
def SEC_BOOT_STAT_KEY : Fld := ⟨.SEC_BOOT_STAT, 1, 1⟩
def SEC_BOOT_STAT_KGEN : Fld := ⟨.SEC_BOOT_STAT, 2, 2⟩
def SEC_BOOT_STAT_FALLBACK : Fld := ⟨.SEC_BOOT_STAT, 4, 1⟩
def SEC_BOOT_STAT_ALT_VALID : Fld := ⟨.SEC_BOOT_STAT, 5, 1⟩
def SEC_BOOT_STAT_VERSION : Fld := ⟨.SEC_BOOT_STAT, 16, 32⟩
def SEC_LNK_CTL_EN : Fld := ⟨.SEC_LNK_CTL, 0, 1⟩
def SEC_LNK_CTL_TXSLOT : Fld := ⟨.SEC_LNK_CTL, 1, 1⟩
def SEC_LNK_CTL_ACTIVE : Fld := ⟨.SEC_LNK_CTL, 2, 1⟩
def SEC_LNK_CTL_TAGN : Fld := ⟨.SEC_LNK_CTL, 8, 4⟩
def SEC_LNK_STAT_AUTHFAIL : Fld := ⟨.SEC_LNK_STAT, 0, 32⟩
def SEC_LNK_STAT_KEYSET : Fld := ⟨.SEC_LNK_STAT, 32, 4⟩
def D2D_DIE_ID_ID : Fld := ⟨.D2D_DIE_ID, 0, 8⟩
def D2D_DIE_ID_PRESENT : Fld := ⟨.D2D_DIE_ID, 8, 1⟩
def D2D_DIE_ID_STRAPERR : Fld := ⟨.D2D_DIE_ID, 9, 1⟩
def D2D_PATH_STAT_SPARED : Fld := ⟨.D2D_PATH_STAT, 0, 10⟩
def D2D_PATH_STAT_FOLDED : Fld := ⟨.D2D_PATH_STAT, 10, 10⟩
def D2D_PATH_STAT_DEAD : Fld := ⟨.D2D_PATH_STAT, 20, 10⟩
def D2D_PATH_STAT_BW : Fld := ⟨.D2D_PATH_STAT, 32, 16⟩
def D2D_PATH_CNT_CRC : Fld := ⟨.D2D_PATH_CNT, 0, 32⟩
def D2D_PATH_CNT_REPLAY : Fld := ⟨.D2D_PATH_CNT, 32, 32⟩
def D2D_BR_ROLE_ROLE0 : Fld := ⟨.D2D_BR_ROLE, 0, 2⟩
def D2D_BR_ROLE_ROLE1 : Fld := ⟨.D2D_BR_ROLE, 2, 2⟩
def D2D_BR_ROLE_ROLE2 : Fld := ⟨.D2D_BR_ROLE, 4, 2⟩
def D2D_BR_ROLE_ROLE3 : Fld := ⟨.D2D_BR_ROLE, 6, 2⟩
def D2D_BR_ROLE_ROLE4 : Fld := ⟨.D2D_BR_ROLE, 8, 2⟩
def D2D_BR_ROLE_ROLE5 : Fld := ⟨.D2D_BR_ROLE, 10, 2⟩
def D2D_BR_ROLE_ROLE6 : Fld := ⟨.D2D_BR_ROLE, 12, 2⟩
def D2D_BR_ROLE_ROLE7 : Fld := ⟨.D2D_BR_ROLE, 14, 2⟩
def D2D_BR_ROLE_ROLE8 : Fld := ⟨.D2D_BR_ROLE, 16, 2⟩
def D2D_BR_ROLE_ROLE9 : Fld := ⟨.D2D_BR_ROLE, 18, 2⟩
def D2D_BR_ROLE_ROLE10 : Fld := ⟨.D2D_BR_ROLE, 20, 2⟩
def D2D_BR_ROLE_ROLE11 : Fld := ⟨.D2D_BR_ROLE, 22, 2⟩
def D2D_BR_ROLE_ROLE12 : Fld := ⟨.D2D_BR_ROLE, 24, 2⟩
def D2D_BR_ROLE_ROLE13 : Fld := ⟨.D2D_BR_ROLE, 26, 2⟩
def D2D_BR_ROLE_ROLE14 : Fld := ⟨.D2D_BR_ROLE, 28, 2⟩
def D2D_BR_ROLE_ROLE15 : Fld := ⟨.D2D_BR_ROLE, 30, 2⟩
def D2D_BR_ROLE_ROLE16 : Fld := ⟨.D2D_BR_ROLE, 32, 2⟩
def D2D_BR_ROLE_ROLE17 : Fld := ⟨.D2D_BR_ROLE, 34, 2⟩
def D2D_BR_ROLE_ROLE18 : Fld := ⟨.D2D_BR_ROLE, 36, 2⟩
def D2D_BR_ROLE_ROLE19 : Fld := ⟨.D2D_BR_ROLE, 38, 2⟩
def D2D_BR_ROLE_ROLE20 : Fld := ⟨.D2D_BR_ROLE, 40, 2⟩
def D2D_BR_ROLE_ROLE21 : Fld := ⟨.D2D_BR_ROLE, 42, 2⟩
def D2D_BR_ROLE_ROLE22 : Fld := ⟨.D2D_BR_ROLE, 44, 2⟩
def D2D_BR_ROLE_ROLE23 : Fld := ⟨.D2D_BR_ROLE, 46, 2⟩
def D2D_BR_ROLE_ROLE24 : Fld := ⟨.D2D_BR_ROLE, 48, 2⟩
def D2D_BR_ROLE_ROLE25 : Fld := ⟨.D2D_BR_ROLE, 50, 2⟩
def D2D_BR_ROLE_ROLE26 : Fld := ⟨.D2D_BR_ROLE, 52, 2⟩
def D2D_BR_ROLE_ROLE27 : Fld := ⟨.D2D_BR_ROLE, 54, 2⟩
def D2D_BR_ROLE_ROLE28 : Fld := ⟨.D2D_BR_ROLE, 56, 2⟩
def D2D_BR_ROLE_ROLE29 : Fld := ⟨.D2D_BR_ROLE, 58, 2⟩
def D2D_BR_ROLE_ROLE30 : Fld := ⟨.D2D_BR_ROLE, 60, 2⟩
def D2D_BR_ROLE_ROLE31 : Fld := ⟨.D2D_BR_ROLE, 62, 2⟩
def D2D_EVT_SPARE : Fld := ⟨.D2D_EVT, 0, 1⟩
def D2D_EVT_FOLD : Fld := ⟨.D2D_EVT, 1, 1⟩
def D2D_EVT_DEAD : Fld := ⟨.D2D_EVT, 2, 1⟩
def D2D_EVT_STRAP : Fld := ⟨.D2D_EVT, 3, 1⟩
def D2D_GW_BASE_BASE : Fld := ⟨.D2D_GW_BASE, 16, 32⟩
def D2D_GW_TGT_TGT : Fld := ⟨.D2D_GW_TGT, 0, 48⟩
def D2D_GW_CTL_EN : Fld := ⟨.D2D_GW_CTL, 0, 1⟩
def D2D_GW_CTL_KIND : Fld := ⟨.D2D_GW_CTL, 1, 1⟩
def D2D_GW_CTL_R : Fld := ⟨.D2D_GW_CTL, 2, 1⟩
def D2D_GW_CTL_W : Fld := ⟨.D2D_GW_CTL, 3, 1⟩
def D2D_GW_CTL_LOG2SZ : Fld := ⟨.D2D_GW_CTL, 4, 6⟩
def D2D_GW_CTL_CTX : Fld := ⟨.D2D_GW_CTL, 10, 6⟩
def D2D_GW_CTL_RATE : Fld := ⟨.D2D_GW_CTL, 16, 10⟩
def D2D_GUEST_STAT_PRESENT : Fld := ⟨.D2D_GUEST_STAT, 0, 1⟩
def D2D_GUEST_STAT_DENY : Fld := ⟨.D2D_GUEST_STAT, 32, 32⟩
def CORE_OWNER_CTX : Fld := ⟨.CORE_OWNER, 0, 6⟩
def CORE_OWNER_EN : Fld := ⟨.CORE_OWNER, 8, 1⟩
def CORE_CTX_CTL_CMD : Fld := ⟨.CORE_CTX_CTL, 0, 2⟩
def CORE_CTX_CTL_SPAD : Fld := ⟨.CORE_CTX_CTL, 2, 1⟩
def CORE_CTX_SAVE_ADDR : Fld := ⟨.CORE_CTX_SAVE, 16, 32⟩
def CORE_CTX_STAT_STATE : Fld := ⟨.CORE_CTX_STAT, 0, 3⟩
def CORE_CTX_STAT_ERR : Fld := ⟨.CORE_CTX_STAT, 3, 1⟩
def CORE_CTX_STAT_BADREQ : Fld := ⟨.CORE_CTX_STAT, 4, 1⟩
def CORE_RATE_CTL_WIN : Fld := ⟨.CORE_RATE_CTL, 0, 4⟩
def CORE_RATE_CTL_EN : Fld := ⟨.CORE_RATE_CTL, 8, 1⟩
def CORE_RATE_CNT_REPLICA_STEPS : Fld := ⟨.CORE_RATE_CNT, 0, 24⟩
def CORE_RATE_CNT_ARRAY_STEPS : Fld := ⟨.CORE_RATE_CNT, 24, 24⟩
def CORE_RATE_CNT_WINDOW_SEQ : Fld := ⟨.CORE_RATE_CNT, 48, 16⟩
def CORE_MARGIN_STAT_LOGIC_DEGR : Fld := ⟨.CORE_MARGIN_STAT, 0, 8⟩
def CORE_MARGIN_STAT_SRAM_DEGR : Fld := ⟨.CORE_MARGIN_STAT, 8, 8⟩
def CORE_MARGIN_STAT_WIRE_DEGR : Fld := ⟨.CORE_MARGIN_STAT, 16, 8⟩
def CORE_MARGIN_STAT_CTREE_DEGR : Fld := ⟨.CORE_MARGIN_STAT, 24, 8⟩
def CORE_SR_SEED_SEED : Fld := ⟨.CORE_SR_SEED, 0, 64⟩
def CORE_ACC_STAT_MODE : Fld := ⟨.CORE_ACC_STAT, 0, 1⟩
def CORE_ACC_STAT_TSAT : Fld := ⟨.CORE_ACC_STAT, 1, 1⟩
def CORE_VEC_FLAGS_NV : Fld := ⟨.CORE_VEC_FLAGS, 0, 1⟩
def CORE_VEC_FLAGS_DZ : Fld := ⟨.CORE_VEC_FLAGS, 1, 1⟩
def CORE_VEC_FLAGS_OF : Fld := ⟨.CORE_VEC_FLAGS, 2, 1⟩
def CORE_VEC_FLAGS_UF : Fld := ⟨.CORE_VEC_FLAGS, 3, 1⟩
def CORE_VEC_FLAGS_NX : Fld := ⟨.CORE_VEC_FLAGS, 4, 1⟩
def CORE_VEC_FLAGS_SA : Fld := ⟨.CORE_VEC_FLAGS, 5, 1⟩
def CORE_Q_STAT_CODE0 : Fld := ⟨.CORE_Q_STAT, 0, 4⟩
def CORE_Q_STAT_CODE1 : Fld := ⟨.CORE_Q_STAT, 16, 4⟩
def CORE_Q_STAT_CODE2 : Fld := ⟨.CORE_Q_STAT, 32, 4⟩
def CORE_Q_STAT_CODE3 : Fld := ⟨.CORE_Q_STAT, 48, 4⟩
def CORE_Q_STAT_PEND0 : Fld := ⟨.CORE_Q_STAT, 4, 6⟩
def CORE_Q_STAT_PEND1 : Fld := ⟨.CORE_Q_STAT, 20, 6⟩
def CORE_Q_STAT_PEND2 : Fld := ⟨.CORE_Q_STAT, 36, 6⟩
def CORE_Q_STAT_PEND3 : Fld := ⟨.CORE_Q_STAT, 52, 6⟩
def CORE_SYNC_CTL_EN : Fld := ⟨.CORE_SYNC_CTL, 0, 1⟩
def CORE_WAIT_KIND : Fld := ⟨.CORE_WAIT, 0, 4⟩
def CORE_WAIT_TAKE : Fld := ⟨.CORE_WAIT, 4, 1⟩
def CORE_WAIT_TARGET : Fld := ⟨.CORE_WAIT, 8, 56⟩
def CORE_WAIT_SINCE_SINCE : Fld := ⟨.CORE_WAIT_SINCE, 0, 64⟩
def CORE_DBG_CTL_HALT : Fld := ⟨.CORE_DBG_CTL, 0, 1⟩
def CORE_DBG_PC_PC : Fld := ⟨.CORE_DBG_PC, 0, 64⟩
end F

end Sys2Proof.Machine
end

