-- ==== Sys2Proof/Machine/Num.lean ====
section
/-! DEFINITION. Number formats and conversion (chapter 03 of spec/): the exact value of a code, the one rounding
operation every narrowing goes through, the flags, MAX and MIN, comparison, Philox, the FA40 image and FA40
addition (R87), and the exact-arithmetic core of division and square root. Exact values are m * 2^e with m a
natural number, so nothing here rounds except `roundFin` and `fa40Round`. -/

namespace Sys2Proof.Machine

/-- The exact value of a code: a signed zero, a finite m * 2^e with m nonzero, an infinity, or a NaN
(`sig` marks a signalling one). -/
inductive Num where
  | zero (neg : Bool)
  | fin (neg : Bool) (m : Nat) (e : Int)
  | inf (neg : Bool)
  | nan (sig : Bool)
deriving DecidableEq, Repr

/-- A result code with the flags it raised (Table 3.17 bit positions). -/
structure Res where
  code : Nat
  flags : Nat
deriving DecidableEq, Repr

/-- Table 3.17 bit values. -/
def flNV : Nat := 1
def flDZ : Nat := 2
def flOF : Nat := 4
def flUF : Nat := 8
def flNX : Nat := 16
def flSA : Nat := 32

/-- The rounding modes of Table 3.7. -/
inductive Rnd where
  | rne | rtz | rup | rdn | rto | sr
deriving DecidableEq, Repr

/-- RND field to mode; 6 and 7 are rejected before any conversion (R43). -/
def Rnd.ofField : Nat → Rnd
  | 0 => .rne | 1 => .rtz | 2 => .rup | 3 => .rdn | 4 => .rto | _ => .sr

/-- What a format's all-ones exponents mean (Table 3.3). -/
inductive Specials where
  | none | ieee | e4m3
deriving DecidableEq, Repr

/-- A sign-magnitude floating-point format (Table 3.2). -/
structure FpFmt where
  eb : Nat
  mb : Nat
  bias : Nat
  sp : Specials
deriving DecidableEq, Repr

/-- The format codes of Table 3.1. -/
inductive Fmt where
  | fp (f : FpFmt)
  | int (bits : Nat) (signed : Bool)
  | fa40
  | split (pieces : Nat)
deriving DecidableEq, Repr

def fFP32 : FpFmt := ⟨8, 23, 127, .ieee⟩
def fBF16 : FpFmt := ⟨8, 7, 127, .ieee⟩
def fFP16 : FpFmt := ⟨5, 10, 15, .ieee⟩
def fE5M2 : FpFmt := ⟨5, 2, 15, .ieee⟩
def fE4M3 : FpFmt := ⟨4, 3, 7, .e4m3⟩
def fE3M2 : FpFmt := ⟨3, 2, 3, .none⟩
def fE2M3 : FpFmt := ⟨2, 3, 1, .none⟩
def fE2M1 : FpFmt := ⟨2, 1, 1, .none⟩

/-- R31: the format a code names; none for the reserved codes 0xE and 0xF. -/
def Fmt.ofCode : Nat → Option Fmt
  | 0x0 => some (.fp fFP32) | 0x1 => some (.fp fBF16) | 0x2 => some (.fp fFP16) | 0x3 => some (.fp fE5M2)
  | 0x4 => some (.fp fE4M3) | 0x5 => some (.fp fE3M2) | 0x6 => some (.fp fE2M3) | 0x7 => some (.fp fE2M1)
  | 0x8 => some (.int 8 true) | 0x9 => some (.int 4 true) | 0xA => some (.int 8 false) | 0xB => some .fa40
  | 0xC => some (.split 2) | 0xD => some (.split 3) | _ => none

/-- Storage bits of one element (Table 3.1; an FA40 image is 8 bytes). -/
def fmtBits (code : Nat) : Nat :=
  match code with
  | 0x0 => 32 | 0x1 => 16 | 0x2 => 16 | 0x3 => 8 | 0x4 => 8 | 0x5 => 6 | 0x6 => 6 | 0x7 => 4
  | 0x8 => 8 | 0x9 => 4 | 0xA => 8 | 0xB => 64 | 0xC => 32 | 0xD => 32 | _ => 8

/-- 2 to an integer power, for a non-negative exponent. -/
def pow2 (n : Int) : Nat := 2 ^ n.toNat

/-- A finite value from a sign, a magnitude and an exponent; a zero magnitude is a zero of that sign. -/
def mkFin (neg : Bool) (m : Nat) (e : Int) : Num := if m = 0 then .zero neg else .fin neg m e

/-- R32: decode a sign-magnitude code. -/
def decodeFp (f : FpFmt) (code : Nat) : Num :=
  let frac : Nat := code % 2 ^ f.mb
  let ex : Nat := code / 2 ^ f.mb % 2 ^ f.eb
  let neg := code / 2 ^ (f.mb + f.eb) % 2 = 1
  let top := 2 ^ f.eb - 1
  let fin : Num :=
    if ex = 0 then mkFin neg frac (1 - (f.bias : Int) - f.mb)
    else .fin neg (2 ^ f.mb + frac) ((ex : Int) - f.bias - f.mb)
  match f.sp with
  | .none => fin
  | .ieee =>
    if ex = top then (if frac = 0 then .inf neg else .nan (frac / 2 ^ (f.mb - 1) % 2 = 0)) else fin
  | .e4m3 => if ex = top ∧ frac = 2 ^ f.mb - 1 then .nan false else fin

/-- Two's complement value of the low `bits` bits. -/
def toSigned (bits code : Nat) : Int :=
  let c : Nat := code % 2 ^ bits
  if c < 2 ^ (bits - 1) then (c : Int) else (c : Int) - ((2 ^ bits : Nat) : Int)

/-- Low `bits` bits of an integer. -/
def ofSigned (bits : Nat) (v : Int) : Nat := (v % ((2 ^ bits : Nat) : Int)).toNat

/-- An integer as an exact value; integer zero is +0 (R41). -/
def numOfInt (v : Int) : Num := mkFin (v < 0) v.natAbs 0

/-- R35: decode a floating FA40 image (bits [39:0]). -/
def decodeFa40 (code : Nat) : Num :=
  let frac : Nat := code % 2 ^ 29
  let ex : Nat := code / 2 ^ 29 % 1024
  let neg := code / 2 ^ 39 % 2 = 1
  if ex = 0 then .zero neg
  else if ex = 1023 then (if frac = 0 then .inf neg else .nan false)
  else .fin neg (2 ^ 29 + frac) ((ex : Int) - 511 - 29)

/-- Decode an element of a format code; `intMode` selects the integer reading of an FA40 image. -/
def decodeCode (fmt : Nat) (intMode : Bool) (code : Nat) : Num :=
  match Fmt.ofCode fmt with
  | some (.fp f) => decodeFp f code
  | some (.int b true) => numOfInt (toSigned b code)
  | some (.int b false) => numOfInt ((code % 2 ^ b : Nat) : Int)
  | some .fa40 => if intMode then numOfInt (toSigned 40 code) else decodeFa40 code
  | some (.split _) => decodeFp fFP32 code
  | none => .nan false

/-! Exact arithmetic on magnitudes. -/

/-- Signed integer of a finite value on the grid 2^q, for q at most its exponent. -/
def onGrid (neg : Bool) (m : Nat) (e q : Int) : Int :=
  let v : Int := ((m * pow2 (e - q) : Nat) : Int)
  if neg then -v else v

/-- Exact sum of two finite values; the sign of an exact zero is the caller's (R57). -/
def addFin (n1 : Bool) (m1 : Nat) (e1 : Int) (n2 : Bool) (m2 : Nat) (e2 : Int) (zneg : Bool) : Num :=
  let q := min e1 e2
  let v := onGrid n1 m1 e1 q + onGrid n2 m2 e2 q
  if v = 0 then .zero zneg else .fin (v < 0) v.natAbs q

/-- Exponent of the leading bit: floor(log2 |x|) of a finite nonzero value. -/
def expOf (m : Nat) (e : Int) : Int := (Nat.log2 m : Int) + e

/-- Compare two finite magnitudes. -/
def magLt (m1 : Nat) (e1 : Int) (m2 : Nat) (e2 : Int) : Bool :=
  let q := min e1 e2
  m1 * pow2 (e1 - q) < m2 * pow2 (e2 - q)

/-- Signed comparison of two numbers that are not NaN, with -0 equal to +0 (R58). -/
def numLt : Num → Num → Bool
  | .inf n1, .inf n2 => n1 && !n2
  | .inf n1, _ => n1
  | _, .inf n2 => !n2
  | .zero _, .zero _ => false
  | .zero _, .fin n2 _ _ => !n2
  | .fin n1 _ _, .zero _ => n1
  | .fin n1 m1 e1, .fin n2 m2 e2 =>
    if n1 = n2 then (if n1 then magLt m2 e2 m1 e1 else magLt m1 e1 m2 e2) else n1
  | _, _ => false

def Num.isNaN : Num → Bool
  | .nan _ => true | _ => false
def Num.isSig : Num → Bool
  | .nan s => s | _ => false
def Num.isNeg : Num → Bool
  | .zero n => n | .fin n _ _ => n | .inf n => n | .nan _ => false
def Num.isZero : Num → Bool
  | .zero _ => true | _ => false
def Num.isInf : Num → Bool
  | .inf _ => true | _ => false
def Num.isFinNum : Num → Bool
  | .zero _ => true | .fin _ _ _ => true | _ => false
def Num.negate : Num → Num
  | .zero n => .zero (!n) | .fin n m e => .fin (!n) m e | .inf n => .inf (!n) | .nan s => .nan s
def Num.abs : Num → Num
  | .zero _ => .zero false | .fin _ m e => .fin false m e | .inf _ => .inf false | .nan s => .nan s

/-- Equality of two numbers that are not NaN (R58). -/
def numEq (a b : Num) : Bool := !(numLt a b) && !(numLt b a)

/-- Signalling operands of a two-operand operation raise NV (R55). -/
def sigFlags (l : List Num) : Nat := if l.any Num.isSig then flNV else 0

/-- IEEE 754 exact sum of two values with R57's zero rule; the flag is NV where it applies. -/
def numAdd (rdn : Bool) (a b : Num) : Num × Nat :=
  let fl := sigFlags [a, b]
  match a, b with
  | .nan _, _ => (.nan false, fl)
  | _, .nan _ => (.nan false, fl)
  | .inf n1, .inf n2 => if n1 = n2 then (.inf n1, fl) else (.nan false, flNV)
  | .inf n1, _ => (.inf n1, fl)
  | _, .inf n2 => (.inf n2, fl)
  | .zero n1, .zero n2 => (.zero (if n1 && n2 then true else rdn), fl)
  | .zero _, .fin n m e => (.fin n m e, fl)
  | .fin n m e, .zero _ => (.fin n m e, fl)
  | .fin n1 m1 e1, .fin n2 m2 e2 => (addFin n1 m1 e1 n2 m2 e2 rdn, fl)

/-- IEEE 754 exact product (R57). -/
def numMul (a b : Num) : Num × Nat :=
  let fl := sigFlags [a, b]
  match a, b with
  | .nan _, _ => (.nan false, fl)
  | _, .nan _ => (.nan false, fl)
  | .inf _, .zero _ => (.nan false, flNV)
  | .zero _, .inf _ => (.nan false, flNV)
  | .inf n1, y => (.inf (n1 != y.isNeg), fl)
  | x, .inf n2 => (.inf (x.isNeg != n2), fl)
  | .zero n1, y => (.zero (n1 != y.isNeg), fl)
  | x, .zero n2 => (.zero (x.isNeg != n2), fl)
  | .fin n1 m1 e1, .fin n2 m2 e2 => (.fin (n1 != n2) (m1 * m2) (e1 + e2), fl)

/-! MAX and MIN: R59, Table 3.15. -/

/-- Order used by MAX and MIN: -0 lies below +0. -/
def maxLt (a b : Num) : Bool :=
  match a, b with
  | .zero n1, .zero n2 => n1 && !n2
  | _, _ => numLt a b

/-- MAX (`isMin` false) or MIN of two values in the given mode, with the NV flag of Table 3.15. -/
def numMaxMin (isMin strict : Bool) (a b : Num) : Num × Nat :=
  let fl := sigFlags [a, b]
  if a.isNaN && b.isNaN then (.nan false, fl)
  else if a.isNaN then (if strict then (.nan false, fl) else (b, fl))
  else if b.isNaN then (if strict then (.nan false, fl) else (a, fl))
  else if isMin then ((if maxLt b a then b else a), fl)
  else ((if maxLt a b then b else a), fl)

/-! Rounding: R44 to R46, R51, R52. -/

/-- Whether the mode picks u over t (R44, R46): `rem` out of `div` is the part beyond t, in units of the target's
spacing; `U` is the element's random word. -/
def pickUp (r : Rnd) (neg : Bool) (t rem div U : Nat) : Bool :=
  if rem = 0 then false
  else match r with
    | .rne => div < 2 * rem || (2 * rem == div && t % 2 == 1)
    | .rtz => false
    | .rup => !neg
    | .rdn => neg
    | .rto => t % 2 == 0
    | .sr => 2 ^ 32 ≤ rem * 2 ^ 32 / div + U

/-- The rounded magnitude of m * 2^e on the grid 2^q, with whether it was inexact. -/
def roundGrid (r : Rnd) (U : Nat) (neg : Bool) (m : Nat) (e q : Int) : Nat × Bool :=
  if q ≤ e then (m * pow2 (e - q), false)
  else
    let div := pow2 (q - e)
    let t := m / div
    let rem := m % div
    (if pickUp r neg t rem div U then t + 1 else t, rem != 0)

/-- Largest finite code of a format, without the sign. -/
def maxCode (f : FpFmt) : Nat :=
  match f.sp with
  | .none => 2 ^ (f.eb + f.mb) - 1
  | .ieee => (2 ^ f.eb - 1) * 2 ^ f.mb - 1
  | .e4m3 => 2 ^ (f.eb + f.mb) - 2

def signBit (f : FpFmt) (neg : Bool) : Nat := if neg then 2 ^ (f.eb + f.mb) else 0

/-- Canonical NaN code (Table 3.3); zero in a format without NaN (Table 3.14). -/
def nanCode (f : FpFmt) : Nat :=
  match f.sp with
  | .none => 0
  | .ieee => (2 ^ f.eb - 1) * 2 ^ f.mb + 2 ^ (f.mb - 1)
  | .e4m3 => 2 ^ (f.eb + f.mb) - 1

/-- Infinity code, or NaN for E4M3, or max where the format has neither (Tables 3.3, 3.14). -/
def infCode (f : FpFmt) (neg : Bool) : Nat :=
  match f.sp with
  | .none => maxCode f + signBit f neg
  | .ieee => (2 ^ f.eb - 1) * 2 ^ f.mb + signBit f neg
  | .e4m3 => nanCode f

/-- Table 3.11: whether an overflow delivers infinity (or the E4M3 NaN code) rather than max, under IEEE control. -/
def ovfToInf (r : Rnd) (neg : Bool) : Bool :=
  match r with
  | .rne => true | .rtz => false | .rup => !neg | .rdn => neg | .rto => false | .sr => true

/-- R44, R45, R51: round a finite nonzero m * 2^e to a floating format. -/
def roundFin (f : FpFmt) (r : Rnd) (sat : Bool) (U : Nat) (neg : Bool) (m : Nat) (e : Int) : Res :=
  let emin : Int := 1 - (f.bias : Int)
  let qn : Int := expOf m e - f.mb
  let q : Int := max qn (emin - f.mb)
  let (k, nx) := roundGrid r U neg m e q
  let mag := k + ((q - (emin - f.mb)).toNat) * 2 ^ f.mb
  if maxCode f < mag then
    if !sat && f.sp != .none && ovfToInf r neg then ⟨infCode f neg, flOF + flNX⟩
    else ⟨maxCode f + signBit f neg, flOF + flNX⟩
  else
    let (kn, _) := roundGrid r U neg m e qn
    -- tiny: the unbounded-exponent pick lies below the smallest normal (R45).
    let tiny := magLt kn qn 1 emin
    ⟨mag + signBit f neg, (if nx then flNX else 0) + (if nx && tiny then flUF else 0)⟩

/-- R51, R434: round a finite nonzero value to an integer target. -/
def roundInt (bits : Nat) (signed : Bool) (r : Rnd) (U : Nat) (neg : Bool) (m : Nat) (e : Int) : Res :=
  let (k, nx) := roundGrid r U neg m e 0
  let v : Int := if neg then -(k : Int) else k
  let hi : Int := if signed then ((2 ^ (bits - 1) - 1 : Nat) : Int) else ((2 ^ bits - 1 : Nat) : Int)
  let lo : Int := if signed then -((2 ^ (bits - 1) : Nat) : Int) else 0
  if hi < v then ⟨ofSigned bits hi, flOF + flNX + flSA⟩
  else if v < lo then ⟨ofSigned bits lo, flOF + flNX + flSA⟩
  else ⟨ofSigned bits v, if nx then flNX else 0⟩

/-! FA40: R35, R87. -/

/-- Canonical FA40 NaN (R35). -/
def fa40NaN : Nat := 1023 * 2 ^ 29 + 2 ^ 28
def fa40Inf (neg : Bool) : Nat := 1023 * 2 ^ 29 + (if neg then 2 ^ 39 else 0)
def fa40Max (neg : Bool) : Nat := 1022 * 2 ^ 29 + (2 ^ 29 - 1) + (if neg then 2 ^ 39 else 0)
def fa40Zero (neg : Bool) : Nat := if neg then 2 ^ 39 else 0

/-- R87: round to 30 significant bits under a mode, no bound on the exponent, then place; `true` when it clamps. -/
def fa40RoundMode (r : Rnd) (U : Nat) (neg : Bool) (m : Nat) (e : Int) : Nat × Bool :=
  let q := expOf m e - 29
  let (k, _) := roundGrid r U neg m e q
  let ex := expOf k q
  -- k has 30 bits, or 31 after a carry; the fraction is its 29 bits below the leading one.
  let frac := k * 2 ^ 30 / 2 ^ (Nat.log2 k + 1) % 2 ^ 29
  if 511 < ex then (fa40Max neg, true)
  else if ex < -510 then (fa40Zero neg, false)
  else ((ex + 511).toNat * 2 ^ 29 + frac + (if neg then 2 ^ 39 else 0), false)

/-- R87 placement of an exact value under RNE: the image and whether SAT is set. -/
def fa40OfNum : Num → Nat × Bool
  | .zero n => (fa40Zero n, false)
  | .inf n => (fa40Inf n, false)
  | .nan _ => (fa40NaN, false)
  | .fin n m e => fa40RoundMode .rne 0 n m e

/-- R87: FA40 addition in floating mode; image, clamp, NV flag. -/
def fa40Add (a b : Num) : Nat × Bool × Nat :=
  let (x, fl) := numAdd false a b
  let (c, s) := fa40OfNum x
  (c, s, fl)

/-- R89: clamped 40-bit integer addition; image and clamp. -/
def fa40IntAdd (a b : Int) : Nat × Bool :=
  let v := a + b
  let hi : Int := ((2 ^ 39 - 1 : Nat) : Int)
  let lo : Int := -((2 ^ 39 : Nat) : Int)
  if hi < v then (ofSigned 40 hi, true) else if v < lo then (ofSigned 40 lo, true) else (ofSigned 40 v, false)

/-! Conversion of any value to any target format: R44, R56, Table 3.14. -/

/-- Conversion control byte (Table 3.6). -/
structure Ctl where
  rnd : Rnd
  sat : Bool
  fit : Bool
deriving DecidableEq, Repr

def Ctl.ofByte (b : Nat) : Ctl := ⟨Rnd.ofField (b % 8), b / 8 % 2 = 1, b / 16 % 2 = 1⟩

/-- R43 and the reserved bits of Table 3.6. -/
def ctlOk (b : Nat) : Bool := b % 8 < 6 && b / 32 % 8 == 0

/-- Convert an exact value to a floating format. -/
def toFp (f : FpFmt) (c : Ctl) (U : Nat) (x : Num) : Res :=
  match x with
  | .nan s =>
    match f.sp with
    | .none => ⟨0, flNV⟩
    | _ => ⟨nanCode f, if s then flNV else 0⟩
  | .inf n =>
    match f.sp with
    | .none => ⟨maxCode f + signBit f n, flOF + flNX⟩
    | .ieee => ⟨infCode f n, 0⟩
    | .e4m3 => ⟨if c.sat then maxCode f + signBit f n else nanCode f, flOF + flNX⟩
  | .zero n => ⟨signBit f n, 0⟩
  | .fin n m e => roundFin f c.rnd c.sat U n m e

/-- Convert an exact value to an integer format. -/
def toInt (bits : Nat) (signed : Bool) (c : Ctl) (U : Nat) (x : Num) : Res :=
  match x with
  | .nan _ => ⟨0, flNV⟩
  | .inf n =>
    let hi := if signed then 2 ^ (bits - 1) - 1 else 2 ^ bits - 1
    let lo := if signed then 2 ^ (bits - 1) else 0
    ⟨if n then lo else hi, flNV + flSA⟩
  | .zero _ => ⟨0, 0⟩
  | .fin n m e => roundInt bits signed c.rnd U n m e

/-- Convert an exact value to format code `fmt` (R30). An FA40 target takes the value under RNE by R87, or as a
clamped integer when `intMode`. -/
def toCode (fmt : Nat) (intMode : Bool) (c : Ctl) (U : Nat) (x : Num) : Res :=
  match Fmt.ofCode fmt with
  | some (.fp f) => toFp f c U x
  | some (.int b s) => toInt b s c U x
  | some .fa40 =>
    if intMode then toInt 40 true c U x
    else
      let fl := if x.isSig then flNV else 0
      match x with
      | .fin n m e =>
        let (k, s) := fa40RoundMode c.rnd U n m e
        ⟨k, fl + (if s then flOF + flNX else 0)⟩
      | _ => ⟨(fa40OfNum x).1, fl⟩
  | some (.split _) => toFp fFP32 c U x
  | none => ⟨0, 0⟩

/-! Division and square root: an exact integer quotient or root with a sticky bit far below every rounding position. -/

/-- |a| / |b| as m * 2^e with at least 128 significant bits and the remainder folded into bit 0 (round to odd, which
is innocuous for every target of at most 30 bits and for the 32-bit random comparison of R46). -/
def divMag (m1 : Nat) (e1 : Int) (m2 : Nat) (e2 : Int) : Nat × Int :=
  let sh := 192 + Nat.log2 m2
  let n := m1 * 2 ^ sh
  let q := n / m2
  let q' := if n % m2 = 0 then 2 * q else 2 * q + 1
  (q', e1 - e2 - sh - 1)

/-- One step of the digit-by-digit integer square root, from the highest bit down. -/
def isqrtAux : Nat → Nat → Nat → Nat
  | 0, _, r => r
  | k + 1, n, r =>
    let t := r + 2 ^ k
    if t * t ≤ n then isqrtAux k n t else isqrtAux k n r

/-- floor(sqrt n). -/
def isqrt (n : Nat) : Nat := isqrtAux (Nat.log2 n / 2 + 1) n 0

/-- sqrt of m * 2^e with a sticky bit, as for `divMag`. -/
def sqrtMag (m : Nat) (e : Int) : Nat × Int :=
  let odd := e % 2 = 1
  let m' := if odd then 2 * m else m
  let e' := if odd then e - 1 else e
  let n := m' * 2 ^ 256
  let r := isqrt n
  (if r * r = n then 2 * r else 2 * r + 1, e' / 2 - 128 - 1)

/-! Philox-4x32-10: R47. -/

structure Ph where
  c0 : Nat
  c1 : Nat
  c2 : Nat
  c3 : Nat
deriving DecidableEq, Repr

def philoxRound (k0 k1 : Nat) (c : Ph) : Ph :=
  let p0 := 0xD2511F53 * c.c0
  let p1 := 0xCD9E8D57 * c.c2
  let m := 2 ^ 32
  ⟨(p1 / m % m) ^^^ c.c1 ^^^ k0, p1 % m, (p0 / m % m) ^^^ c.c3 ^^^ k1, p0 % m⟩

def philoxLoop : Nat → Nat → Nat → Ph → Ph
  | 0, _, _, c => c
  | n + 1, k0, k1, c =>
    philoxLoop n ((k0 + 0x9E3779B9) % 2 ^ 32) ((k1 + 0xBB67AE85) % 2 ^ 32) (philoxRound k0 k1 c)

/-- R47, Table 3.9: the random word of element i of tensor `tid` under the 64-bit seed. -/
def philoxWord (seed tid i : Nat) : Nat :=
  let q := i / 4
  let r := philoxLoop 10 (seed % 2 ^ 32) (seed / 2 ^ 32 % 2 ^ 32) ⟨q % 2 ^ 32, q / 2 ^ 32 % 2 ^ 32, tid % 2 ^ 32, 0⟩
  match i % 4 with
  | 0 => r.c0 | 1 => r.c1 | 2 => r.c2 | _ => r.c3

/-! Block scales: R38, R53, R54. -/

/-- Table 3.13: largest finite magnitude of a scaled target as m * 2^e, and emax. -/
def scaleTarget : Nat → (Nat × Int) × Int
  | 0x3 => ((7, 13), 15) | 0x4 => ((7, 6), 8) | 0x5 => ((7, 2), 4) | 0x6 => ((15, -1), 2) | 0x7 => ((3, 1), 2)
  | 0x8 => ((127, 0), 6) | _ => ((7, 0), 2)

/-- Largest finite magnitude among values (zero if none). -/
def amaxOf : List Num → Nat × Int
  | [] => (0, 0)
  | .fin _ m e :: l => let (m', e') := amaxOf l; if m' = 0 then (m, e) else if magLt m' e' m e then (m, e) else (m', e')
  | _ :: l => amaxOf l

/-- R53, R54: the scale code of a block for a target under SCALE_RULE (`fit`). -/
def blockScale (fmt : Nat) (fit : Bool) (xs : List Num) : Nat :=
  if xs.any Num.isNaN then 0xFF
  else if xs.any Num.isInf then 254
  else
    let (m, e) := amaxOf xs
    if m = 0 then 0
    else
      let ((mt, et), emax) := scaleTarget fmt
      let x0 := expOf m e - emax
      -- the smallest X with amax <= max_t * 2^X is one of x0 - 1, x0 and x0 + 1
      let fits (x : Int) : Bool := !(magLt mt (et + x) m e)
      let x := if fit then (if fits (x0 - 1) then x0 - 1 else if fits x0 then x0 else x0 + 1) else x0
      let x := if x < -127 then -127 else if 127 < x then 127 else x
      (x + 127).toNat

/-- A value times 2^k. -/
def scaleNum (k : Int) : Num → Num
  | .fin n m e => .fin n m (e + k)
  | x => x

/-- R38: an element decoded under an E8M0 scale code. -/
def scaledElem (scale : Nat) (x : Num) : Num := if scale = 0xFF then .nan false else scaleNum ((scale : Int) - 127) x

/-! Splitting: R36, R37. -/

/-- x with its significand truncated to 8 significant bits, and the rest. -/
def trunc8 (m : Nat) (e : Int) : (Nat × Int) × (Nat × Int) :=
  let l := Nat.log2 m
  if l < 8 then ((m, e), (0, e))
  else
    let d := 2 ^ (l - 7)
    ((m / d * d, e), (m % d, e))

/-- The pieces h, m, l of an FP32 value; none marks a structural zero (R37). -/
def splitPieces (x : Num) : List (Option Num) :=
  match x with
  | .fin n m e =>
    let ((h, _), (r, _)) := trunc8 m e
    if r = 0 then [some (.fin n h e), none, none]
    else
      let ((h2, _), (r2, _)) := trunc8 r e
      [some (.fin n h e), some (.fin n h2 e), if r2 = 0 then none else some (.fin n r2 e)]
  | y => [some y, none, none]

end Sys2Proof.Machine
end

