-- ==== Sys2Proof/Machine/State.lean ====
section
/-! DEFINITION. The state of the block: plain data, one structure per unit of the device, and the commands that wait.
Fault and Refusal. The state right after a power-on reset, before boot has run. -/

namespace Sys2Proof.Machine

/-- The machine stops with a fault. No meaning of this model raises one: every command of the spec's table has an
effect, an error report or a discard of its own in the spec. -/
inductive Fault where
  /-- Raised by nothing: kept so that the type has a name to list. Safe. -/
  | none
deriving DecidableEq, Repr

/-- Why a command has no meaning. -/
inductive Refusal where
  /-- Raised by an arm of exec for a command that has no meaning yet, with its mnemonic. Safe. -/
  | notModelled (mnemonic : String)
deriving DecidableEq, Repr

/-! ## What leaves the device -/

/-- What the device sends to the outside, newest first in `State.out`. -/
inductive Out where
  /-- A write to host memory by context `ctx` at an I/O virtual address; `poison` marks a poisoned TLP. -/
  | hostWrite (ctx addr : Nat) (data : List Byte) (poison : Bool)
  /-- A read of host memory that the device has issued; a later command brings the answer. -/
  | hostRead (ctx addr len : Nat)
  /-- A PRI page request (R197). -/
  | pageRequest (ctx addr : Nat)
  /-- MSI-X vector `vec` of function `fn`. -/
  | msix (fn vec : Nat)
  /-- The completion of a host read of a BAR: unsupported request, or data, poisoned or not. -/
  | completion (ok : Bool) (data : List Byte) (poison : Bool)
  /-- A flit sent on a port: its 256 bytes (Table 11.4). -/
  | flit (port : Nat) (bytes : List Byte)
  /-- The FEC block that carries five flits of a port (R242): for each active lane, the symbols it sends, in order. -/
  | block (port : Nat) (lanes : List (List Nat))
  /-- A frame delivered to the sink of a D2D path: path number, its role there, GSEQ and its 256 bytes. -/
  | frame (path role gseq : Nat) (data : List Byte)
  /-- What the lines of a D2D module carry for a frame (R312, R315): in each beat, the physical lanes as bits of a number,
  and the valid line. -/
  | beats (module : Nat) (lines : List (Nat × Bool))
  /-- The firewall's answer to a guest request: error response, or data, poisoned or not. -/
  | guest (ok : Bool) (data : List Byte) (poison : Bool)
  /-- A reply of the management endpoint (MCTP, PLDM, SPDM or vendor command): a code and its content. -/
  | reply (code : Nat) (body : List Byte)
  /-- An event the device raises through management, by number (see `Mg` in Ops), with its argument. -/
  | event (code arg : Nat)
  /-- A record written to a host log or a trace ring. -/
  | note (code : Nat) (args : List Nat)
deriving DecidableEq, Repr

/-! ## Memory (chapter 08) -/

/-- An entry of a channel's write-combining buffer (R176): the line (device-physical address / 64), the valid bits of
its 64 bytes, when its first byte was accepted, whether poisoned data was accepted, and whether a FLUSH covers it. -/
structure WcbEntry where
  line : Nat
  valid : BitVec 64
  born : Nat
  poi : Bool
  flushing : Bool
deriving DecidableEq, Repr

/-- A span of device-physical addresses whose unlisted bytes read as zero (seed 0) or as free values (seed > 0). -/
structure Span where
  lo : Nat
  hi : Nat
  seed : Nat
deriving DecidableEq, Repr

/-- The running traffic-generator test (R190). -/
structure TgRun where
  ch : Nat
  pat : Nat
  lines : Nat
deriving DecidableEq, Repr

/-- An access from outside the engines that waits until the memory it names is served again (R183, R190, R356, R168): a
read of a line with what comes back, a write, or a host read through BAR4. -/
inductive HeldAcc where
  | line (line : Nat) (found : LineIn)
  | write (ctx addr : Nat) (data : List Byte) (poison : Bool)
  | bar4 (addr len : Nat)
deriving DecidableEq, Repr

/-- All memory behind device-physical addresses (Table 8.4) and the state of its controllers. `cells` is kept in
canonical form: addresses rising, no cell equal to what an unlisted address reads as. -/
structure MemSt where
  cells : List Host.Cell
  spans : List Span
  /-- First address of each poisoned granule (64-byte HBM line or Vat quarter, 8-byte scratchpad or sync word). -/
  poison : SMap Bool
  wcb : SMap (List WcbEntry)
  /-- Lines held by the memory-side buffers (R178), newest first: timing only, invalidated by the commits of R168
  and R174. -/
  msb : List Nat
  /-- Rows being copied by a remap: channel and row (R183); accesses to them are held. -/
  remapping : List (Nat × Nat)
  /-- Soft-remap entries by channel: the rows remapped, oldest first (R183). -/
  remapped : SMap (List Nat)
  /-- Corrected-event counts of the tracked rows, by channel (R182). -/
  tracker : SMap (List (Nat × Nat))
  /-- Next line of each channel's patrol scrub (R185). -/
  scrub : SMap Nat
  /-- Rows logged in the firmware store for hard repair at the next reset (R184): channel and row. -/
  repairLog : List (Nat × Nat)
  tg : Option TgRun
  /-- MEM_CTX_PTBASE in force, by context: a write waits for the next invalidation (R143). -/
  ptBase : SMap Word
  selfRefresh : Bool
  /-- Accesses that are held, oldest first. -/
  held : List HeldAcc
  /-- Phases each channel has completed in this boot's training (R186, R189). -/
  phases : SMap Nat
deriving DecidableEq, Repr

/-! ## Synchronisation (chapter 10) -/

/-- Who holds a parked wait. -/
inductive Waiter where
  | core (c rd : Nat)
  | ring (r seq : Nat)
  /-- A core's TQPOP on a task queue: the scratchpad offset the entry goes to. -/
  | tqPop (c rd queue dst : Nat)
  /-- A core's TQPUSH: its 64 bytes, taken when it parked, and whether they are poisoned. -/
  | tqPush (c rd queue : Nat) (data : List Byte) (poison : Bool)
  /-- A ring's TASKQ_PUSH. -/
  | tqRing (r seq queue : Nat) (data : List Byte) (poison : Bool)
  /-- A collective operation's own wait on FREE, with its threshold (R296). -/
  | group (g thr : Nat)
deriving DecidableEq, Repr

/-- A parked wait (R228): the device-physical address of its 8-byte word, threshold and kind. -/
structure Wait where
  addr : Nat
  thr : Word
  take : Bool
  who : Waiter
deriving DecidableEq, Repr

/-- The counters of a barrier (R233): arrivals by compute slot, contributions received by a base die from each of its
slots and by the hub from each base die, whether its network stage runs, the generations completed (R237), of which
SYNC_BAR_STAT.GEN shows the low 32 bits, and how often it has been enabled, which tells the stages of one enable from those of
the next (R234). -/
structure BarSt where
  slot : SMap Nat
  atBase : SMap Nat
  atHub : SMap Nat
  slotDue : SMap Nat
  baseDue : SMap Nat
  net : Bool
  gen : Nat
  life : Nat
deriving DecidableEq, Repr

structure SyncSt where
  waits : List Wait
  bars : SMap BarSt
deriving DecidableEq, Repr

/-! ## Cores (chapters 04 to 07) -/

/-- What a control processor is parked on (R145, Table 19.7). The pc still points at the instruction. -/
inductive Park where
  /-- TWAIT on queue q until DONE reaches the ticket. -/
  | twait (q rd : Nat) (ticket : Word)
  /-- TPUSH on a full queue. -/
  | push (q : Nat)
  /-- SWAIT; its wait stands in the wait list. -/
  | swait (rd : Nat)
  /-- TQPOP or TQPUSH on a task queue; its wait stands in the wait list. -/
  | tq (rd queue : Nat) (pop : Bool)
  /-- TEXIT, with rs1 and the halt codes seen (R158). -/
  | texit (rs1 : Word) (haltAt : Nat) (haltLater : Nat)
deriving DecidableEq, Repr

/-- A block that waits in an issue queue: its ticket, its place in the core's push order, its 64 bytes and a chain's
stage words, and for each gated queue the last ticket pushed to it before (R148). -/
structure QBlk where
  ticket : Nat
  order : Nat
  bytes : List Byte
  stages : List Byte
  gates : List (Nat × Nat)
deriving DecidableEq, Repr

/-- A block that has started: how many remote answers and host answers it still waits for, the word it signals and
the amount, whether the signal goes to a remote node, the queue's result so far, and a chain's stage words. -/
structure RunBlk where
  ticket : Nat
  order : Nat
  bytes : List Byte
  outst : Nat
  sig : Option (Nat × Word)
  flags : Nat
  failed : Nat
  executed : Bool
  stages : List Byte
deriving DecidableEq, Repr

/-- One issue queue (R147): waiting and started blocks, the last ticket, DONE, completions not yet counted, the flag
byte and the halt code. -/
structure QueueSt where
  pend : List QBlk
  run : List RunBlk
  last : Nat
  done : Nat
  early : List Nat
  flags : Nat
  halt : Nat
deriving DecidableEq, Repr

/-- The matrix operation in progress: its block, next step, flag word so far, and the mode it began in (R60). -/
structure MatOp where
  ticket : Nat
  bytes : List Byte
  step : Nat
  steps : Nat
  flags : Nat
  strict : Bool
  /-- The terms of the group being formed, by PE number 128 r + c: PP20 (R81, R82) as the exact terms it sums. -/
  pp : SMap (List Num)
  /-- Elements of the split operands that the feeders hold for the passes of the present k (R66): of A by row, of B by 128 +
  column. -/
  held : SMap Num
deriving DecidableEq, Repr

/-- One core. x1 to x31 and the S-mode CSRs; parked instruction and a released result that has not retired;
reservation of LR; the four queues; the accumulator tile (bits [39:0] FA40, bit [40] SAT), its mode and tile flag;
V0 to V31 by byte and P1 to P7 by 64-bit piece over a seed for undefined contents; the lines its instruction cache
holds (virtual line number and 64 bytes, newest first); the launch it serves. -/
structure CoreSt where
  pc : Word
  x : SMap Word
  sstatus : Word
  sie : Word
  stvec : Word
  sscratch : Word
  sepc : Word
  scause : Word
  stval : Word
  scounteren : Word
  cycle : Word
  instret : Word
  park : Option Park
  /-- A released instruction that has still to retire: rd, its value, and the Thaw whose wave it waits for, 0 for none. -/
  retire : Option (Nat × Word × Nat)
  /-- KIND, TAKE and TARGET of the wait that it had (R389). -/
  shown : Nat × Bool × Nat
  resv : Option Nat
  mq : QueueSt
  vq : QueueSt
  lq : QueueSt
  dq : QueueSt
  order : Nat
  mop : Option MatOp
  acc : SMap Word
  accInt : Bool
  accTsat : Bool
  vreg : SMap Byte
  preg : SMap Word
  vseed : Nat
  icache : List (Nat × List Byte)
  launch : Option (Nat × Nat)
  launched : Bool
  rank : Nat
  inReset : Bool
  /-- Array steps of the present window, the window setting in force, and DEV_TIMEBASE up to which windows have been
  accounted for (R23). -/
  arraySteps : Nat
  win : Nat
  winAt : Nat
  waitSince : Nat
  /-- SPAD of the SAVE in progress (Table 7.20). -/
  saveSpad : Bool
  /-- The V, P, accumulator and scratchpad contents are those of a context that was saved and has not been restored
  (R162). -/
  stale : Bool
deriving DecidableEq, Repr

/-! ## Front end (chapter 09) -/

/-- Where a descriptor stands. -/
inductive DPhase where
  | fetched | running | done
deriving DecidableEq, Repr

/-- A descriptor of a ring, from its fetch to its record: sequence number, its 64 bytes, the time of dispatch, the
word and amount of its signal (translated at its check, R226), answers it waits for, its result so far, whether a
fault record was formed for it, the front-end DMA engine it holds, the address whose access failed, and whether it reported a contained
error, which takes effect once its record is written (R368); whether its record is parked (R212). -/
structure DescSt where
  seq : Nat
  bytes : List Byte
  phase : DPhase
  started : Nat
  sig : Option (Nat × Word)
  outst : Nat
  poi : Bool
  status : Nat
  value : Word
  time : Nat
  flt : Bool
  engine : Nat
  faddr : Nat
  kill : Bool
  parked : Bool
deriving DecidableEq, Repr

/-- One submission ring: state of Table 9.6, HEAD, TAIL last read, count of descriptors fetched, NEED_NUDGE as last
written, FAULT_SEQ, CAUSE, descriptors not yet recorded in sequence order, whether a TAIL read is outstanding and
whether it follows a NEED_NUDGE write (R202), the watchdog's start, and the interrupts that follow the next HEAD write
(R208). -/
structure RingSt where
  st : Nat
  head : Nat
  tail : Nat
  fetched : Nat
  needNudge : Bool
  faultSeq : Nat
  cause : Nat
  descs : List DescSt
  tailOut : Bool
  lastCheck : Bool
  wdogFrom : Nat
  irqs : Nat
  /-- Reads of TAIL outstanding beyond the first (R201), and whether ARM waits for one (R213). -/
  tailMore : Nat
  arming : Bool
  /-- When the ring was last polled (R201). -/
  pollAt : Nat
deriving DecidableEq, Repr

/-- A launch in progress (R157, R158): mask as a number of 192 bits, and the statuses reported by core. -/
structure Launch where
  ring : Nat
  seq : Nat
  ctx : Nat
  mask : Nat
  entry : Word
  arg : Word
  preload : Nat
  started : Bool
  exited : SMap Word
deriving DecidableEq, Repr

/-- A progress record (R210). -/
structure Prog where
  dn : Nat
  total : Nat
  st : Nat
  opref : Nat
  time : Nat
deriving DecidableEq, Repr

/-- What waits for the answer to a page request (R197): a Vat-DMA block and the byte it has reached, a descriptor and the
byte it has reached, or a fabric request that has arrived. -/
inductive PriWho where
  | vdma (c ticket pos : Nat)
  | fe (r seq pos : Nat)
  | pkt (bytes : List Byte)
deriving DecidableEq, Repr

structure PriWait where
  ctx : Nat
  addr : Nat
  who : PriWho
deriving DecidableEq, Repr

structure FeSt where
  rings : SMap RingSt
  /-- Event counters, by context * 1024 + number. -/
  events : SMap Word
  launches : List Launch
  progress : SMap Prog
  /-- Progress mirrors: when slot n was last mirrored, and whether it holds a change not yet written (R211). -/
  mirrorAt : SMap Nat
  mirrorDue : SMap Bool
  mirrorStop : SMap Bool
  /-- SR-IOV: VF Enable and NumVFs (R192). -/
  vfEnable : Bool
  numVfs : Nat
  /-- A disable in progress: the contexts that leave, and VF Enable and NumVFs once they have. -/
  vfGoing : Option (List Nat × Bool × Nat)
  /-- FLT_HEAD as last read from ring 0's header (R218). -/
  fltHead : Nat
  /-- Page requests outstanding, by context (R197): the accesses that wait for an answer. -/
  pri : List PriWait
  /-- Task queues a TASKQ_PUSH found disabled after its check are reported by this count of enables, by queue. -/
  tqGen : SMap Nat
  /-- The fault log has failed, and no record is written until its EN is written again (R218). -/
  fltStop : Bool
deriving DecidableEq, Repr

/-! ## Errors (chapter 18) -/

/-- An error to report: severity (Table 18.1), context charged, unit kind and index (Table 18.4), class or code, address
and information. -/
structure Err where
  sev : Nat
  ctx : Option Nat
  kind : Nat
  index : Nat
  code : Nat
  addr : Nat
  info : Nat
deriving DecidableEq, Repr

/-! ## Transactions (chapter 21) and Frost (chapter 18) -/

/-- The one configuration transaction: dirty shadows by register key (R416), and when a validated commit times out
(R419). Everything else of it stands in TXN_STAT. Dimensions whose FAB_RT software has changed, by bit (R258). Affected
units that have reached quiescence, by bit (R418). -/
structure TxnSt where
  shadows : SMap Word
  deadline : Nat
  rtSet : Nat
  quiet : Nat
deriving DecidableEq, Repr

/-- A Thaw (R335): its number from 1, T0, the window W, the wave of each compute slot whose wave has not begun, plus 1, and
whether it is the restart after Frost. -/
structure ThawSt where
  id : Nat
  t0 : Nat
  w : Nat
  waves : SMap Nat
  restart : Bool
deriving DecidableEq, Repr

/-- Frost: what DEV_FROST_STAT does not hold. Scope, ROUND markers received by round * 16 + port, a THAW that waits for
the cut or the dump, whether it is to be forwarded, for which node, and whether one was in this Frost; whether a dump runs, the compute slots
still held (bit s), when Frost was entered and by which FROST descriptor; Thaws whose waves have not all begun, oldest first, and Thaws since the last reset (R335); DEV_TIMEBASE
at the cut. -/
structure FrostSt where
  scope : Nat
  rounds : SMap Bool
  thawDue : Bool
  thawFwd : Bool
  thawBy : Nat
  thawSent : Bool
  dumping : Bool
  held : Nat
  origin : Nat
  since : Nat
  desc : Option (Nat × Nat)
  thawing : List ThawSt
  thaws : Nat
  cutAt : Nat
deriving DecidableEq, Repr
/-! ## Debug (chapter 19) -/

/-- A trace record that has been formed and not yet offered to a writer (Table 19.5). -/
structure TraceRec where
  time : Nat
  typ : Nat
  ctx : Option Nat
  unit : Nat
  a : Nat
  b : Nat
  c : Nat
deriving DecidableEq, Repr

/-- An edge of a wait-for graph (R391): node kinds, bit 0 TAKE, identifiers, SINCE and AUX. -/
structure Edge where
  fk : Nat
  tk : Nat
  take : Bool
  fid : Nat
  tid : Nat
  since : Nat
  aux : Nat
deriving DecidableEq, Repr

/-- Counter banks by bank * 128 + counter, and their epochs; whether counting is off (R383); records formed by the
running command; by slice: the bytes of a part-filled trace line, records dropped since the last one written and trace
bytes taken in this window, by bridge path (16 + q) likewise, and their limits where not nominal (64 + unit); DBG_TRC_CTL as the window found it; the writers drain after a clear of EN (R385); packets seen by port since the last PKT_RX
record; snapshot requests by context: bank, operation and when; a wait-for graph in progress: T_START, edges of the first
read, and whether management asked for it; the last graph image that management asked for; slices (bits 0 to 3) and stacks
(bits 4 to 23) accessed since the global bank was last folded or reset. -/
structure DbgSt where
  banks : SMap Word
  epochs : SMap Word
  off : Bool
  formed : List TraceRec
  part : SMap (List Byte)
  lost : SMap Nat
  left : SMap Nat
  ctl : Nat
  drain : Bool
  seen : SMap Nat
  snap : SMap (Option (Nat × Nat × Nat))
  wfg : Option (Nat × List Edge × Bool)
  image : List Byte
  touched : Nat
deriving DecidableEq, Repr

/-! ## Links (chapter 11, R398 to R401) -/

/-- A sequenced flit in the replay buffer: FSEQ, KIND, VC and its 244 DATA bytes before encryption. -/
structure Flit where
  fseq : Nat
  kind : Nat
  vc : Nat
  body : List Byte
deriving DecidableEq, Repr

/-- A packet in egress: its number, VC, flits not yet sent, whether some were sent, and whether its end is here. -/
structure EPkt where
  id : Nat
  vc : Nat
  flits : List (List Byte)
  begun : Bool
  whole : Bool
deriving DecidableEq, Repr

/-- A packet in ingress: the VC it came on, flits held, flits received, whether its end has arrived, the number it is
forwarded under and the port it goes to (R267), the VC it goes on with (R263), and whether it was kept over a link-down,
so that its credits are of a link that is gone (R253). -/
structure IPkt where
  vc : Nat
  flits : List (List Byte)
  count : Nat
  whole : Bool
  out : Option (Nat × Nat)
  evc : Nat
  old : Bool
deriving DecidableEq, Repr

/-- A packet, or the part of it that has arrived, in the FAB lane buffers of the bridge from base die `a` to base die `b`
(R12, R262): its number, VC, the port it goes to, flits held, whether its end is here, whether flits of it have gone on, and
when it last advanced. -/
structure BrPkt where
  id : Nat
  vc : Nat
  a : Nat
  b : Nat
  q : Nat
  flits : List (List Byte)
  whole : Bool
  begun : Bool
  since : Nat
deriving DecidableEq, Repr

/-- What a port holds besides its registers: sequence numbers, the replay buffer, credit counts by VC (SENT, the
partner's limits, the last CRCNT received and the count returned), the VC whose count goes next, NAK state (R250),
replays from one FSEQ and when ACK last advanced (R251), received flits not yet taken, flits of an encrypted batch not
yet verified and DEV_TIMEBASE when each was decoded (R387), header counts (R243), PARAM progress, times of bring-up, the packets in ingress and egress, key areas and
staged key words, batch counters by key area, the open transmit batch, whether credit is withheld for a commit (R249) and
the counts returned meanwhile, whether the fabric leaves the port out (R256); BSEQ of the next block and the flits placed in it
(R242), CTRL bodies that wait for room in the replay buffer (R251), when bring-up began and LNK_CTL as it was then (R252,
Table 11.9), the credit counts and the ACK last sent, and when the head of each VC last advanced (R263: VCs 0 to 8 of egress,
16 to 24 of ingress). -/
structure PortSt where
  txSeq : Nat
  rxSeq : Nat
  replay : List Flit
  sent : SMap Nat
  limit : SMap Nat
  cr : SMap Nat
  freed : SMap Nat
  crVc : Nat
  nak : Bool
  nakHeld : Bool
  nakAt : Nat
  replays : Nat
  replayFrom : Nat
  ackAt : Nat
  rx : List (List Byte)
  held : List (List Byte)
  heldAt : List Nat
  badHdr : Nat
  goodHdr : Nat
  paramIn : Bool
  paramOut : Bool
  trainAt : Nat
  failAt : Nat
  ingress : List IPkt
  egress : List EPkt
  keys : SMap (List Byte)
  staged : SMap (List Byte)
  bctr : SMap Nat
  batch : List (List Byte)
  hold : Bool
  heldCr : SMap Nat
  misw : Bool
  bseq : Nat
  txq : List (List Byte)
  ctrl : List (List Byte)
  bringAt : Nat
  trainCtl : Nat
  told : SMap Nat
  toldAck : Nat
  adv : SMap Nat
deriving DecidableEq, Repr

/-! ## Fabric (chapter 12) -/

/-- Who waits for the response to a request: the Vat DMA of a core, a front-end descriptor, or a collective step (group,
operation number, and what the response is for). -/
inductive ReqWho where
  | vdma (c ticket : Nat)
  | fe (r seq : Nat)
  | col (g op tag : Nat)
deriving DecidableEq, Repr

/-- A request, queued or outstanding: flow, SEQ (0 while queued), its packet, its owner, times sent that count against
RETRY, when it was last sent, whether the last answer was BUSY, and for a GET the reserved destination of its data
(R269): pieces of host memory or not, address and length. -/
structure Req where
  flow : Nat
  seq : Nat
  pkt : List Byte
  who : ReqWho
  ctx : Nat
  sends : Nat
  sentAt : Nat
  busy : Bool
  ret : List (Bool × Nat × Nat)
deriving DecidableEq, Repr

/-- A packet delivered at this device and not yet consumed; `from` is the port and VC whose credits it holds. -/
structure InPkt where
  src : Option (Nat × Nat)
  nfl : Nat
  bytes : List Byte
deriving DecidableEq, Repr

/-- A flow record (R271): the SEQs applied in the flow's window with STATUS and old value, when the flow last sent, and the
highest SEQ of its window. -/
structure FlowRec where
  applied : List (Nat × Nat × Nat)
  last : Nat
  high : Nat
deriving DecidableEq, Repr

structure FabSt where
  nextId : Nat
  inbox : List InPkt
  queue : List Req
  outst : List Req
  lastSeq : SMap Nat
  recs : SMap FlowRec
  noisy : Bool
  bridge : List BrPkt
  outq : List (List Byte)
deriving DecidableEq, Repr

/-! ## Collectives (chapter 13) -/

/-- A COL segment sent or due to be sent, and not yet covered by a GRANT (R289): the addressee's rank, its kind (0 control,
1 data, 2 the control segment ABORT), its running number on the edge, its packet, times sent, and when it was last sent. -/
structure ColSeg where
  peer : Nat
  kind : Nat
  num : Nat
  pkt : List Byte
  sends : Nat
  sentAt : Nat
deriving DecidableEq, Repr

/-- What a member keeps of one peer. Since EN was set: data and control segments sent, those its GRANTs cover, data
segments of it freed here, control segments of it received in ended operations. Of the operation in progress: data
segments held by position, the position consumed next, control packets by index, control segments sent. The ARG0 and
epoch of a GRANT that is due. Whether its ABORT has come. -/
structure ColPeer where
  dSent : Nat
  dCov : Nat
  cSent : Nat
  cCov : Nat
  freed : Nat
  cBase : Nat
  got : SMap (List Byte)
  next : Nat
  ctl : SMap (List Byte)
  cOut : Nat
  due : Option (Nat × Nat)
  aborted : Bool
deriving DecidableEq, Repr

/-- An operation of a group: OPSEQ, fields of its descriptor, mode and epoch at dispatch (R284, R288), the word and amount
of its signal, the descriptor, or the barrier and its enable, that issued it, when it was dispatched, whether it has started; then
its progress: segments formed upwards and taken downwards, phase, CRC-64 so far, Watermark, result bytes or plan held,
pieces and entries still to be answered by rank or number, data pulled by piece and chunk, peers that DONE was sent to,
the threshold FREE has reached (R296), its status so far. -/
structure ColOp where
  seq : Nat
  op : Nat
  dtype : Nat
  redop : Nat
  strict : Bool
  epoch : Nat
  count : Nat
  src : Nat
  dst : Nat
  aux : Nat
  sig : Option (Nat × Word)
  ring : Option (Nat × Nat)
  bar : Option (Nat × Nat)
  since : Nat
  started : Bool
  upNext : Nat
  dnNext : Nat
  phase : Nat
  zph : Nat
  crc : Nat
  crcIn : Nat
  mark : Option Nat
  buf : List Byte
  left : SMap Nat
  pulled : SMap (List Byte)
  doneTo : SMap Bool
  freeTo : Nat
  asked : Nat
  status : Nat
deriving DecidableEq, Repr

/-- A group: the member list in force and ARITY (R280), OPSEQ of the last operation completed here, operations
dispatched and not complete, packets of the next operation (R290), segments sent, peers by rank, the EPOCH of the
last RESHARD dispatched (R297), STRICT of the last operation completed, the slice and bytes of staging held (R287), and staging of
an earlier enable that is still held (R303). -/
structure ColGrp where
  list : List Nat
  arity : Nat
  base : Nat
  ops : List ColOp
  held : List (List Byte)
  segs : List ColSeg
  peers : SMap ColPeer
  resh : Nat
  lastStrict : Bool
  staged : Option (Nat × Nat)
  older : List (Nat × Nat)
deriving DecidableEq, Repr

/-! ## Reset, boot and OTP (chapter 17) -/

/-- Resets and power. The reset in progress: 0 none, 1 power-on, 2 system, its start, and whether the stretch has ended;
level sources asserted now, by bit of DEV_RST_CAUSE.SRC; whether all rails but standby are off; the THERMTRIP latch;
standby power; the bytes of the OTP array that were programmed in the field, record types whose factory slot fails R363
(bit t), and of OTP_PROG_BUF; a record being programmed: type, generation and bytes;
whether OTP_PROG_CTL or management asked for it; channels trained in this boot; the level of FROST_N as the board drives
it, and since when it has been high. -/
structure RstSt where
  level : Nat
  start : Nat
  stretched : Bool
  ext : Nat
  off : Bool
  trip : Bool
  vsb : Bool
  otp : SMap Byte
  gen0Bad : Nat
  buf : SMap Byte
  prog : Option (Nat × Nat × List Byte)
  progMgmt : Bool
  frostLow : Bool
  frostHigh : Nat
deriving DecidableEq, Repr

/-- What the monitor keeps of a pending block of a saved image beside it: ticket, place in the push order and gates, and
the block itself where the 4,096 bytes of Table 7.23 have no room for it. -/
structure SavedBlk where
  ticket : Nat
  order : Nat
  bytes : List Byte
  stages : List Byte
  gates : List (Nat × Nat)
deriving DecidableEq, Repr


/-! ## Die-to-die paths and the guest firewall (chapter 15) -/

/-- A directed module (R312 to R317): its state of Table 15.5 and bad lanes (bit 34 clock, bit 35 valid); the sender's next
FSEQ, replay buffer of (FSEQ, GSEQ, data), how many of its frames are still to be sent again, consecutive replays and
the FSEQ they start from, and when the acknowledgement last advanced; the receiver's expected FSEQ, a NAK still to be
carried, whether another NAK is held off and since when; times of CRC failures of the last 1 ms; when a retrain began. -/
structure D2dMod where
  st : Nat
  bad : Nat
  tx : Nat
  buf : List (Nat × Nat × List Byte)
  again : Nat
  replays : Nat
  replayFrom : Nat
  ackAt : Nat
  rx : Nat
  nak : Bool
  nakHeld : Bool
  nakAt : Nat
  fails : List Nat
  retrain : Option Nat
deriving DecidableEq, Repr

/-- A directed path: number of the next frame offered, number of the frame delivered next, frames that arrived ahead of it,
frames to be dealt again by other modules (R317), frames offered and not yet dealt with their roles and numbers, the roles of
frames dealt and not yet delivered (R319), and those of them dealt again (R318). A frame carries its number modulo 65,536. -/
structure D2dPath where
  next : Nat
  want : Nat
  early : SMap (List Byte)
  redeal : List (Nat × List Byte)
  waiting : List (Nat × Nat × List Byte)
  sent : SMap Nat
  again : List Nat
deriving DecidableEq, Repr

/-- A guest request held at the port by its window's bucket (R323), or, `late`, at its source while its window or the memory that it
needs is being changed or not served (R168, R322). -/
structure GuestReq where
  window : Nat
  write : Bool
  addr : Nat
  len : Nat
  data : List Byte
  late : Bool
deriving DecidableEq, Repr

/-- D2D modules by the index of Table 17.6, paths by the number of Table 15.7, whether a guest die is fitted, bytes
missing from each window's bucket and when that was so, and held requests, oldest first. -/
structure D2dSt where
  mods : SMap D2dMod
  paths : SMap D2dPath
  guest : Bool
  spent : SMap (Nat × Nat)
  held : List GuestReq
deriving DecidableEq, Repr

/-! ## The Calender (chapter 16) -/

/-- A pending HINT (R334): when its pre-ramp may begin, when the phase starts and ends, and its load. -/
structure HintSt where
  from_ : Nat
  start : Nat
  stop : Nat
  load : Nat
deriving DecidableEq, Repr

/-- The Calender: the values that PWR_CAP.CAP and PWR_EXT_CAP.CAP have reached, in mW, and when; power in force in W (R331); last demand and
temperatures; each die's activity estimate, and what the last measurement adds to their sum (R325); the end of a phase-slot
delay, and whether a ramp-up event is under way (R333); pending hints; the limit
that CURRENT sets, whether a regulator is at its limit, whether the input is low, a rail droops or a rail is below 0.50 V
(R22); times of the last loop, measurement and ramp interval; since when estimate and measurement disagree or agree (R337);
what the intervals of the last 100 ms drew above CAP_EFF, newest first, and how many intervals in a row did (R327); what the
intervals of this ms drew and how many there were, what those of the last ms drew, and for how many ms yet an exception of
R331 lets power fall at once; what of the guard band is in force (R337); steps of
2.5 mV by which limits hold the rails down, and those by which THERM holds a die's rail down, the power that took and
gave back in this ms (R344); whether the air side is held (R430); when the last comparison of rates and the last reading of
margins were (R339, R340); offsets and ageing trims in steps of 2.5 mV; dies held by THERM, stacks paced; since when a die has stayed
below its rate (R341) and by how much; cores paced; in iso-rate mode, when the next token of a core's array, or at 192 + its number of its vector engine, is due in ns / 145, cores held
back for it, and dies that miss the rate (R343); coolant out of range. -/
structure PwrSt where
  cap : Nat
  ext : Nat
  capAt : Nat
  force : Nat
  demand : Nat
  tj : SMap Nat
  stackT : SMap Nat
  est : SMap Nat
  corr : Int
  slotEnd : Option Nat
  rampUp : Bool
  hints : List HintSt
  current : Option Nat
  regLimit : Bool
  low : Bool
  droop : Bool
  under : Bool
  loopAt : Nat
  measAt : Nat
  rampAt : Nat
  differ : Option Nat
  agree : Nat
  excess : List Int
  runAbove : Nat
  msSum : Nat
  msCnt : Nat
  msPrev : Option Nat
  msFree : Nat
  guard : Nat
  drop : Nat
  cool : SMap Nat
  fell : Nat
  rose : Nat
  airHot : Bool
  eqAt : Nat
  trimAt : Nat
  eq : SMap Nat
  trim : SMap Nat
  hot : Nat
  hotStacks : Nat
  slow : SMap Nat
  aged : SMap Nat
  deficit : SMap Nat
  paced : List Nat
  isoNext : SMap Nat
  isoHeld : List Nat
  isoMiss : Nat
  coolant : Bool
deriving DecidableEq, Repr

/-! ## Security and management (chapter 20) -/

/-- An image slot of the firmware store: nothing valid, the image of the factory, or blocks that an update wrote. -/
inductive FwImage where
  | erased
  | factory
  | written (blocks : List (List Byte))
deriving DecidableEq, Repr

/-- A secured session of SPDM: number, the fabric node that opened it if any, whether FINISH has completed it, and key
generations since (KEY_UPDATE). -/
structure Session where
  id : Nat
  node : Option Nat
  open_ : Bool
  keys : Nat
deriving DecidableEq, Repr

/-- A firmware update (R406): agent, slot, blocks expected, blocks received, and whether verification passed. -/
structure FwUpdate where
  agent : Nat
  slot : Bool
  total : Nat
  blocks : List (List Byte)
  good : Bool
deriving DecidableEq, Repr

/-- The root of trust and the management endpoint: image slots and the activation record (true names slot B), the update in
progress, boot recovery mode, digests of Table 20.2 and the latched copy of each (R409), sessions and the next session
number, the OTP nonce, the endpoint identifier, sensors as last refreshed and when, and events due to be sent. -/
structure SecSt where
  slotA : FwImage
  slotB : FwImage
  active : Bool
  update : Option FwUpdate
  recovery : Bool
  meas : SMap (List Byte)
  latch : SMap (List Byte)
  sessions : List Session
  nextSession : Nat
  nonce : Option (List Byte)
  eid : Nat
  sensors : SMap Nat
  sensedAt : Nat
  events : List (Nat × Nat)
deriving DecidableEq, Repr

/-! ## The whole state -/

/-- Everything the spec gives the device, and the commands that wait. -/
structure State where
  /-- Commands waiting, first in, first out. -/
  pending : List Instr
  /-- What has left the device, newest first. -/
  out : List Out
  /-- Time in ns since the always-on domain was last cleared, and the reset that DEV_TIMEBASE counts from. -/
  now : Nat
  tbase : Nat
  /-- The model's own counter: each free value is an opaque constant of Config applied to it. -/
  free : Nat
  /-- The running command meets memory that is held: it waits, with no effect yet. Clear between commands. -/
  stall : Bool
  /-- Contexts that a contained error of the running command ends, settled at its end (R368). -/
  kills : List Nat
  /-- Fatal codes raised by the running command, settled at its end (R369). -/
  fatals : List Nat
  /-- When each unit last had a corrected error written to the log, by kind * 4096 + index (R371). -/
  errAt : SMap Nat
  /-- Errors of the command in progress that the error log has still to take, with DEV_TIMEBASE at detection (R371); whether
  a write of the log failed since EN was written. -/
  errs : List (Nat × Err)
  errStop : Bool
  /-- Residue mismatches of the collective adders that their next addition meets (R295). -/
  resid : Nat
  /-- Registers that differ from their reset value, by code * 4096 + index. -/
  regs : SMap Word
  txn : TxnSt
  mem : MemSt
  sync : SyncSt
  cores : SMap CoreSt
  fe : FeSt
  frost : FrostSt
  dbg : DbgSt
  ports : SMap PortSt
  fab : FabSt
  col : SMap ColGrp
  rst : RstSt
  /-- Pending blocks of saved images, by save area. -/
  saves : SMap (List SavedBlk)
  d2d : D2dSt
  pwr : PwrSt
  sec : SecSt
deriving DecidableEq, Repr

/-! ## Reset -/

def QueueSt.reset : QueueSt := ⟨[], [], 0, 0, [], 0, 0⟩

/-- A core with nothing launched: every register the spec gives no reset value reads zero (see the assumption log). -/
def CoreSt.reset : CoreSt :=
  { pc := 0, x := [], sstatus := 0, sie := 0, stvec := 0, sscratch := 0, sepc := 0, scause := 0, stval := 0,
    scounteren := 0, cycle := 0, instret := 0, park := none, retire := none, shown := (0, false, 0), resv := none,
    mq := QueueSt.reset, vq := QueueSt.reset, lq := QueueSt.reset, dq := QueueSt.reset, order := 0, mop := none,
    acc := [], accInt := false, accTsat := false, vreg := [], preg := [], vseed := 0, icache := [], launch := none,
    launched := false, rank := 0, inReset := false, arraySteps := 0, win := 4, winAt := 0,
    waitSince := 0, saveSpad := false, stale := false }

def RingSt.reset : RingSt := ⟨0, 0, 0, 0, false, 0, 0, [], false, false, 0, 0, 0, false, 0⟩

def BarSt.reset : BarSt := ⟨[], [], [], [], [], false, 0, 0⟩

def Prog.reset : Prog := ⟨0, 0, 0, 0, 0⟩

def PortSt.reset : PortSt :=
  { txSeq := 0, rxSeq := 0, replay := [], sent := [], limit := [], cr := [], freed := [], crVc := 0, nak := false,
    nakHeld := false, nakAt := 0, replays := 0, replayFrom := 0, ackAt := 0, rx := [], held := [], badHdr := 0,
    goodHdr := 0, paramIn := false, paramOut := false, trainAt := 0, failAt := 0, ingress := [], egress := [],
    keys := [], staged := [], bctr := [], batch := [], hold := false, heldCr := [], misw := false, bseq := 0, txq := [], ctrl := [],
    bringAt := 0, trainCtl := 0, told := [], toldAck := 0, adv := [], heldAt := [] }

def FlowRec.reset : FlowRec := ⟨[], 0, 0⟩
def FabSt.reset : FabSt := ⟨0, [], [], [], [], [], false, [], []⟩

def ColPeer.reset : ColPeer := ⟨0, 0, 0, 0, 0, 0, [], 0, [], 0, none, false⟩
def ColGrp.reset : ColGrp := ⟨[], 2, 0, [], [], [], [], 0, false, none, []⟩

def RstSt.reset : RstSt :=
  { level := 0, start := 0, stretched := false, ext := 0, off := false, trip := false, vsb := true, otp := [], gen0Bad := 0, buf := [],
    prog := none, progMgmt := false, frostLow := false, frostHigh := 0 }

def D2dMod.reset : D2dMod := ⟨0, 0, 0, [], 0, 0, 0, 0, 0, false, false, 0, [], none⟩
def D2dPath.reset : D2dPath := ⟨0, 0, [], [], [], [], []⟩
def D2dSt.reset : D2dSt := ⟨[], [], false, [], []⟩

def PwrSt.reset : PwrSt :=
  { cap := 3000000, ext := 4095000, capAt := 0, force := 0, demand := 0, tj := [], stackT := [], est := [], corr := 0, slotEnd := none, rampUp := false,
    hints := [], current := none, regLimit := false, low := false, droop := false, under := false,
    loopAt := 0, measAt := 0, rampAt := 0, differ := none, agree := 0, excess := [], runAbove := 0, msSum := 0, msCnt := 0, msPrev := none,
    msFree := 0, guard := 0, drop := 0, cool := [], fell := 0, rose := 0, airHot := false, eqAt := 0, trimAt := 0, eq := [], trim := [], hot := 0,
    hotStacks := 0, slow := [], aged := [], deficit := [], paced := [], isoNext := [], isoHeld := [], isoMiss := 0, coolant := false }

def SecSt.reset : SecSt :=
  { slotA := .factory, slotB := .erased, active := false, update := none, recovery := false, meas := [], latch := [],
    sessions := [], nextSession := 0, nonce := none, eid := 0, sensors := [], sensedAt := 0, events := [] }

/-- The registers of the always-on domain after standby power came up (R349, R351, R353): the cause is VSB, and one reset
has been counted. -/
def State.firstRegs : SMap Word := [(8 * 4096, 1), (9 * 4096, 1)]

/-- The device right after a power-on reset has ended and before boot step 1: every register at its reset value,
memory with nothing listed, no command waiting. -/
def State.reset : State :=
  { pending := [], out := [], now := 0, tbase := 0, free := 0, stall := false, kills := [], fatals := [], errAt := [], errs := [], errStop := false, resid := 0, regs := State.firstRegs,
    txn := ⟨[], 0, 0, 0⟩,
    mem := { cells := [], spans := [], poison := [], wcb := [], msb := [], remapping := [], remapped := [],
             tracker := [], scrub := [], repairLog := [], tg := none, ptBase := [], selfRefresh := false, held := [], phases := [] },
    sync := ⟨[], []⟩,
    cores := [],
    fe := { rings := [], events := [], launches := [], progress := [], mirrorAt := [], mirrorDue := [],
            mirrorStop := [], vfEnable := false, numVfs := 0, vfGoing := none, fltHead := 0, pri := [], tqGen := [], fltStop := false },
    frost := { scope := 0, rounds := [], thawDue := false, thawFwd := false, thawBy := 0, thawSent := false, dumping := false, held := 0, origin := 0,
               since := 0, desc := none, thawing := [], thaws := 0, cutAt := 0 },
    dbg := { banks := [], epochs := [], off := false, formed := [], part := [], lost := [], left := [], ctl := 0xA0078, drain := false,
             seen := [], snap := [], wfg := none, image := [], touched := 0 },
    ports := [], fab := FabSt.reset, col := [], rst := RstSt.reset, saves := [],
    d2d := D2dSt.reset, pwr := PwrSt.reset, sec := SecSt.reset }

end Sys2Proof.Machine
end

