-- ==== Sys2Proof/Machine/Ops.lean ====
section
/-! DEFINITION. The named operations every meaning is built from: sparse tables, bytes and bit fields, access to the
units, registers by field, time, output, free values, progress records (R210, R211), and error reports (R366, R371). -/

namespace Sys2Proof.Machine

/-! ## Sparse tables -/

/-- Read a sparse table; `d` is what an unlisted key reads as. -/
def smGet {α : Type} (d : α) : SMap α → Nat → α
  | [], _ => d
  | (k, v) :: m, key => if key = k then v else smGet d m key

/-- Remove a key. -/
def smErase {α : Type} (key : Nat) : SMap α → SMap α
  | [] => []
  | (k, v) :: m => if key = k then smErase key m else (k, v) :: smErase key m

/-- Put a value under a key, keeping the keys rising. -/
def smPut {α : Type} (key : Nat) (x : α) : SMap α → SMap α
  | [] => [(key, x)]
  | (k, v) :: m =>
    if key = k then (k, x) :: m else if key < k then (key, x) :: (k, v) :: m else (k, v) :: smPut key x m

/-- Write a sparse table in canonical form: a value equal to the default is not listed. -/
def smSet {α : Type} [DecidableEq α] (d : α) (key : Nat) (x : α) (m : SMap α) : SMap α :=
  if x = d then smErase key m else smPut key x m

/-- Keys strictly rising. -/
def smSorted {α : Type} : SMap α → Bool
  | [] => true
  | [_] => true
  | (k, _) :: (k', v') :: m => k < k' && smSorted ((k', v') :: m)

/-! ## Numbers, bits and bytes -/

/-- Bits [lsb + width - 1 : lsb] of a number. -/
def bitsN (v lsb width : Nat) : Nat := v / 2 ^ lsb % 2 ^ width

def bitN (v i : Nat) : Bool := v / 2 ^ i % 2 = 1

/-- A field replaced in a number. -/
def setBitsN (v lsb width x : Nat) : Nat :=
  v - bitsN v lsb width * 2 ^ lsb + (x % 2 ^ width) * 2 ^ lsb

def wN (n : Nat) : Word := BitVec.ofNat 64 n

/-- Little-endian value of a byte list (R3). -/
def leNat : List Byte → Nat
  | [] => 0
  | b :: l => b.toNat + 256 * leNat l

/-- `n` little-endian bytes of a number. -/
def natLe : Nat → Nat → List Byte
  | 0, _ => []
  | n + 1, v => BitVec.ofNat 8 v :: natLe n (v / 256)

/-- The bytes at [off, off + n) of a list; missing bytes read zero. -/
def slice (l : List Byte) (off n : Nat) : List Byte :=
  let t := (l.drop off).take n
  t ++ List.replicate (n - t.length) 0

/-- A little-endian field of bytes. -/
def fieldLe (l : List Byte) (off n : Nat) : Nat := leNat (slice l off n)

def ceilDiv (a b : Nat) : Nat := (a + b - 1) / b

/-- Indexes of the set bits of a number below a bound. -/
def setBits (v bound : Nat) : List Nat := (List.range bound).filter (fun i => bitN v i)

/-! ## Units -/

def State.core (s : State) (c : Nat) : CoreSt := smGet CoreSt.reset s.cores c
def State.setCore (s : State) (c : Nat) (v : CoreSt) : State := { s with cores := smSet CoreSt.reset c v s.cores }
def State.modCore (s : State) (c : Nat) (f : CoreSt → CoreSt) : State := s.setCore c (f (s.core c))

def State.ring (s : State) (r : Nat) : RingSt := smGet RingSt.reset s.fe.rings r
def State.setRing (s : State) (r : Nat) (v : RingSt) : State :=
  { s with fe := { s.fe with rings := smSet RingSt.reset r v s.fe.rings } }
def State.modRing (s : State) (r : Nat) (f : RingSt → RingSt) : State := s.setRing r (f (s.ring r))

def State.modFe (s : State) (f : FeSt → FeSt) : State := { s with fe := f s.fe }
def State.modMem (s : State) (f : MemSt → MemSt) : State := { s with mem := f s.mem }
def State.modSync (s : State) (f : SyncSt → SyncSt) : State := { s with sync := f s.sync }
def State.modFrost (s : State) (f : FrostSt → FrostSt) : State := { s with frost := f s.frost }
def State.modDbg (s : State) (f : DbgSt → DbgSt) : State := { s with dbg := f s.dbg }
def State.port (s : State) (p : Nat) : PortSt := smGet PortSt.reset s.ports p
def State.modPort (s : State) (p : Nat) (f : PortSt → PortSt) : State :=
  { s with ports := smSet PortSt.reset p (f (s.port p)) s.ports }
def State.modFab (s : State) (f : FabSt → FabSt) : State := { s with fab := f s.fab }
def State.modTxn (s : State) (f : TxnSt → TxnSt) : State := { s with txn := f s.txn }

def State.bar (s : State) (i : Nat) : BarSt := smGet BarSt.reset s.sync.bars i
def State.setBar (s : State) (i : Nat) (b : BarSt) : State :=
  { s with sync := { s.sync with bars := smSet BarSt.reset i b s.sync.bars } }

/-- The queue of a core by number: 0 matrix, 1 vector, 2 local DMA, 3 Vat DMA (R144). -/
def CoreSt.queue (c : CoreSt) (q : Nat) : QueueSt :=
  match q with | 0 => c.mq | 1 => c.vq | 2 => c.lq | _ => c.dq
def CoreSt.setQueue (c : CoreSt) (q : Nat) (v : QueueSt) : CoreSt :=
  match q with
  | 0 => { c with mq := v } | 1 => { c with vq := v } | 2 => { c with lq := v } | _ => { c with dq := v }
def State.modQueue (s : State) (c q : Nat) (f : QueueSt → QueueSt) : State :=
  s.modCore c (fun k => k.setQueue q (f (k.queue q)))

/-- x0 reads zero; a write of it is discarded (RV64I). -/
def CoreSt.getX (c : CoreSt) (r : Nat) : Word := if r = 0 then 0 else smGet 0 c.x r
def CoreSt.setX (c : CoreSt) (r : Nat) (v : Word) : CoreSt := if r = 0 then c else { c with x := smSet 0 r v c.x }

/-! ## Registers -/

/-- Key of a register in the register map. -/
def regKey (r : Reg) (i : Nat) : Nat := r.code * 4096 + i

/-- The stored value of a register: its reset value until something changes it. -/
def State.reg (s : State) (r : Reg) (i : Nat) : Word := smGet (wN r.info.reset) s.regs (regKey r i)

def State.setReg (s : State) (r : Reg) (i : Nat) (v : Word) : State :=
  { s with regs := smSet (wN r.info.reset) (regKey r i) v s.regs }

/-- The value of one field. -/
def State.fld (s : State) (f : Fld) (i : Nat := 0) : Nat := bitsN (s.reg f.reg i).toNat f.lsb f.width

def State.flag (s : State) (f : Fld) (i : Nat := 0) : Bool := s.fld f i != 0

/-- Hardware sets one field. -/
def State.setFld (s : State) (f : Fld) (i v : Nat) : State :=
  s.setReg f.reg i (wN (setBitsN (s.reg f.reg i).toNat f.lsb f.width v))

/-- Hardware counts in a field that saturates at its maximum (R254). -/
def State.incSat (s : State) (f : Fld) (i : Nat := 0) (by_ : Nat := 1) : State :=
  s.setFld f i (min (s.fld f i + by_) (2 ^ f.width - 1))

/-- Hardware counts in a field that wraps. -/
def State.incWrap (s : State) (f : Fld) (i : Nat := 0) : State := s.setFld f i (s.fld f i + 1)

/-- Forget every register for which `p` holds: each reads its reset value again. -/
def State.resetRegs (s : State) (p : Nat → Bool) : State := { s with regs := s.regs.filter (fun kv => !(p kv.1)) }

/-- What one field holds after a write of `v` to its register (Table 0.3, R7): RW takes a value its table accepts, W1C
clears and W1S sets the bits written as 1, RO and WO fields keep what hardware holds. -/
def writeField (old v : Nat) (f : FieldSpec) : Nat :=
  let x := bitsN v f.lsb f.width
  let o := bitsN old f.lsb f.width
  match f.acc with
  | .rw => if f.lo ≤ x && x ≤ f.hi then setBitsN old f.lsb f.width x else old
  | .w1c => setBitsN old f.lsb f.width (o &&& (x ^^^ (2 ^ f.width - 1)))
  | .w1s => setBitsN old f.lsb f.width (o ||| x)
  | .ro => old
  | .wo => old

/-- A write to a register under its access codes alone. -/
def State.regWrite (s : State) (r : Reg) (i v : Nat) : State :=
  s.setReg r i (wN (r.info.fields.foldl (fun o f => writeField o v f) (s.reg r i).toNat))

/-- The register name and index a key stands for. -/
def keyReg (k : Nat) : Option Reg := allRegs[k / 4096]?

/-! ## Time, output, free values -/

/-- DEV_TIMEBASE: ns since the release of the last power-on or system reset (Table 2.6). -/
def State.timebase (s : State) : Nat := s.now - s.tbase

def emit (o : Out) (s : State) : State := { s with out := o :: s.out }

/-- A free value: its number, and the state with the counter advanced. -/
def State.fresh (s : State) : Nat × State := (s.free, { s with free := s.free + 1 })

/-- A free choice, with the counter advanced. -/
def State.choose (s : State) : Bool × State := (Config.freeBool s.free, { s with free := s.free + 1 })

/-- MSI-X vector of a function. -/
def msix (fn vec : Nat) (s : State) : State := emit (.msix fn vec) s

/-- Events raised through management, by number of `Out.event`. -/
def mgDegraded : Nat := 1
def mgFatal : Nat := 2
def mgOutlier : Nat := 3
def mgBootFail : Nat := 4
def mgFallback : Nat := 5
def mgMeasOnly : Nat := 6
def mgOther : Nat := 7

/-! ## Counters and trace: R379 to R384 -/

/-- Add to a counter of a bank, unless counting is off (R383). -/
def count (bank idx n : Nat) (s : State) : State :=
  if s.dbg.off || n = 0 then s
  else s.modDbg (fun d => { d with banks := smSet 0 (bank * 128 + idx) (smGet 0 d.banks (bank * 128 + idx) + wN n) d.banks })

/-- The class of a record type (Table 19.6); PAD and LOST have none. -/
def trClass (typ : Nat) : Nat :=
  match typ with
  | 1 => 0 | 2 => 0 | 3 => 1 | 4 => 1 | 5 => 2 | 0x40 => 6 | 0x41 => 6 | 0x50 => 7
  | t => if t / 16 = 1 then 3 else if t / 16 = 2 then 4 else 5

/-- R384: form a trace record of an event at DEV_TIMEBASE t. The writers take it when the command ends. -/
def traceAt (t typ : Nat) (ctx : Option Nat) (unit a b c : Nat) (s : State) : State :=
  if s.flag F.DBG_TRC_CTL_EN && !s.dbg.drain && bitN s.dbg.ctl (8 + trClass typ) then
    s.modDbg (fun d => { d with formed := d.formed ++ [⟨t, typ, ctx, unit, a, b, c⟩] })
  else s

/-- A trace record of an event that occurs now. -/
def trace (typ : Nat) (ctx : Option Nat) (unit a b c : Nat) (s : State) : State := traceAt s.timebase typ ctx unit a b c s

/-! ## Progress records -/

def State.prog (s : State) (n : Nat) : Prog := smGet Prog.reset s.fe.progress n

/-- R210: update slot n; a record with TOTAL = 0 has DONE = 0. A change is due to the mirror (R211). -/
def setProg (n : Nat) (p : Prog) (s : State) : State :=
  let p := if p.total = 0 then { p with dn := 0, time := s.timebase } else { p with time := s.timebase }
  let s := s.modFe (fun f => { f with progress := smSet Prog.reset n p f.progress })
  if s.flag F.FE_PROG_MIRROR_EN n then s.modFe (fun f => { f with mirrorDue := smSet false n true f.mirrorDue }) else s

/-- PERCENT of a record (R210). -/
def Prog.percent (p : Prog) : Nat := if p.total = 0 then 100 else p.dn * 100 / p.total

/-- The 24 bytes of Table 9.17. -/
def progBytes (n : Nat) (p : Prog) : List Byte :=
  natLe 4 p.dn ++ natLe 4 p.total ++ natLe 1 p.percent ++ natLe 1 p.st ++ natLe 2 n ++ natLe 4 p.opref ++ natLe 8 p.time

/-! ## Error reports: R366, R371 -/

/-- The severity counter of an error. -/
def errCounter : Nat → Fld
  | 0 => F.DEV_ERR_CNT_CE | 1 => F.DEV_ERR_CNT_DEF | 2 => F.DEV_ERR_CNT_CON | _ => F.DEV_ERR_CNT_FAT

/-- PHASE of record `seq` in a ring of n records (Table 9.15). -/
def phaseOf (seq n : Nat) : Nat := if n = 0 then 1 else (seq / n % 2) ^^^ 1

/-- The 64 bytes of Table 18.4. -/
def errBytes (e : Err) (phase time : Nat) : List Byte :=
  natLe 1 (e.sev + 128 * phase) ++ natLe 1 (match e.ctx with | some c => c + 128 | none => 0) ++
  natLe 2 (e.kind + 16 * e.index) ++ natLe 2 e.code ++ natLe 2 0 ++ natLe 8 e.addr ++ natLe 8 time ++
  natLe 8 e.info ++ List.replicate 32 0

/-- R371: write the record of an error detected at timebase t to the host log if the log is in service and has room; of a unit's
corrected errors, if none was written within the last 1 ms. Whether the host accepts the write is free; after a failure none is
written until EN is. -/
def logError (t : Nat) (e : Err) (s : State) : State :=
  let u := e.kind * 4096 + e.index
  if e.sev = 0 && t + s.tbase < smGet 0 s.errAt u then s
  else if s.flag F.DEV_ERR_LOG_CTL_EN && !(s.flag F.DEV_ERR_LOG_STAT_FAIL) && !s.errStop then
    let n := 2 ^ s.fld F.DEV_ERR_LOG_CTL_LOG2N
    let f := s.fld F.DEV_ERR_LOG_STAT_TAIL
    if (f + 2 ^ 32 - s.fld F.DEV_ERR_LOG_HEAD_HEAD) % 2 ^ 32 < n then
      let (bad, s) := s.choose
      if bad then { s.setFld F.DEV_ERR_LOG_STAT_FAIL 0 1 with errStop := true }
      else
        let a := s.fld F.DEV_ERR_LOG_BASE_ADDR * 4096 + 64 * (f % n)
        let s := emit (.hostWrite 0 a (errBytes e (phaseOf f n) t) false) s
        let s := { s with errAt := if e.sev = 0 then smSet 0 u (t + s.tbase + 1000000) s.errAt else s.errAt }
        msix 0 1 (s.incWrap F.DEV_ERR_LOG_STAT_TAIL)
    else s.incSat F.DEV_ERR_LOG_STAT_LOST
  else s

/-- An error into a list in the order of R371: by instant, then unit kind and index, and of equals the one detected first. -/
def insertErr (x : Nat × Err) : List (Nat × Err) → List (Nat × Err)
  | [] => [x]
  | y :: l =>
    if x.1 < y.1 || (x.1 == y.1 && x.2.kind * 4096 + x.2.index < y.2.kind * 4096 + y.2.index) then x :: y :: l
    else y :: insertErr x l

/-- The log takes the errors of the command. -/
def flushErrs (s : State) : State :=
  if s.errs.isEmpty then s
  else (s.errs.foldl (fun l x => insertErr x l) []).foldl (fun s x => logError x.1 x.2 s) { s with errs := [] }

/-- Stands for the context of an agent that no context owns: an error charged to it ends no context, and its record
has CTXV = 0 (R368, Table 18.4). -/
def noCtx : Nat := 64

/-- The error as its record shows it: charged to a context of the device or to none. -/
def Err.charged (e : Err) : Err := { e with ctx := e.ctx.filter (· < noCtx) }

/-- R366, R371: count an error, leave it to the log, and note what it ends: a
contained error its context (R368), a fatal error the device (R369). Both take effect when the command ends. -/
def reportErr (e : Err) (s : State) : State :=
  let e := e.charged
  let s := s.incSat (errCounter e.sev)
  let s := trace 0x50 e.ctx 0 (e.sev + e.code * 65536) e.addr 0 s
  let t := s.timebase
  let s := { s with errs := s.errs ++ [(t, e)] }
  match e.sev with
  | 2 => match e.ctx with
    | some c => { s with kills := s.kills ++ [c] }
    | none => s
  | 3 => { s with fatals := s.fatals ++ [e.code] }
  | _ => s

/-- A deferred error of a class (Table 18.2). -/
def deferred (ctx : Option Nat) (kind index cls addr info : Nat) (s : State) : State :=
  reportErr ⟨1, ctx, kind, index, cls, addr, info⟩ s
def contained (ctx : Option Nat) (kind index cls addr info : Nat) (s : State) : State :=
  reportErr ⟨2, ctx, kind, index, cls, addr, info⟩ s
def corrected (ctx : Option Nat) (kind index cls addr : Nat) (s : State) : State :=
  reportErr ⟨0, ctx, kind, index, cls, addr, 0⟩ s
def fatal (kind index code addr : Nat) (s : State) : State :=
  reportErr ⟨3, none, kind, index, code, addr, 0⟩ s

/-- An event to be sent through management (R405), by number above and with its argument. -/
def report (code arg : Nat) (s : State) : State := { s with sec := { s.sec with events := s.sec.events ++ [(code, arg)] } }

/-- R341: raise a rate-outlier event: cause of Table 16.2, kind and index of the unit, shortfall in 0.1 %. -/
def outlier (cause kind index deficit : Nat) (s : State) : State :=
  let s := s.setFld F.PWR_EVT_OUTLIER 0 1
  let s := s.setReg .PWR_OUTLIER 0 (wN (cause + 8 * kind + 32 * index + 65536 * min deficit 255))
  report mgOutlier (cause + 8 * kind + 32 * index) s

def State.modD2d (s : State) (f : D2dSt → D2dSt) : State := { s with d2d := f s.d2d }
def State.modPwr (s : State) (f : PwrSt → PwrSt) : State := { s with pwr := f s.pwr }
def State.modSec (s : State) (f : SecSt → SecSt) : State := { s with sec := f s.sec }
/-- An exception of R331: power may fall at once, in this ms and as the next one sees it. -/
def mayFall (s : State) : State := s.modPwr (fun p => { p with msFree := 2 })

def State.modRst (s : State) (f : RstSt → RstSt) : State := { s with rst := f s.rst }

/-- Bytes of a save image's area (Table 7.23). -/
def imageSize : Nat := 0x628000

/-- Host ready (R361). -/
def ready (s : State) : Bool := s.flag F.DEV_BOOT_STAT_READY

/-! ## Ownership -/

/-- The context a core is assigned to (Table 7.19). -/
def coreCtx (s : State) (c : Nat) : Option Nat :=
  if s.flag F.CORE_OWNER_EN c then some (s.fld F.CORE_OWNER_CTX c) else none

/-- R192: context 0 is the PF; context n exists while VF n is enabled, and takes work and set-up unless it is leaving. -/
def ctxExists (s : State) (n : Nat) : Bool :=
  n == 0 || (s.fe.vfEnable && n ≤ s.fe.numVfs &&
    (match s.fe.vfGoing with | some (leave, _) => !(leave.contains n) | none => true))

/-- CORE_CTX_STAT.STATE values (Table 7.22). -/
def coreState (s : State) (c : Nat) : Nat := s.fld F.CORE_CTX_STAT_STATE c
def csIdle : Nat := 0
def csRunning : Nat := 1
def csSaving : Nat := 2
def csSaved : Nat := 3
def csRestoring : Nat := 4

/-- Whether the device is frozen (R372): DEV_FROST_STAT.STATE is not RUN. -/
def frozen (s : State) : Bool := s.fld F.DEV_FROST_STAT_STATE != 0

/-- The time from which a timer that Frost stops counts, when it is set now: its entry into Frost while frozen. -/
def timerFrom (s : State) : Nat := if frozen s then s.frost.since else s.now

/-- Whether compute slot `sl` is held by Frost or waits for its Thaw wave (R373, R378). -/
def slotHeld (s : State) (sl : Nat) : Bool := frozen s || bitN s.frost.held sl

/-- The strict mode in force (R60, Table 3.16): a stored register field kept equal to STRICT or STRICT_AUTO. -/
def strictEff (s : State) : Bool := s.flag F.DEV_NUM_CTL_STRICT || s.flag F.DEV_NUM_CTL_STRICT_AUTO

end Sys2Proof.Machine
end

