-- ==== Sys2Proof/Machine/Mem.lean ====
section
/-! DEFINITION. Memory (chapter 08): the device-physical map (R170), partitions of the Vat (R165, R166), interleave
(R172, R173), reading and writing bytes with poison (R181), write combining (R176, R177), spans with undefined or zeroed
contents, and failing rows (R180, R182, R183). -/

namespace Sys2Proof.Machine

/-! ## The map: R170, Table 8.4 -/

def hbmEnd : Nat := 0xA000000000
def vatBase : Nat := 0xF000000000
def vatEnd : Nat := 0xF020000000
def spBase : Nat := 0xF800000000
def spSlot : Nat := 0x800000
def spSize : Nat := 0x600000
def sliceSize : Nat := 0x8000000
def mib : Nat := 0x100000

/-- The partitions of a Vat slice, from offset 0 upwards (R166). -/
inductive Part where
  | sync | scratch | col | link | membuf
deriving DecidableEq, Repr

/-- Where a device-physical address lies. -/
inductive Region where
  | hbm
  | vat (slice : Nat) (part : Part)
  | pad (core off : Nat)
  | unbacked
deriving DecidableEq, Repr

/-- R166: sizes in bytes of SYNC, COL, LINK and MEMBUF of slice b, from a VAT_PART value. -/
def partSizes (v : Nat) : Nat × Nat × Nat × Nat :=
  (bitsN v 0 8 * mib, bitsN v 8 8 * mib, bitsN v 16 8 * mib, bitsN v 24 8 * mib)

/-- The partition a slice offset lies in, under a VAT_PART value. -/
def partOf (v off : Nat) : Part :=
  let (sy, co, li, mb) := partSizes v
  if off < sy then .sync
  else if off < sliceSize - co - li - mb then .scratch
  else if off < sliceSize - li - mb then .col
  else if off < sliceSize - mb then .link else .membuf

def localIlv (s : State) : Bool := s.flag F.MEM_ILV_CTL_MODE

/-- R172, R173: whether an HBM address falls on reserved rows in a mode. -/
def hbmReserved (loc : Bool) (a : Nat) : Bool :=
  if loc then 0x2800000000 - 0xA00000 ≤ a % 0x2800000000 else 0x9FFD800000 ≤ a

/-- Table 8.4 with the partition map and interleave mode in force. -/
def region (s : State) (a : Nat) : Region :=
  if a < hbmEnd then (if hbmReserved (localIlv s) a then .unbacked else .hbm)
  else if vatBase ≤ a && a < vatEnd then
    let v := a - vatBase
    let b := v / sliceSize
    .vat b (partOf (s.reg .VAT_PART b).toNat (v % sliceSize))
  else if spBase ≤ a && a < spBase + 192 * spSlot then
    let c := (a - spBase) / spSlot
    let o := (a - spBase) % spSlot
    if o < spSize then .pad c o else .unbacked
  else .unbacked

def backed (s : State) (a : Nat) : Bool := region s a != .unbacked

/-- Backed HBM: R142, R225. -/
def inHbm (s : State) (a : Nat) : Bool := region s a == .hbm

/-- Every byte of [a, a + n) satisfies p; n is small (a word, a line, a block). -/
def allBytes (p : Nat → Bool) (a n : Nat) : Bool := (List.range n).all (fun i => p (a + i))

/-- First address after the region that holds a backed address (R167, R170). -/
def regionEnd (s : State) (a : Nat) : Nat :=
  if a < hbmEnd then
    (if localIlv s then (a / 0x2800000000 + 1) * 0x2800000000 - 0xA00000 else 0x9FFD800000)
  else if a < vatEnd then
    let v := a - vatBase
    let (sy, co, li, mb) := partSizes (s.reg .VAT_PART (v / sliceSize)).toNat
    vatBase + v / sliceSize * sliceSize +
      (match partOf (s.reg .VAT_PART (v / sliceSize)).toNat (v % sliceSize) with
        | .sync => sy | .scratch => sliceSize - co - li - mb | .col => sliceSize - li - mb | .link => sliceSize - mb
        | .membuf => sliceSize)
  else (a - spBase) / spSlot * spSlot + spBase + spSize

/-- Both ends of a range lie in backed HBM and no hole lies between them for ranges below 10 MiB. -/
def rangeHbm (s : State) (a n : Nat) : Bool := n == 0 || (inHbm s a && inHbm s (a + n - 1))

/-- Device-physical address of a scratchpad byte. -/
def padAddr (core off : Nat) : Nat := spBase + core * spSlot + off

/-! ## Interleave -/

/-- R172, R173: the channel that serves an HBM address, and its offset there. -/
def hbmChan (loc : Bool) (a : Nat) : Nat × Nat :=
  if loc then
    let b := a / 0x2800000000
    let a' := a % 0x2800000000
    (160 * b + (a' / 256) % 160, (a' / 256) / 160 * 256 + a' % 256)
  else ((a / 256) % 640, (a / 256) / 640 * 256 + a % 256)

/-- The HBM address served at an offset of a channel. -/
def chanAddr (loc : Bool) (ch off : Nat) : Nat :=
  if loc then ch / 160 * 0x2800000000 + ((off / 256 * 160 + ch % 160) * 256 + off % 256)
  else (off / 256 * 640 + ch) * 256 + off % 256

/-! ## Memory that is held -/

/-- The row of a channel offset: 1 KiB (DESIGN CHOICE: rows follow the channel offset; the spec gives no bank map). -/
def rowOf (off : Nat) : Nat := off / 1024

/-- First and last offset of a partition in its slice, under a VAT_PART value. -/
def partRange (v : Nat) (p : Part) : Nat × Nat :=
  let (sy, co, li, mb) := partSizes v
  match p with
  | .sync => (0, sy)
  | .scratch => (sy, sliceSize - co - li - mb)
  | .col => (sliceSize - co - li - mb, sliceSize - li - mb)
  | .link => (sliceSize - li - mb, sliceSize - mb)
  | .membuf => (sliceSize - mb, sliceSize)

/-- Whether the range of a partition differs between two states. -/
def partMoves (s t : State) (b : Nat) (p : Part) : Bool :=
  partRange (s.reg .VAT_PART b).toNat p != partRange (t.reg .VAT_PART b).toNat p

/-- Whether a commit in progress moves a partition: new requests that need it are held (R168). -/
def partHeld (s : State) (b : Nat) (p : Part) : Bool :=
  s.fld F.TXN_STAT_STATE == 2 &&
    partRange (s.reg .VAT_PART b).toNat p != partRange (smGet (s.reg .VAT_PART b) s.txn.shadows (regKey .VAT_PART b)).toNat p

/-- Whether any memory at all may be held. -/
def anyHold (s : State) : Bool :=
  s.mem.selfRefresh || !s.mem.remapping.isEmpty || s.mem.tg.isSome || s.fld F.TXN_STAT_STATE == 2

/-- Whether HBM does not serve an address: in self-refresh (R356), in a row being copied (R183), on a channel under test
(R190). -/
def notServed (s : State) (a : Nat) : Bool :=
  let (ch, off) := hbmChan (localIlv s) a
  a < hbmEnd && (s.mem.selfRefresh || s.mem.remapping.contains (ch, rowOf off) ||
    (match s.mem.tg with | some t => t.ch == ch | none => false))

/-- Whether a commit in progress changes the interleave: new requests to HBM are held (R174, R417). -/
def ilvHeld (s : State) : Bool :=
  s.fld F.TXN_STAT_STATE == 2 &&
    bitN (smGet (s.reg .MEM_ILV_CTL 0) s.txn.shadows (regKey .MEM_ILV_CTL 0)).toNat 0 != localIlv s

/-- Whether a new request for an address waits at its source for a commit that moves a partition it needs (R168) or changes the
interleave (R174). -/
def movesAt (s : State) (a : Nat) : Bool :=
  match region s a with
  | .hbm => ilvHeld s || partHeld s ((hbmChan (localIlv s) a).1 / 160) .membuf
  | .vat b p => partHeld s b p
  | _ => false

/-- Whether an access to an address is held. -/
def heldAt (s : State) (a : Nat) : Bool := notServed s a || movesAt s a

/-- Whether any byte of [a, a + n) is held: lines are held whole. -/
def heldRange (s : State) (a n : Nat) : Bool :=
  anyHold s && (List.range ((a % 64 + n + 63) / 64)).any (fun i => heldAt s (64 * (a / 64 + i)))

/-! ## Accesses made -/

/-- Bits of the slice and of the stack that serve an address (Table 19.3). -/
def touchBits (s : State) (a : Nat) : List Nat :=
  match region s a with
  | .hbm => let ch := (hbmChan (localIlv s) a).1; [ch / 160, 4 + ch / 32]
  | .vat b _ => [b]
  | _ => []

/-- Note that memory at an address is accessed, for the counters whose amounts the spec leaves open (R380). -/
def touch (a : Nat) (s : State) : State :=
  (touchBits s a).foldl (fun s b =>
    if s.dbg.off || bitN s.dbg.touched b then s else s.modDbg (fun d => { d with touched := d.touched + 2 ^ b })) s

/-- Note the accesses to [a, a + n): 640 blocks of 256 bytes in a row reach every stack that serves the range. -/
def touchRange (a n : Nat) (s : State) : State :=
  (List.range (min ((a % 256 + n + 255) / 256) 640)).foldl (fun s i => touch (a + 256 * i) s) s

/-- The running command needs [a, a + n): if that is held, it waits. -/
def needs (a n : Nat) (s : State) : State := if heldRange s a n then { s with stall := true } else touchRange a n s

/-! ## Bytes -/

/-- What an unlisted byte reads as: zero, or a free value inside a span left undefined (newest span first). -/
def unlisted : List Span → Nat → Byte
  | [], _ => 0
  | sp :: l, a => if sp.lo ≤ a && a < sp.hi then (if sp.seed = 0 then 0 else Config.freeByte sp.seed a) else unlisted l a

def memGet (m : MemSt) (a : Nat) : Byte := smGet (unlisted m.spans a) m.cells a

/-- Write one byte, keeping the canonical form. -/
def memPut (m : MemSt) (a : Nat) (b : Byte) : MemSt :=
  { m with cells := smSet (unlisted m.spans a) a b m.cells }

def memPuts (m : MemSt) (a : Nat) : List Byte → MemSt
  | [] => m
  | b :: l => memPuts (memPut m a b) (a + 1) l

/-- The canonical form of memory: addresses strictly rising and no cell equal to what its address reads as unlisted. -/
def Memory.wf (m : MemSt) : Bool := smSorted m.cells && m.cells.all (fun c => c.2 != unlisted m.spans c.1)

/-- Make [lo, hi) read as zero (seed 0) or as undefined bytes (seed > 0). -/
def memSpan (m : MemSt) (lo hi seed : Nat) : MemSt :=
  let keep := m.spans.filter (fun sp => !(lo ≤ sp.lo && sp.hi ≤ hi))
  let clash := keep.any (fun sp => sp.lo < hi && lo < sp.hi)
  { m with
    cells := m.cells.filter (fun c => !(lo ≤ c.1 && c.1 < hi))
    spans := if seed = 0 && !clash then keep else ⟨lo, hi, seed⟩ :: keep
    poison := m.poison.filter (fun p => !(lo ≤ p.1 && p.1 < hi)) }

def zeroSpan (lo hi : Nat) (s : State) : State := if lo < hi then s.modMem (fun m => memSpan m lo hi 0) else s

/-- Undefined contents: a new seed from the free counter. -/
def undefSpan (lo hi : Nat) (s : State) : State :=
  let (n, s) := s.fresh
  if lo < hi then s.modMem (fun m => memSpan m lo hi (n + 1)) else s

def rd8 (s : State) (a : Nat) : Byte := memGet s.mem a

/-- Read n bytes. -/
def rdBytes (s : State) (a n : Nat) : List Byte := (List.range n).map (fun i => rd8 s (a + i))

def rdNat (s : State) (a n : Nat) : Nat := leNat (rdBytes s a n)
def rd64 (s : State) (a : Nat) : Word := wN (rdNat s a 8)

/-! ## Poison: R181, Table 18.2, R370 -/

/-- The protected granule of an address: its first byte and length. HBM lines and Vat quarters are 64 bytes, scratchpad
words and sync words 8. -/
def granule (s : State) (a : Nat) : Nat × Nat :=
  match region s a with
  | .pad _ _ => (a / 8 * 8, 8)
  | .vat _ .sync => (a / 8 * 8, 8)
  | _ => (a / 64 * 64, 64)

def poisonAt (s : State) (a : Nat) : Bool := smGet false s.mem.poison (granule s a).1

/-- Whether any byte of [a, a + n) is poisoned. -/
def poisoned (s : State) (a n : Nat) : Bool := (List.range n).any (fun i => poisonAt s (a + i))

def setPoison (g : Nat) (b : Bool) (s : State) : State :=
  s.modMem (fun m => { m with poison := smSet false g b m.poison })

/-- The class of an address for error reports: 1 scratchpad, 2 Vat, 3 HBM (Table 18.2). -/
def storeClass (s : State) (a : Nat) : Nat :=
  match region s a with | .pad _ _ => 1 | .vat _ _ => 2 | _ => 3

/-- Unit kind and index of an address for error reports (Table 18.4). -/
def storeUnit (s : State) (a : Nat) : Nat × Nat :=
  match region s a with
  | .pad c _ => (0, c)
  | .vat b _ => (1, b)
  | _ => (2, (hbmChan (localIlv s) a).1)

/-- R181: report one consumption of poisoned data against a context, as a deferred error of the store's class. -/
def consumed (ctx : Option Nat) (a : Nat) (s : State) : State :=
  let (k, i) := storeUnit s a
  deferred ctx k i (storeClass s a) a 0 s

/-- The first poisoned address in a range. -/
def firstPoison (s : State) (a n : Nat) : Nat := ((List.range n).find? (fun i => poisonAt s (a + i))).getD 0 + a

/-! ## Write combining: R176, R177, Table 8.7 -/

def wcbOf (s : State) (ch : Nat) : List WcbEntry := smGet [] s.mem.wcb ch
def setWcb (ch : Nat) (l : List WcbEntry) (s : State) : State :=
  s.modMem (fun m => { m with wcb := smSet [] ch l m.wcb })

def allOnes64 : BitVec 64 := BitVec.allOnes 64

/-- Bytes [off, off + n) of a line as valid bits. -/
def byteMask (off n : Nat) : BitVec 64 := BitVec.ofNat 64 ((2 ^ n - 1) * 2 ^ off)

/-- Write an entry to its line. Values do not change (R177); a plain line write of good data clears the line's poison,
a read-modify-write leaves it (R181). -/
def flushLine (e : WcbEntry) (s : State) : State :=
  let s := count 192 (24 + (hbmChan (localIlv s) (e.line * 64)).1 / 32) 1 s
  if e.valid = allOnes64 && !e.poi then setPoison (e.line * 64) false s else s

/-- Flush the first entry of a channel for which p holds. -/
def flushFirst (ch : Nat) (p : WcbEntry → Bool) (s : State) : State :=
  match (wcbOf s ch).find? p with
  | none => s
  | some e => flushLine e (setWcb ch ((wcbOf s ch).erase e) s)

/-- Flush oldest entries until at most n are left. -/
def flushTo (n : Nat) : Nat → Nat → State → State
  | 0, _, s => s
  | k + 1, ch, s => if n < (wcbOf s ch).length then flushTo n k ch (flushFirst ch (fun _ => true) s) else s

/-- Flush every entry of the channels in a list. -/
def flushChans (chs : List Nat) (s : State) : State :=
  chs.foldl (fun s ch => flushTo 0 (wcbOf s ch).length ch s) s

/-- Flush every entry of every channel. -/
def flushAll (s : State) : State := flushChans (s.mem.wcb.map (·.1)) s

/-- Flush the channel's entry for the line of an address, if there is one. -/
def flushAt (a : Nat) (s : State) : State := flushFirst (hbmChan (localIlv s) a).1 (fun e => e.line == a / 64) s

/-- R176: the channel's buffer accepts a write of n bytes at offset off of a line. -/
def wcbAccept (a n : Nat) (poison : Bool) (s : State) : State :=
  let line := a / 64
  let ch := (hbmChan (localIlv s) a).1
  let l := wcbOf s ch
  let m := byteMask (a % 64) n
  let full := n = 64
  match l.find? (fun e => e.line == line) with
  | some e =>
    let e' : WcbEntry := { e with valid := e.valid ||| m, poi := if full then poison else e.poi || poison }
    if e'.valid = allOnes64 then flushLine e' (setWcb ch (l.erase e) s)
    else setWcb ch (l.map (fun x => if x == e then e' else x)) s
  | none =>
    let e : WcbEntry := ⟨line, m, s.now, poison, false⟩
    -- a write that meets 256 entries in use waits for the oldest to be flushed
    let s := flushTo 255 1 ch s
    if m = allOnes64 then flushLine e s
    else
      let s := setWcb ch (wcbOf s ch ++ [e]) s
      flushTo (s.fld F.MEM_WCB_CTL_HWM) 256 ch s

/-! ## Writes -/

/-- Write bytes that lie in one granule. -/
def putChunk (a : Nat) (bs : List Byte) (poison : Bool) (s : State) : State :=
  let (g, len) := granule s a
  let s := touch a (s.modMem (fun m => memPuts m a bs))
  let s := if poison then setPoison g true s else s
  match region s a with
  | .hbm => wcbAccept a bs.length poison s
  | _ => if !poison && bs.length = len then setPoison g false s else s

/-- Cut a write into the granules it touches, lowest first. -/
def putChunks : Nat → Nat → List Byte → Bool → State → State
  | 0, _, _, _, s => s
  | k + 1, a, bs, poison, s =>
    match bs with
    | [] => s
    | _ =>
      let (g, len) := granule s a
      let n := g + len - a
      putChunks k (a + n) (bs.drop n) poison (putChunk a (bs.take n) poison s)

/-- Write bytes at a device-physical address, with poison if the data is poisoned; a write of no byte does nothing. -/
def putBytes (a : Nat) (bs : List Byte) (poison : Bool) (s : State) : State := putChunks bs.length a bs poison s

def put64 (a : Nat) (w : Word) (s : State) : State := putBytes a (natLe 8 w.toNat) false s

/-! ## Failing rows: R182, R183 -/

/-- R182: start a remap of a row, unless remapping is off, the row has its entry already, or the table is full. -/
def startRemap (ch row : Nat) (s : State) : State :=
  if !(s.flag F.MEM_REMAP_CTL_AUTO) then s
  else if s.mem.remapping.contains (ch, row) || (smGet [] s.mem.remapped ch).contains row then s
  else if 64 ≤ (smGet [] s.mem.remapped ch).length then s.setFld F.MEM_CH_STAT_REMAP_FULL ch 1
  else s.modMem (fun m => { m with remapping := m.remapping ++ [(ch, row)] })

/-- R182: advance a row's count; a full tracker gives up its lowest row. -/
def trackRow (ch row : Nat) (s : State) : State :=
  let t := smGet [] s.mem.tracker ch
  let t' : List (Nat × Nat) :=
    match t.find? (fun e => e.1 == row) with
    | some (_, n) => t.map (fun e => if e.1 == row then (row, n + 1) else e)
    | none =>
      if t.length < 32 then t ++ [(row, 1)]
      else
        let low := t.foldl (fun b e => if e.2 < b.2 then e else b) (t.headD (0, 0))
        (t.erase low) ++ [(row, 1)]
  let s := s.modMem (fun m => { m with tracker := smSet [] ch t' m.tracker })
  let n := ((t'.find? (fun e => e.1 == row)).map (·.2)).getD 0
  if s.fld F.MEM_REMAP_CTL_CE_THRESH ≤ n then startRemap ch row s else s

/-- R179: what the controller's code makes of what comes back: errors of up to 3 symbols are corrected; 4 or 5, a line of
another address and a failed command are detected. -/
def lineOutcome (found : LineIn) : LineOutcome :=
  if found.wrong || found.parity || 3 < found.bad.val then .uncorrectable
  else if 0 < found.bad.val then .corrected
  else if found.dieCe then .dieCorrected else .clean

/-- Table 8.9: the controller reads the line at an HBM address. `ctx` is charged with a consumption of poison, and a
scrub consumes nothing. -/
def lineRead (a : Nat) (found : LineIn) (scrub : Bool) (s : State) : State :=
  let (ch, off) := hbmChan (localIlv s) a
  let line := a / 64
  let s := count 192 (4 + ch / 32) 1 s
  let s := if scrub then s else s.modMem (fun m => { m with msb := if m.msb.contains line then m.msb else line :: m.msb })
  if smGet false s.mem.poison (line * 64) then (if scrub then s else consumed none (line * 64) s)
  else match lineOutcome found with
  | .clean => s
  | .dieCorrected => corrected none 2 ch 3 (line * 64) (s.incSat F.MEM_CH_STAT_DIE_CE ch)
  | .corrected =>
    trackRow ch (rowOf off) (corrected none 2 ch 3 (line * 64) (s.incSat F.MEM_CH_STAT_CE ch))
  | .uncorrectable =>
    let s := setPoison (line * 64) true (s.incSat F.MEM_CH_STAT_UE ch)
    startRemap ch (rowOf off) (deferred none 2 ch 3 (line * 64) 0 s)

end Sys2Proof.Machine
end

