-- ==== Sys2Proof/Machine/Fault.lean ====
section
/-! DEFINITION. Rings (chapter 09): descriptors and their fields (Tables 9.11 to 9.13), ring faults and fault records
(R212, R217, R218). -/

namespace Sys2Proof.Machine

/-! ## Ring states and registers -/

def rsOff : Nat := 0
def rsIdle : Nat := 1
def rsActive : Nat := 2
def rsFaulted : Nat := 3
def rsAborting : Nat := 4

def ringCtx (s : State) (r : Nat) : Nat := if r = 0 then 0 else s.fld F.FE_RING_CTL_CTX r
def ringN (s : State) (r : Nat) : Nat := 2 ^ s.fld F.FE_RING_CTL_LOG2N r
def ringHdr (s : State) (r : Nat) : Nat := s.fld F.FE_RING_HDR_ADDR r * 64
def ringBase (s : State) (r : Nat) : Nat := s.fld F.FE_RING_BASE_ADDR r * 64
def ringCq (s : State) (r : Nat) : Nat := s.fld F.FE_RING_CQ_ADDR r * 64

/-- A device write of a ring-header field (Table 9.5), if the host accepts it. -/
def hdrWrite (r off : Nat) (v : Nat) (ok : Bool) (s : State) : State :=
  if ok then emit (.hostWrite (ringCtx s r) (ringHdr s r + off) (natLe 4 v) false) s else s

/-- A device access to a ring structure whose fate no operand of the row names: it may fail (R196). -/
def hdrTry (r off v : Nat) (s : State) : Bool × State :=
  let (bad, s) := s.choose
  (!bad, hdrWrite r off v (!bad) s)

/-! ## Descriptors: Tables 9.11 to 9.13 -/

def dOpcode (d : List Byte) : Nat := fieldLe d 0 1
def dFence (d : List Byte) : Bool := bitN (fieldLe d 0 4) 8
def dIrq (d : List Byte) : Bool := bitN (fieldLe d 0 4) 9
def dTag (d : List Byte) : Nat := fieldLe d 4 4

/-- Table 9.12: opcodes whose fence is implied. -/
def impliedFence (op : Nat) : Bool := op == 0x10 || op == 0x18 || op == 0x30 || op == 0x38

/-- R204: WAIT and EVENT_WAIT hold every later descriptor until they are released; a TASKQ_PUSH on a full queue holds
its ring at that descriptor (R161). -/
def holdsRing (d : DescSt) : Bool :=
  d.phase == .running && (dOpcode d.bytes == 0x11 || dOpcode d.bytes == 0x19 || (dOpcode d.bytes == 0x09 && d.outst == 0))

def RingSt.find (k : RingSt) (seq : Nat) : Option DescSt := k.descs.find? (fun d => d.seq == seq)
def modDesc (r seq : Nat) (f : DescSt → DescSt) (s : State) : State :=
  s.modRing r (fun k => { k with descs := k.descs.map (fun d => if d.seq == seq then f d else d) })

/-- Descriptors dispatched and without a record written (R204). -/
def inFlight (k : RingSt) : Nat := (k.descs.filter (fun d => d.phase != .fetched)).length
def parkedRecs (k : RingSt) : Nat := (k.descs.filter (fun d => d.parked)).length

/-- The descriptor that may be dispatched next: fences, holds, the limit of 64, and admission under Frost (R204, R373).
An ACTIVE ring only. -/
def nextDesc (s : State) (r : Nat) : Option DescSt :=
  let k := s.ring r
  if k.st != rsActive || frozen s || 64 ≤ inFlight k || k.descs.any holdsRing then none
  else match k.descs.find? (fun d => d.phase == .fetched) with
    | none => none
    | some d =>
      let fence := dFence d.bytes || impliedFence (dOpcode d.bytes)
      if fence && k.descs.any (fun e => e.phase == .running) then none else some d

/-- Dispatch a descriptor: it is started now. -/
def startDesc (r seq : Nat) (s : State) : State :=
  let t := s.now
  let op := match (s.ring r).find seq with | some d => dOpcode d.bytes | none => 0
  count 192 76 1 (trace 0x10 (some (ringCtx s r)) r op seq 0
    (modDesc r seq (fun d => { d with phase := .running, started := t }) s))

/-! ## Fault records: R217, R218, Table 9.20 -/

/-- Busy front-end DMA engines: those the running descriptors hold. -/
def busyEngines (s : State) : Nat :=
  s.fe.rings.foldl (fun v kv => kv.2.descs.foldl
    (fun v d => if d.phase == .running && d.engine < 64 then v ||| 2 ^ d.engine else v) v) 0

def faultBytes (s : State) (r cause status seq faddr : Nat) (ringflt : Bool) (info : Nat) (desc : List Byte) : List Byte :=
  let k := s.ring r
  let f := s.fld F.FE_FLT_STAT_TAIL
  let n := 2 ^ s.fld F.FE_FLT_CTL_LOG2N
  natLe 4 (cause + 16 * r + 65536 * ringCtx s r + (if ringflt then 2 ^ 22 else 0) + 2 ^ 31 * phaseOf f n) ++
  natLe 1 status ++ natLe 3 0 ++ natLe 4 seq ++ natLe 4 k.head ++
  natLe 8 (ringBase s r + 64 * (seq % ringN s r)) ++ natLe 8 faddr ++ natLe 8 s.timebase ++ natLe 8 info ++
  slice desc 0 64 ++ natLe 4 (inFlight k + 128 * parkedRecs k) ++ natLe 4 k.tail ++ natLe 8 (busyEngines s)

/-- The fault log fails: FAIL is set, and the log stops until its EN is written again (R218). -/
def stopLog (s : State) : State := (s.setFld F.FE_FLT_STAT_FAIL 0 1).modFe (fun f => { f with fltStop := true })

/-- R217, R218: form a fault record, then send PF vector 0. FLT_HEAD is read again if the log looks full; what the host
answers, and whether it accepts the record, is free. -/
def faultRecord (r cause status seq faddr : Nat) (ringflt : Bool) (info : Nat) (desc : List Byte) (s : State) : State :=
  let drop (s : State) : State := msix 0 0 (s.incSat F.FE_FLT_STAT_LOST)
  if !(s.flag F.FE_FLT_CTL_EN) || s.flag F.FE_FLT_STAT_FAIL || s.fe.fltStop then drop s
  else
    let n := 2 ^ s.fld F.FE_FLT_CTL_LOG2N
    let f := s.fld F.FE_FLT_STAT_TAIL
    let room (h : Nat) : Bool := (f + 2 ^ 32 - h) % 2 ^ 32 < n
    let (bad1, s) : Bool × State :=
      if room s.fe.fltHead then (false, s)
      else
        let (bad, s) := s.choose
        if bad then (true, s)
        else
          let (i, s) := s.fresh
          (false, s.modFe (fun fe => { fe with fltHead := Config.freeNat i % 2 ^ 32 }))
    if bad1 then drop (stopLog s)
    else if !(room s.fe.fltHead) then drop s
    else
      let (bad2, s) := s.choose
      if bad2 then drop (stopLog s)
      else
        let a := s.fld F.FE_FLT_BASE_ADDR * 4096 + 128 * (f % n)
        let s := emit (.hostWrite 0 a (faultBytes s r cause status seq faddr ringflt info desc) false) s
        msix 0 0 (s.incWrap F.FE_FLT_STAT_TAIL)

/-- R212: the ring enters FAULTED, its header says so if it can be written, and a fault record is formed. Without `hdrOk`
the header has just refused a write; otherwise whether it takes these is free. -/
def ringFault (r cause status seq faddr info : Nat) (desc : List Byte) (hdrOk : Bool) (s : State) : State :=
  let s := s.modRing r (fun k => { k with
    st := rsFaulted, cause := cause, faultSeq := seq, tailOut := false, tailMore := 0, arming := false
    descs := k.descs.map (fun d => { d with parked := d.parked || d.phase == .done }) })
  let s := if hdrOk then (hdrTry r 0x10 rsFaulted (hdrTry r 0x14 seq s).2).2 else s
  faultRecord r cause status seq faddr true info desc s

/-! ## Completion: R205 -/

/-- A descriptor is complete: a status other than OK forms a fault record and, with STOP_ON_ERR, faults the ring (R212,
R217). -/
def closeDesc (r seq status : Nat) (value : Word) (faddr : Nat) (s : State) : State :=
  match (s.ring r).find seq with
  | none => s
  | some d =>
    let t := s.timebase
    let s := trace 0x11 (some (ringCtx s r)) r status seq (dTag d.bytes) s
    let s := modDesc r seq (fun d => { d with phase := .done, status := status, value := value, time := t,
                                              flt := status != 0 || d.flt, faddr := faddr,
                                              parked := d.parked || (s.ring r).st == rsFaulted }) s
    if status = 0 then s
    else if s.flag F.FE_RING_CTL_STOP_ON_ERR r && (s.ring r).st = rsActive then
      ringFault r 5 status seq faddr 0 d.bytes true s
    else faultRecord r 5 status seq faddr false 0 d.bytes s

end Sys2Proof.Machine
end

