-- ==== Sys2Proof/Machine/Sync.lean ====
section
/-! DEFINITION. Sync words (chapter 10): where words lie (R220), translation of identifiers (R224, R225), the one
arbitration every change goes through (R227 to R229) with the task-queue grants it carries (R160), and the write that
every agent uses, which arbitrates the words of enabled sync regions (R222). -/

namespace Sys2Proof.Machine

/-! ## Words -/

def syncRegionOff : Nat := 0x5FC000

/-- Whether a core's sync region is in force (Table 10.2); a core in reset has none (R355). -/
def syncRegionOn (s : State) (c : Nat) : Bool := s.flag F.CORE_SYNC_CTL_EN c && !(s.core c).inReset

/-- R220: the address of a physical word number, if the number is backed. -/
def pwordAddr (s : State) (p : Nat) : Option Nat :=
  if bitN p 19 then
    let c := bitsN p 11 8
    if c < 192 && syncRegionOn s c then some (padAddr c (syncRegionOff + 8 * bitsN p 0 11)) else none
  else some (vatBase + bitsN p 17 2 * sliceSize + 8 * bitsN p 0 17)

/-- The physical word number of a word address; task-queue words have none (R221) and read as 2^20. -/
def addrPword (s : State) (a : Nat) : Nat :=
  match region s a with
  | .pad c o => 0x80000 + c * 2048 + (o - syncRegionOff) / 8
  | .vat b _ => let o := (a - vatBase) % sliceSize; if o < mib then b * 131072 + o / 8 else 1048576
  | _ => 1048576

/-- The compute core whose enabled sync region holds an address. -/
def inSyncRegion (s : State) (a : Nat) : Bool :=
  match region s a with
  | .pad c o => syncRegionOff ≤ o && syncRegionOn s c
  | _ => false

/-- Words of enabled sync regions that a write of n bytes touches (R222). -/
def touchedWords (s : State) (a n : Nat) : List Nat :=
  if n = 0 then []
  else (List.range ((a + n - 1) / 8 - a / 8 + 1)).filterMap
    (fun i => let w := (a / 8 + i) * 8; if inSyncRegion s w then some w else none)

/-! ## Waits -/

/-- R229: waiter ranks. Ring waits are ordered by ring, TASKQ_PUSH waits after them by queue and, on one queue, by ring; a
collective's own wait comes last (DESIGN CHOICE: the spec gives it no rank). -/
def Waiter.rank : Waiter → Nat
  | .core c _ => c
  | .tqPop c _ _ _ => c
  | .tqPush c _ _ _ _ => c
  | .ring r _ => 192 + r
  | .tqRing r _ q _ _ => 192 + 4096 + q * 4096 + r
  | .group g _ => 2 ^ 40 + g

/-- Insert an older wait by rank, before waits of the same rank. -/
def insertWait (w : Wait) : List Wait → List Wait
  | [] => [w]
  | x :: l => if w.who.rank ≤ x.who.rank then w :: x :: l else x :: insertWait w l

def sortWaits : List Wait → List Wait
  | [] => []
  | x :: l => insertWait x (sortWaits l)

/-- Visit take-waits in rank order: the word left, the waits released, the waits kept. -/
def visitTakes : List Wait → Nat → Nat × List Wait × List Wait
  | [], v => (v, [], [])
  | w :: l, v =>
    if w.thr.toNat ≤ v then
      let (v', rel, kept) := visitTakes l (v - w.thr.toNat)
      (v', w :: rel, kept)
    else
      let (v', rel, kept) := visitTakes l v
      (v', rel, w :: kept)

/-! ## Writes that other agents see -/

/-- A write by another agent ends the reservation a core's LR holds on the same 64-byte block (RISC-V A extension). -/
def clearResv (writer : Option Nat) (a n : Nat) (s : State) : State :=
  s.cores.foldl (fun s kv =>
    match kv.2.resv with
    | some r =>
      if some kv.1 != writer && r / 64 ≤ (a + n - 1) / 64 && a / 64 ≤ r / 64 then
        s.modCore kv.1 (fun k => { k with resv := none })
      else s
    | none => s) s

/-- A write by an agent other than a control processor's own store: it ends reservations on what it touches. -/
def putShared (a : Nat) (bs : List Byte) (poison : Bool) (s : State) : State :=
  clearResv none a bs.length (putBytes a bs poison s)

/-- A word written so. -/
def putWord (a : Nat) (w : Word) (s : State) : State := putShared a (natLe 8 w.toNat) false s

/-! ## Releases -/

/-- The collective of a core's context that will signal a word: its group and operation number (Table 14.6). -/
def colOf (s : State) (c addr : Nat) : Option (Nat × Nat) :=
  let mine := s.col.filter (fun kv => coreCtx s c == some (s.fld F.COL_GRP_CTL_CTX kv.1))
  (mine.filterMap (fun kv => (kv.2.ops.find? (fun o => o.sig.any (fun g => g.1 == addr))).map (fun o => (kv.1, o.seq)))).head?

/-- FREE of a group's RINGPASS has reached a threshold (R296). -/
def freeReached (g t : Nat) (s : State) : State :=
  let k := smGet ColGrp.reset s.col g
  let k := { k with ops := match k.ops with | o :: l => { o with freeTo := max o.freeTo t } :: l | [] => [] }
  { s with col := smSet ColGrp.reset g k s.col }

/-- KIND and TARGET of a parked wait (Table 19.7): COLL is for the SWAIT of a core. -/
def waitDesc (s : State) (w : Wait) : Nat × Nat :=
  match w.who with
  | .tqPop _ _ q _ => (5, q)
  | .tqPush _ _ q _ _ => (1, q + 2 ^ 55)
  | .core c _ => (match colOf s c w.addr with
    | some (g, n) => (2, g + n * 4096)
    | none => (1, addrPword s w.addr))
  | _ => (1, addrPword s w.addr)

/-- Whether a parked wait belongs to a core. -/
def Waiter.isCore (c : Nat) : Waiter → Bool
  | .core k _ => k == c
  | .tqPop k _ _ _ => k == c
  | .tqPush k _ _ _ _ => k == c
  | _ => false

def wkRUN : Nat := 0
def wkDEBUG : Nat := 6
def wkIDLE : Nat := 7

/-- KIND, TAKE and TARGET of a core (Table 19.7). One whose wait has been released and whose instruction has still to retire shows
the wait (R389). -/
def coreWait (s : State) (c : Nat) : Nat × Bool × Nat :=
  let k := s.core c
  if s.flag F.CORE_DBG_CTL_HALT c then (wkDEBUG, false, 0)
  else if !k.launched then (wkIDLE, false, 0)
  else if k.retire.isSome then k.shown
  else
    match k.park with
    | some (.twait q _ t) => (if q < 2 then 4 else 3, false, q + t.toNat % 2 ^ 32 * 4)
    | _ =>
      match s.sync.waits.find? (fun w => w.who.isCore c) with
      | some w => let (a, b) := waitDesc s w; (a, w.take, b)
      | none => (wkRUN, false, 0)

/-- CORE_WAIT_SINCE is rewritten if the core's state is not what it was (R389). -/
def stampWait (old : Nat × Bool × Nat) (c : Nat) (s : State) : State :=
  if coreWait s c = old then s else s.modCore c (fun k => { k with waitSince := s.timebase })

/-- An instruction of a core completes: rd is written, pc moves past its 4 bytes (all custom instructions are R-type,
Table 7.7), instret counts it, and the park ends. -/
def retireCore (c rd : Nat) (v : Word) (s : State) : State :=
  let t := if s.flag F.CORE_DBG_CTL_HALT c then (s.core c).waitSince else s.timebase
  s.modCore c (fun k =>
    { (k.setX rd v) with
      pc := k.pc + 4
      instret := k.instret + 1
      park := none
      retire := none
      waitSince := if k.park.isSome || k.retire.isSome then t else k.waitSince })

/-- Whether nothing holds back a released instruction of core c: its slot is not held (R373), and the wave of the Thaw it
waits for, if it waits for one, has begun (R235). -/
def mayRetire (s : State) (c id : Nat) : Bool :=
  !(slotHeld s (c / 16)) && (id == 0 || !(s.frost.thawing.any (fun t => t.id == id && smGet 0 t.waves (c / 16) != 0)))

/-- A released instruction retires at once, or later: after a Thaw release when the wave of its slot begins (R235), in
Frost when its slot resumes (R373). Until then it shows the wait `d` that it had. -/
def releaseCore (c rd : Nat) (v : Word) (defer : Bool) (d : Nat × Bool × Nat) (s : State) : State :=
  let id := if defer then s.frost.thaws else 0
  if mayRetire s c id then retireCore c rd v s
  else s.modCore c (fun k => { k with park := none, retire := some (rd, v, id), shown := d })

/-- Mark a descriptor of a ring complete with status OK (R205). -/
def ringDone (r seq : Nat) (value : Word) (s : State) : State := closeDesc r seq 0 value 0 s

/-- A signal to perform: signalling context, word address, amount, and whether a Thaw delays the releases. -/
structure Sig where
  ctx : Nat
  addr : Nat
  amt : Nat
  defer : Bool
deriving DecidableEq, Repr

def tqBase (s : State) (q : Nat) : Nat := s.fld F.FE_TQ_BASE_ADDR q * 64
def tqSize (s : State) (q : Nat) : Nat := 2 ^ s.fld F.FE_TQ_CTL_LOG2N q
def tqCtx (s : State) (q : Nat) : Nat := s.fld F.FE_TQ_CTL_CTX q
/-- Where entry `seq` of a task queue lies (R159). -/
def tqEntry (s : State) (q seq : Nat) : Nat := tqBase s q + 64 + 64 * (seq % tqSize s q)

/-- R160: the queue engine pushes an entry: its sequence number, the state, and the signal it makes. -/
def tqPut (q : Nat) (data : List Byte) (poison : Bool) (s : State) : Nat × State × List Sig :=
  let b := tqBase s q
  let n := rdNat s (b + 16) 8
  let s := putShared (tqEntry s q n) (slice data 0 64) poison s
  (n, putWord (b + 16) (wN (n + 1)) s, [⟨tqCtx s q, b, 1, false⟩])

/-- R160: the queue engine takes an entry into a core's scratchpad. Poison goes with it (Table 8.10). -/
def tqTake (q c dst : Nat) (s : State) : Nat × State × List Sig :=
  let b := tqBase s q
  let n := rdNat s (b + 24) 8
  let e := tqEntry s q n
  let p := poisoned s e 64
  let s := touch e (if p then consumed (some (tqCtx s q)) e s else s)
  let a := padAddr c dst
  let ws := touchedWords s a 64
  let s := putShared a (rdBytes s e 64) p s
  (n, putWord (b + 24) (wN (n + 1)) s, ws.map (fun w => ⟨tqCtx s q, w, 0, false⟩) ++ [⟨tqCtx s q, b + 8, 1, false⟩])

/-- What a released wait does, with the word left by the arbitration (R230), and the signals that follow. -/
def release (w : Wait) (v : Nat) (defer : Bool) (s : State) : State × List Sig :=
  let (kind, target) := waitDesc s w
  let note (c v : Nat) (s : State) : State := trace 4 (coreCtx s c) c kind target v s
  match w.who with
  | .core c rd => (releaseCore c rd (wN v) defer (kind, w.take, target) (note c v s), [])
  | .ring r seq => (ringDone r seq (wN v) s, [])
  | .tqPop c rd q dst =>
    let (n, s, l) := tqTake q c dst s
    (releaseCore c rd (wN n) false (kind, w.take, target) (note c n s), l)
  | .tqPush c rd q data p =>
    let (n, s, l) := tqPut q data p s
    (releaseCore c rd (wN n) false (kind, w.take, target) (note c n s), l)
  | .tqRing r seq q data p =>
    let (n, s, l) := tqPut q data p s
    let at_ := match (s.ring r).find seq with | some d => d.faddr | none => 0
    (closeDesc r seq (if p then 4 else 0) (wN n) at_ s, l)
  | .group g t => (freeReached g t s, [])

def releases : List Wait → Nat → Bool → State → State × List Sig
  | [], _, _, s => (s, [])
  | w :: l, v, defer, s =>
    let (s, a) := release w v defer s
    let (s, b) := releases l v defer s
    (s, a ++ b)

/-- R229: one arbitration on a word, after its change has been applied: look-waits against the present value, then
take-waits in rank order. -/
def arbitrate (addr : Nat) (defer : Bool) (s : State) : State × List Sig :=
  let v := (rd64 s addr).toNat
  let here := s.sync.waits.filter (fun w => w.addr == addr)
  let looks := here.filter (fun w => !w.take && w.thr.toNat ≤ v)
  let (v', taken, _) := visitTakes (sortWaits (here.filter (fun w => w.take))) v
  let gone := looks ++ taken
  if gone.isEmpty then (s, [])
  else
    let s := s.modSync (fun y => { y with waits := y.waits.filter (fun w => !(gone.contains w)) })
    let s := if v' = v then s else putWord addr (wN v') s
    releases gone v' defer s

/-- R227: add to a word, leaving it at 2^64 - 1 above that, with the report it calls for. -/
def applySignal (g : Sig) (s : State) : State :=
  if g.amt = 0 then s
  else
    let v := (rd64 s g.addr).toNat + g.amt
    if v < 2 ^ 64 then putWord g.addr (wN v) s
    else deferred (some g.ctx) 8 0 10 g.addr (addrPword s g.addr) (putWord g.addr (wN (2 ^ 64 - 1)) s)

/-- A signal of an amount, or the arbitration of one of amount zero, fails at a poisoned word (R370): nothing changes, and the
signal is a contained error of its context. A waiter on such a word is not granted. -/
def perform (g : Sig) (s : State) : State × List Sig :=
  let s := touch g.addr s
  if poisonAt s g.addr then
    (if g.amt = 0 then s else contained (some g.ctx) 8 0 13 g.addr (addrPword s g.addr) s, [])
  else arbitrate g.addr g.defer (applySignal g s)

/-- Perform signals in order, and the signals their releases make. Every further signal comes from a wait that leaves
the list, so the bound covers them all. -/
def signalLoop : Nat → List Sig → State → State
  | 0, _, s => s
  | _ + 1, [], s => s
  | k + 1, g :: l, s =>
    let (s, more) := perform g s
    signalLoop k (l ++ more) s

def signals (l : List Sig) (s : State) : State := signalLoop (l.length + 10 * s.sync.waits.length + 1) l s

/-- R227: one signal. -/
def signal (ctx addr amt : Nat) (s : State) : State := signals [⟨ctx, addr, amt, false⟩] s

/-- Park a wait: it takes part in the arbitration its own arrival starts (R229). -/
def parkWait (ctx : Nat) (w : Wait) (s : State) : State :=
  let (kind, target) := waitDesc s w
  let note (c : Nat) (s : State) : State :=
    trace 3 (coreCtx s c) c kind target w.thr.toNat (s.modCore c (fun k => { k with waitSince := s.timebase }))
  let s := match w.who with
    | .core c _ => note c s
    | .tqPop c _ _ _ => note c s
    | .tqPush c _ _ _ _ => note c s
    | _ => s
  signal ctx w.addr 0 (s.modSync (fun y => { y with waits := y.waits ++ [w] }))

def Waiter.isRing (r seq : Nat) : Waiter → Bool
  | .ring k q => k == r && q == seq
  | .tqRing k q _ _ _ => k == r && q == seq
  | _ => false

/-- Take every wait for which p holds off its word, with no effect (R145). -/
def dropWaits (p : Waiter → Bool) (s : State) : State :=
  s.modSync (fun y => { y with waits := y.waits.filter (fun w => !(p w.who)) })

/-! ## The write every agent uses -/

/-- Write bytes at a backed device-physical address for a context, and arbitrate each word of an enabled sync region it
touches, as a signal of amount zero does (R222). -/
def store (ctx : Nat) (a : Nat) (bs : List Byte) (poison : Bool) (s : State) : State :=
  if bs.isEmpty then s
  else
    let ws := touchedWords s a bs.length
    let s := putShared a bs poison s
    if ws.isEmpty then s else signals (ws.map (fun w => ⟨ctx, w, 0, false⟩)) s

/-! ## Identifiers: R224, R225 -/

/-- What an identifier names for an operation. -/
inductive SidRes where
  | no
  | word (addr : Nat)
  | barrier (i : Nat)
deriving DecidableEq, Repr

/-- The operations that name an identifier. -/
inductive SidOp where
  | coreSignal | signal | wait | remote
deriving DecidableEq, Repr

/-- R224, R225, R370: translate identifier `sid` of a context for an operation, with the reports a poisoned entry or a
poisoned word calls for. -/
def xlateSid (ctx sid : Nat) (op : SidOp) (s : State) : SidRes × State :=
  if !(s.flag F.SYNC_CTX_TBL_EN ctx) || s.fld F.SYNC_CTX_LIM_LIMIT ctx ≤ sid then (.no, s)
  else
    let a := s.fld F.SYNC_CTX_TBL_ADDR ctx * 4096 + 4 * sid
    if !(rangeHbm s a 4) then (.no, s)
    else
    let s := needs a 4 s
    if poisonAt s a then (.no, consumed (some ctx) a s)
    else
      let e := rdNat s a 4
      let t := bitsN e 20 2
      if bitsN e 24 8 != 0 then (.no, s)
      else if op == .wait && !(bitN e 23) then (.no, s)
      else if op == .remote && !(bitN e 22) then (.no, s)
      else if t = 1 then
        match pwordAddr s (bitsN e 0 20) with
        | none => (.no, s)
        | some w =>
          let s := needs w 8 s
          if poisonAt s w then (.no, contained (some ctx) 8 0 13 w (addrPword s w) s) else (.word w, s)
      else if t = 2 then
        let i := bitsN e 0 8
        if bitsN e 8 12 = 0 && op == .coreSignal && s.flag F.SYNC_BAR_CTL_EN i && s.fld F.SYNC_BAR_CTL_CTX i == ctx
        then (.barrier i, s) else (.no, s)
      else (.no, s)

/-- R226: a signal that a block or descriptor raises on the word its identifier was translated to: not performed if the
word has become unbacked or poisoned, which is a contained error of the context. -/
def raiseSig (ctx : Nat) (sig : Option (Nat × Word)) (s : State) : State :=
  match sig with
  | none => s
  | some (a, amt) =>
    let ok : Bool := match region s a with
      | .pad c _ => syncRegionOn s c
      | .vat _ .sync => true
      | _ => false
    if ok && !(poisonAt s a) then signal ctx a amt.toNat s
    else contained (some ctx) 8 0 13 a (addrPword s a) s

end Sys2Proof.Machine
end

