-- ==== Sys2Proof/Machine/Barrier.lean ====
section
/-! DEFINITION. Arrivals at barrier units (R233, step 1), shared by SIG and by the arrival event. -/

namespace Sys2Proof.Machine

/-- Whether a core is a member of barrier i (Table 10.10). -/
def barMember (s : State) (i core : Nat) : Bool := bitN (s.reg .SYNC_BAR_MASK (i * 3 + core / 64)).toNat (core % 64)

/-- n_d: masked cores on compute slot d. -/
def barSize (s : State) (i d : Nat) : Nat := ((List.range 16).filter (fun j => barMember s i (16 * d + j))).length

def barCtx (s : State) (i : Nat) : Nat := s.fld F.SYNC_BAR_CTL_CTX i

/-- R233: a core arrives `amount` times. Each full count of its slot is due to the base die as one contribution. -/
def barArrive (i core amount : Nat) (s : State) : State :=
  if !(s.flag F.SYNC_BAR_CTL_EN i) then s
  else if !(barMember s i core) then
    contained (some (barCtx s i)) 8 0 12 0 i (s.setFld F.SYNC_BAR_STAT_ERR i 1)
  else
    let d := core / 16
    let b := s.bar i
    let n := smGet 0 b.slot d + amount
    let k := barSize s i d
    s.setBar i { b with slot := smSet 0 d (n % k) b.slot, slotDue := smSet 0 d (smGet 0 b.slotDue d + n / k) b.slotDue }

end Sys2Proof.Machine
end

