-- ==== Sys2Proof/Machine/Crc.lean ====
section
/-! DEFINITION. The checks the links, the fabric and the collectives use: CRC-8 of block headers (Table 11.2), CRC-32C of
flits and packets (R244, R266), CRC-64 of Watermarks (R292). -/

namespace Sys2Proof.Machine

/-- One bit of a reflected CRC. -/
def crcBit (poly c : Nat) : Nat := if c % 2 = 1 then (c / 2) ^^^ poly else c / 2

def crcByte (poly c b : Nat) : Nat :=
  let p := crcBit poly
  p (p (p (p (p (p (p (p (c ^^^ b))))))))

/-- CRC-32C: polynomial 0x1EDC_6F41 reflected, initial value and final XOR all ones. -/
def crc32c (l : List Byte) : Nat := (l.foldl (fun c b => crcByte 0x82F63B78 c b.toNat) 0xFFFFFFFF) ^^^ 0xFFFFFFFF

/-- One bit of an unreflected CRC-8 with polynomial 0x07. -/
def crc8Bit (c : Nat) : Nat := if 0x80 ≤ c then (c * 2 % 256) ^^^ 0x07 else c * 2

/-- CRC-8 over bytes, initial value 0. -/
def crc8 (l : List Byte) : Nat :=
  l.foldl (fun c b =>
    let p := crc8Bit
    p (p (p (p (p (p (p (p (c ^^^ b.toNat))))))))) 0

/-- One bit of the unreflected CRC-64 of R291, polynomial 0x42F0_E1EB_A9EA_3693. -/
def crc64Bit (c : Nat) : Nat :=
  if 2 ^ 63 ≤ c then (c * 2 % 2 ^ 64) ^^^ 0x42F0E1EBA9EA3693 else c * 2

/-- Go on with a CRC-64 over bytes; a Watermark starts from 0 and has no final XOR. -/
def crc64 (c : Nat) (l : List Byte) : Nat :=
  l.foldl (fun c b =>
    let p := crc64Bit
    p (p (p (p (p (p (p (p (c ^^^ b.toNat * 2 ^ 56))))))))) c

end Sys2Proof.Machine
end

