-- ==== Sys2Proof/Machine/Time.lean ====
section
/-! DEFINITION. The passing of time: the clock in ns, and the counters of Table 19.2 that count ns (R380). -/

namespace Sys2Proof.Machine

/-- The counter of a core's bank that a nanosecond adds to, if any: halted, Frost, pacing, the cause of the parked
instruction. -/
def idleCounter (s : State) (c : Nat) (k : CoreSt) : Option Nat :=
  if s.flag F.CORE_DBG_CTL_HALT c then some 7
  else if slotHeld s (c / 16) then some 6
  else match k.park with
    | some (.twait q _ _) => if 2 ≤ q then some 2 else none
    | some (.swait _) =>
      match s.sync.waits.find? (fun w => w.who.isCore c) with
      | some w => if (waitDesc s w).1 = 2 then some 0 else some 1
      | none => some 1
    | some (.tq _ _ pop) => some (if pop then 3 else 1)
    | some _ => none
    | none =>
      -- R336: pacing holds the core's tokens
      if s.pwr.paced.contains c || s.pwr.isoHeld.contains c then
        let b := s.fld F.PWR_THR_STAT_BIND 0
        if b = 1 then some 4 else if b = 15 then none else some 5
      else none

/-- A stretch of n ns. -/
def passTime (n : Nat) (s : State) : State :=
  let s := s.cores.foldl (fun s kv =>
    if kv.2.launched then
      let s := count kv.1 8 n s
      match idleCounter s kv.1 kv.2 with
      | some i => count kv.1 i n s
      | none => s
    else s) s
  -- R330: each active throttle reason
  let s := (List.range 8).foldl (fun s k =>
    if bitN (s.fld F.PWR_THR_STAT_ACTIVE 0) k && !s.dbg.off then s.setReg .PWR_THR_NS k (s.reg .PWR_THR_NS k + wN n) else s) s
  { s with now := s.now + n }

/-- Time reaches t, if it has not yet. -/
def passTo (t : Nat) (s : State) : State := if s.now < t then passTime (t - s.now) s else s

end Sys2Proof.Machine
end

