-- ==== Sys2Proof/Machine/Otp.lean ====
section
/-! DEFINITION. The OTP array (R363 to R365, Tables 17.6 and 17.7): its bytes, records and which generation is valid, the
records in force, and the programming of a slot. -/

namespace Sys2Proof.Machine

/-- Base and size of an OTP record type (Table 17.6). -/
def otpBase : Nat → Nat
  | 1 => 0x000 | 2 => 0x080 | 3 => 0x2C0 | 4 => 0x4C0 | 5 => 0x540 | _ => 0x6E0
def otpSize : Nat → Nat
  | 1 => 0x20 | 2 => 0x90 | 3 => 0x80 | 4 => 0x20 | 5 => 0x68 | _ => 0x48

def otpSlot (t g : Nat) : Nat := otpBase t + g * otpSize t

/-- A byte of the array outside the factory's generation 0: one never programmed reads zero. -/
def otpCell (s : State) (n : Nat) : Byte := smGet 0 s.rst.otp n

/-- Header bits [31:0] of a record. -/
def otpHead (t g : Nat) : Nat := t + 16 * g + 0x100 + (otpSize t - 8) * 65536

/-- The 8 header bytes of a record with a full body. -/
def otpHeader (t g : Nat) (body : List Byte) : List Byte :=
  natLe 4 (otpHead t g) ++ natLe 4 (crc32c (natLe 4 (otpHead t g) ++ body))

/-- Body byte i that the factory programmed in generation 0: Table 17.6 gives the part digits and the stepping of a
VS-TRS-A640-L, Table 21.3 the PCI Revision ID (R1), and Config leaves the others open, but that the week of manufacture lies
in 1 to 53 (Table 21.3) and the serial number is not zero (Table 21.4). -/
def factoryByte (t i : Nat) : Byte :=
  if t = 1 && (i = 8 || i = 9) then 0
  else if t = 1 && (i = 10 || i = 11) then 0xB1
  else if t = 1 && i = 12 then BitVec.ofNat 8 (1 + (Config.factoryOtp 1 12).toNat % 53)
  else if t = 1 && i = 0 && (List.range 8).all (fun k => Config.factoryOtp 1 k == 0) then 1
  else Config.factoryOtp t i

def factoryBody (t : Nat) : List Byte := (List.range (otpSize t - 8)).map (factoryByte t)

/-- The bytes of a slot. -/
def otpBytes (s : State) (t g : Nat) : List Byte :=
  if g = 0 then otpHeader t 0 (factoryBody t) else (List.range (otpSize t)).map (fun i => otpCell s (otpSlot t g + i))

/-- Byte n of the array as it stands (OTP_RAW, R364). A factory slot that fails R363 holds bytes the model leaves open. -/
def otpRaw (s : State) (n : Nat) : Byte :=
  match [1, 2, 3, 4, 5, 6].find? (fun t => otpBase t ≤ n && n < otpBase t + otpSize t) with
  | none => otpCell s n
  | some t =>
    if bitN s.rst.gen0Bad t then Config.factoryOtp t (0x100 + (n - otpBase t)) else (otpBytes s t 0).getD (n - otpBase t) 0

/-- R363: whether a slot holds a valid record. The factory's slots are valid but for those marked. -/
def otpValid (s : State) (t g : Nat) : Bool :=
  if g = 0 then !(bitN s.rst.gen0Bad t)
  else
    let b := otpBytes s t g
    let h := fieldLe b 0 4
    let n := bitsN h 16 16
    bitsN h 0 4 = t && bitsN h 4 2 = g && n ≤ otpSize t - 8 &&
    crc32c (b.take 4 ++ slice b 8 n) = fieldLe b 4 4

/-- A slot that reads all zero is empty. -/
def otpEmpty (s : State) (t g : Nat) : Bool := g != 0 && (otpBytes s t g).all (· == 0)

/-- The newest valid generation of a type. -/
def otpNewest (s : State) (t : Nat) : Option Nat := [3, 2, 1, 0].find? (fun g => otpValid s t g)

/-! ## Records in force: OTP_GEN -/

def otpInForce (s : State) (t : Nat) : Option Nat :=
  let v := (s.reg .OTP_GEN 0).toNat
  if bitN v (4 * t - 2) then some (bitsN v (4 * t - 4) 2) else none

/-- Body byte i of the record in force; zero where none is. -/
def otpBody (s : State) (t i : Nat) : Nat :=
  match otpInForce s t with
  | none => 0
  | some 0 => (factoryByte t i).toNat
  | some g => (otpCell s (otpSlot t g + 8 + i)).toNat

/-- Little-endian body bytes [i, i + n) of the record in force. -/
def otpField (s : State) (t i n : Nat) : Nat :=
  leNat ((List.range n).map (fun j => BitVec.ofNat 8 (otpBody s t (i + j))))

/-- Factory replica rate of a die, in M steps/s (R340). -/
def factoryRate (s : State) (d : Nat) : Nat := otpField s 2 (96 + 2 * d) 2

/-! ## Programming -/

/-- Bytes go into the array from an address. A bit is never changed back to 0. -/
def burn : Nat → List Byte → State → State
  | _, [], s => s
  | a, b :: l, s => burn (a + 1) l (s.modRst (fun r => { r with otp := smSet 0 a (smGet 0 r.otp a ||| b) r.otp }))

/-- R365: a slot whose programming is interrupted is spent: its TYPE and GEN stand, and no valid record does. -/
def spendSlot (t g : Nat) (s : State) : State := burn (otpSlot t g) [BitVec.ofNat 8 (t + 16 * g)] s

def otpNONE : Nat := 0
def otpDONE : Nat := 1
def otpREFUSED : Nat := 2
def otpFULL : Nat := 3
def otpVERIFY : Nat := 4

/-- R364: the check of a request, for a requester that may program the types for which `may` holds. -/
def otpCheck (s : State) (may : Nat → Bool) (t g : Nat) (body : List Byte) : Nat :=
  if !(may t) || t = 0 || 6 < t then otpREFUSED
  else if [1, 2, 3].all (fun k => !(otpEmpty s t k)) then otpFULL
  else if g = 0 || !(otpEmpty s t g) || ((List.range (g - 1)).map (· + 1)).any (fun k => otpEmpty s t k) ||
      (t = 3 && 39 < fieldLe body 0 1) then otpREFUSED
  else otpDONE

/-- Ask for a record to be programmed: it starts, or the result says why not. Returns the result. -/
def otpStart (mgmt : Bool) (may : Nat → Bool) (t g : Nat) (body : List Byte) (s : State) : Nat × State :=
  let body := slice body 0 (otpSize t - 8)
  let r := otpCheck s may t g body
  if r = otpDONE then
    (otpDONE, (s.setReg .OTP_PROG_STAT 0 1).modRst (fun x => { x with prog := some (t, g, body), progMgmt := mgmt }))
  else (r, s.setReg .OTP_PROG_STAT 0 (wN (2 * r)))

/-- The programming ends: read back well, or spent. -/
def otpEnd (ok : Bool) (s : State) : State :=
  match s.rst.prog with
  | none => s
  | some (t, g, body) =>
    let s := s.modRst (fun x => { x with prog := none })
    let s := if ok then burn (otpSlot t g) (otpHeader t g body ++ body) s else spendSlot t g s
    let s := if s.rst.progMgmt then emit (.reply 0x206 [0, BitVec.ofNat 8 (if ok then otpDONE else otpVERIFY)]) s else s
    (s.setReg .OTP_PROG_STAT 0 (wN (2 * (if ok then otpDONE else otpVERIFY)))).modRst (fun x => { x with progMgmt := false })

end Sys2Proof.Machine
end

