-- ==== Sys2Proof/Machine/Link.lean ====
section
/-! DEFINITION. Link ports (chapter 11, R398 to R400): routing of a packet's next hop, building and sending flits with
credits, replay and encryption, link-down, and bring-up. -/

namespace Sys2Proof.Machine

/-! ## Places of a port -/

def portDie (p : Nat) : Nat := p / 4

def psDISABLED : Nat := 0
def psTRAIN : Nat := 1
def psLANEMAP : Nat := 2
def psBLOCKLOCK : Nat := 3
def psPARAM : Nat := 4
def psACTIVE : Nat := 5
def psDOWN : Nat := 6
def psFAILED : Nat := 7

def portState (s : State) (p : Nat) : Nat := s.fld F.LNK_STAT_STATE p
def portActive (s : State) (p : Nat) : Bool := portState s p == psACTIVE
def setPortState (p st : Nat) (s : State) : State := s.setFld F.LNK_STAT_STATE p st

/-- R248: replay, ingress and egress depth in flits, from the LINK partition of the port's slice. -/
def lnkShare (s : State) (p : Nat) : Nat := bitsN (s.reg .VAT_PART (portDie p)).toNat 16 8
def lnkReplay (s : State) (p : Nat) : Nat := min (lnkShare s p * 256) 16384
def lnkIngress (s : State) (p : Nat) : Nat := lnkShare s p * 512
def lnkEgress (s : State) (p : Nat) : Nat := lnkShare s p * 1024 - lnkIngress s p - lnkReplay s p

/-- Whether encryption is in force on a port (R398). -/
def encOn (s : State) (p : Nat) : Bool := s.flag F.SEC_LNK_CTL_ACTIVE p

/-! ## Routing: R255 to R259, R264 -/

def coord (node d : Nat) : Nat := bitsN node (4 * d) 4
def nodeId (s : State) : Nat := s.fld F.FAB_NODE_ID
def dimSize (s : State) (d : Nat) : Nat := s.fld F.FAB_DIM_CFG_SIZE d + 1
def dimWrap (s : State) (d : Nat) : Bool := s.flag F.FAB_DIM_CFG_WRAP d
def rtDir (s : State) (d c : Nat) : Nat := bitsN (s.reg .FAB_RT d).toNat (2 * c) 2

/-- R258: the directions of FAB_RT(d) until software changes them. A coordinate outside the dimension has none. -/
def defaultRt (s : State) (d : Nat) : Nat :=
  let n := dimSize s d
  let x := coord (nodeId s) d
  (List.range 16).foldl (fun v c =>
    let up := (c + n - x % n) % n
    let dir := if c = x then 0 else if n ≤ c then 3
      else if dimWrap s d then (if 2 * up ≤ n then 1 else 2) else if x < c then 1 else 2
    v + dir * 4 ^ c) 0

def setDefaultRt (d : Nat) (s : State) : State := s.setReg .FAB_RT d (wN (defaultRt s d))

/-- Table 12.1: the lowest port of a dimension. -/
def dimPort : Nat → Nat
  | 0 => 0 | 1 => 4 | 2 => 12 | _ => 8
/-- The dimension of a port, and whether it faces the + neighbour. -/
def portDim (p : Nat) : Nat := match p / 4 with | 0 => 0 | 1 => 1 | 3 => 2 | _ => 3
def portPlus (p : Nat) : Bool := p % 4 < 2

/-- R256: the neighbour a port must face; none where a line ends or the dimension is not used. -/
def neighbour (s : State) (p : Nat) : Option Nat :=
  let d := portDim p
  let n := dimSize s d
  let x := coord (nodeId s) d
  let put (c : Nat) : Nat := setBitsN (nodeId s) (4 * d) 4 c
  if n = 1 then none
  else if portPlus p then
    if x + 1 < n then some (put (x + 1)) else if dimWrap s d then some (put 0) else none
  else if 0 < x then some (put (x - 1)) else if dimWrap s d then some (put (n - 1)) else none

def portUsable (s : State) (p : Nat) : Bool := portActive s p && !(s.port p).misw

/-- Where a packet goes next. -/
inductive Hop where
  | deliver
  | noRoute
  | down
  | out (p : Nat)
deriving DecidableEq, Repr

/-- The lowest dimension in which two nodes differ. -/
def firstDim (a b : Nat) : Option Nat := (List.range 4).find? (fun d => coord a d != coord b d)

/-- R264: the direction on an escape VC. -/
def escDir (s : State) (d c x : Nat) : Nat :=
  if rtDir s d c = 3 then 3
  else if dimWrap s d then
    let n := dimSize s d
    let k := s.fld F.FAB_DIM_CFG_DATELINE d + 1
    let pos (y : Nat) : Nat := (y + 16 * n - k) % n
    if pos x < pos c then 1 else 2
  else if x < c then 1 else 2

/-- R257, R259, R264, R277. -/
def nextHop (s : State) (vc dst src flow : Nat) : Hop :=
  match firstDim dst (nodeId s) with
  | none => .deliver
  | some d =>
    let c := coord dst d
    let dir := if 4 ≤ vc && vc ≤ 7 then escDir s d c (coord (nodeId s) d) else rtDir s d c
    if dir = 1 || dir = 2 then
      let b := dimPort d + (if dir = 1 then 0 else 2)
      let m := (src ^^^ dst ^^^ flow) % 2
      if portUsable s (b + m) then .out (b + m)
      else if portUsable s (b + 1 - m) then .out (b + 1 - m) else .down
    else .noRoute

/-! ## Building flits: R244 -/

def padTo (n : Nat) (l : List Byte) : List Byte := slice l 0 n

/-- The value ACK carries: the first flit of an unverified batch, else the next flit expected (R400). -/
def ackValue (k : PortSt) : Nat :=
  match k.held with
  | f :: _ => fieldLe f 1 2
  | [] => k.rxSeq

/-- A flit's 256 bytes. While a commit holds the port no credit is returned: CRCNT stands still (R249). -/
def flitBytes (k : PortSt) (kind vc fseq : Nat) (body : List Byte) : List Byte :=
  let cnt := smGet 0 (if k.hold then k.heldCr else k.freed) k.crVc % 4096
  let h := natLe 1 (kind + 8 * vc + (if k.nak then 128 else 0)) ++ natLe 2 fseq ++ natLe 2 (ackValue k) ++
    natLe 1 (k.crVc + 16 * (cnt % 16)) ++ natLe 1 (cnt / 16) ++ natLe 1 0 ++ padTo 244 body
  h ++ natLe 4 (crc32c h)

/-! ## Blocks: R242 -/

/-- Bytes as 10-bit symbols, little-endian: five bytes hold four. -/
def symbols10 : List Byte → List Nat
  | a :: b :: c :: d :: e :: l =>
    let v := fieldLe [a, b, c, d, e] 0 5
    bitsN v 0 10 :: bitsN v 10 10 :: bitsN v 20 10 :: bitsN v 30 10 :: symbols10 l
  | _ => []

/-- Every second symbol, from the first. -/
def everyOther : List Nat → List Nat
  | a :: _ :: l => a :: everyOther l
  | [a] => [a]
  | [] => []

/-- Two lists of symbols, interleaved. -/
def interleave : List Nat → List Nat → List Nat
  | a :: l, b :: r => a :: b :: interleave l r
  | _, _ => []

/-- The block header of Table 11.2. -/
def blockHeader (bseq wcode rcode : Nat) : List Byte :=
  let h := natLe 4 (0xB4E1 + bseq % 256 * 2 ^ 16 + wcode * 2 ^ 24 + rcode * 2 ^ 26)
  h ++ natLe 1 (crc8 h)

/-- The 1,088 symbols of a block's message: codewords A and B hold the even and the odd message symbols, and their parity
symbols follow, interleaved in the same way. -/
def blockSymbols (msg : List Byte) : List Nat :=
  let m := symbols10 msg
  let par (l : List Nat) : List Nat := (Config.rsParity l ++ List.replicate 30 0).take 30
  m ++ interleave (par (everyOther m)) (par (everyOther (m.drop 1)))

/-- Lanes of a width code. -/
def laneCount (w : Nat) : Nat := if w = 3 then 8 else if w = 2 then 4 else 2

/-- Symbols by active lane: symbol j goes on lane j mod W. -/
def laneSymbols (w : Nat) (l : List Nat) : List (List Nat) :=
  (List.range w).map (fun i => (l.zipIdx.filter (fun x => x.2 % w == i)).map (·.1))

/-- Send the block of the five flits placed in it. -/
def sendBlock (p : Nat) (s : State) : State :=
  let k := s.port p
  let w := s.fld F.LNK_STAT_WIDTH p
  let msg := blockHeader k.bseq w (s.fld F.LNK_STAT_RATE p) ++ k.txq.flatten
  emit (.block p (laneSymbols (laneCount w) (blockSymbols msg)))
    (s.modPort p (fun k => { k with bseq := (k.bseq + 1) % 256, txq := [] }))

/-- The count of freed credits that a VC's next return carries. -/
def crCount (k : PortSt) (vc : Nat) : Nat := smGet 0 (if k.hold then k.heldCr else k.freed) vc % 4096

/-- Send a flit: NAK is sent once, the VC whose credits are carried rotates (R246, R250), and five flits make a block. -/
def emitFlit (p kind vc fseq : Nat) (body : List Byte) (s : State) : State :=
  let b := flitBytes (s.port p) kind vc fseq body
  let s := emit (.flit p b) s
  let s := s.modPort p (fun k => { k with
    nak := false, crVc := (k.crVc + 1) % 9, told := smSet 0 k.crVc (crCount k k.crVc) k.told, toldAck := ackValue k
    txq := k.txq ++ [b] })
  if 5 ≤ (s.port p).txq.length then sendBlock p s else s

/-- IDLE flits fill up a block begun. -/
def fillBlock : Nat → Nat → State → State
  | 0, _, s => s
  | n + 1, p, s => if (s.port p).txq.isEmpty then s else fillBlock n p (emitFlit p 0 0 0 [] s)

/-! ## Encryption: R398, R399 -/

/-- Key and nonce of key area j under a batch counter. -/
def areaKey (k : PortSt) (j : Nat) : List Byte := slice (smGet [] k.keys j) 0 32
def areaNonce (k : PortSt) (j n : Nat) : List Byte := slice (smGet [] k.keys j) 32 4 ++ natLe 8 n

/-- XOR DATA bytes with the keystream from position `off` of a message. -/
def gcmXor (key nonce : List Byte) (off : Nat) (l : List Byte) : List Byte :=
  l.zipIdx.map (fun x => x.1 ^^^ Config.gcmByte key nonce (off + x.2))

/-- Additional data of a flit. -/
def flitAad (kind vc fseq : Nat) : List Byte := natLe 1 (kind + 8 * vc) ++ natLe 2 fseq

/-- Transmit key area in use. -/
def txArea (s : State) (p : Nat) : Nat := s.fld F.SEC_LNK_CTL_TXSLOT p

/-- AUTH body for the open batch. -/
def authBody (s : State) (p : Nat) : List Byte :=
  let k := s.port p
  let j := txArea s p
  let n := smGet 0 k.bctr j
  let tag := Config.gcmTag (areaKey k j) (areaNonce k j n)
    ((k.batch.map (fun e => e.take 3)).flatten ++ (k.batch.map (fun e => e.drop 3)).flatten)
  natLe 1 4 ++ natLe 1 j ++ natLe 8 n ++ natLe 2 k.batch.length ++ List.replicate 4 0 ++ slice tag 0 16

/-- Send a data flit's bytes, encrypted into the open batch if encryption is in force. -/
def sendData (p kind vc fseq : Nat) (body : List Byte) (s : State) : State :=
  if encOn s p then
    let k := s.port p
    let j := txArea s p
    let c := gcmXor (areaKey k j) (areaNonce k j (smGet 0 k.bctr j)) (244 * k.batch.length) (padTo 244 body)
    let s := s.modPort p (fun k => { k with batch := k.batch ++ [flitAad kind vc fseq ++ c] })
    emitFlit p kind vc fseq c s
  else emitFlit p kind vc fseq body s

/-- Emit the AUTH flit of the open batch under a given FSEQ, and open a new batch. -/
def emitAuth (p fseq : Nat) (s : State) : State :=
  let j := txArea s p
  let s := emitFlit p 3 0 fseq (authBody s p) s
  s.modPort p (fun k => { k with batch := [], bctr := smSet 0 j (smGet 0 k.bctr j + 1) k.bctr })

/-- Take the next FSEQ for a sequenced flit and keep the flit for replay. -/
def keepFlit (p kind vc : Nat) (body : List Byte) (s : State) : Nat × State :=
  let f := (s.port p).txSeq
  (f, s.modPort p (fun k => { k with
    txSeq := (k.txSeq + 1) % 65536
    replay := k.replay ++ [⟨f, kind, vc, body⟩]
    ackAt := if k.replay.isEmpty then s.now else k.ackAt }))

/-- Close the open batch with an AUTH flit. -/
def closeBatch (p : Nat) (s : State) : State :=
  if (s.port p).batch.isEmpty then s
  else
    let (f, s) := keepFlit p 3 0 (natLe 1 4) s
    emitAuth p f s

/-- Send a sequenced CTRL flit now. An open batch is closed first (R399). -/
def putCtrl (p : Nat) (body : List Byte) (s : State) : State :=
  let s := closeBatch p s
  let (f, s) := keepFlit p 3 0 body s
  emitFlit p 3 0 f body s

/-- Room in the replay buffer for a CTRL flit, and for the AUTH of an open batch before it. -/
def ctrlRoom (s : State) (p : Nat) : Bool :=
  (s.port p).replay.length + (if (s.port p).batch.isEmpty then 0 else 1) < lnkReplay s p

/-- Send a sequenced CTRL flit, once the replay buffer has room for it (R251). -/
def sendCtrl (p : Nat) (body : List Byte) (s : State) : State :=
  if (s.port p).ctrl.isEmpty && ctrlRoom s p then putCtrl p body s
  else s.modPort p (fun k => { k with ctrl := k.ctrl ++ [body] })

/-- CTRL flits that waited for room. -/
def pumpCtrl : Nat → Nat → State → State
  | 0, _, s => s
  | n + 1, p, s =>
    match (s.port p).ctrl with
    | [] => s
    | b :: l => if ctrlRoom s p then pumpCtrl n p (putCtrl p b (s.modPort p (fun k => { k with ctrl := l }))) else s

/-! ## Transmission: R246, R251 -/

/-- Room in the replay buffer for a flit, and on an encrypted port for the AUTH that closes its batch. -/
def replayRoom (s : State) (p : Nat) : Bool :=
  (s.port p).replay.length + (if encOn s p then 1 else 0) < lnkReplay s p

def creditLeft (k : PortSt) (vc : Nat) : Bool :=
  (smGet 0 k.sent vc + 4096 - smGet 0 k.cr vc) % 4096 < smGet 0 k.limit vc

/-- The next flit that may go: the first packet of each VC in egress, in order of entry. -/
def nextTx (k : PortSt) : List EPkt → List Nat → Option EPkt
  | [], _ => none
  | e :: l, seen =>
    if seen.contains e.vc then nextTx k l seen
    else if !e.flits.isEmpty && creditLeft k e.vc then some e else nextTx k l (e.vc :: seen)

/-- The head of a VC has advanced: `key` is the VC in egress, or the VC in ingress and 16 (R263). -/
def tick (p key : Nat) (s : State) : State :=
  let t := s.now
  s.modPort p (fun k => { k with adv := smSet 0 key t k.adv })

/-- Send one data flit of a packet. -/
def sendOne (p : Nat) (e : EPkt) (s : State) : State :=
  match e.flits with
  | [] => s
  | b :: rest =>
    let last := e.whole && rest.isEmpty
    let kind := if last then 2 else 1
    let (f, s) := keepFlit p kind e.vc b s
    let s := s.modPort p (fun k => { k with
      sent := smSet 0 e.vc ((smGet 0 k.sent e.vc + 1) % 4096) k.sent
      egress := if last then k.egress.filter (fun x => x.id != e.id)
        else k.egress.map (fun x => if x.id == e.id then { x with flits := rest, begun := true } else x) })
    let s := count 192 (44 + p) 1 (sendData p kind e.vc f b (tick p e.vc s))
    if (s.port p).batch.length = s.fld F.SEC_LNK_CTL_TAGN p then closeBatch p s else s

/-- Send data flits while credits and the replay buffer allow. -/
def sendAll : Nat → Nat → State → State
  | 0, _, s => s
  | n + 1, p, s =>
    if !(portActive s p) || !(replayRoom s p) then s
    else match nextTx (s.port p) (s.port p).egress [] with
      | none => s
      | some e => sendAll n p (sendOne p e s)

/-- Whether the partner has yet to be told of a NAK, of an ACK or of freed credits. -/
def returnDue (k : PortSt) : Bool :=
  k.nak || k.toldAck != ackValue k || (List.range 9).any (fun v => smGet 0 k.told v != crCount k v)

/-- IDLE flits carry what is due of the return channel: the present ACK, NAK and credits, one VC's count in each. -/
def sendIdles : Nat → Nat → State → State
  | 0, _, s => s
  | n + 1, p, s => if returnDue (s.port p) then sendIdles n p (emitFlit p 0 0 0 [] s) else s

/-- Send what a port can; then IDLE flits for what is due of the return channel, and to fill the last block. -/
def pumpPort (p : Nat) (s : State) : State :=
  if portState s p < psPARAM || psACTIVE < portState s p then s
  else
    let n := ((s.port p).egress.map (fun e => e.flits.length)).foldl (· + ·) 0
    let s := pumpCtrl (s.port p).ctrl.length p s
    fillBlock 5 p (sendIdles 10 p (closeBatch p (sendAll n p s)))

/-! ## Egress -/

/-- Flits of a VC waiting in a port's egress. -/
def egressLoad (k : PortSt) (vc : Nat) : Nat :=
  ((k.egress.filter (fun e => e.vc == vc)).map (fun e => e.flits.length)).foldl (· + ·) 0

/-- Flits that a VC's egress buffer can still take: each of the nine has its own ninth of the port's egress (R262). -/
def egressRoom (s : State) (p vc : Nat) : Nat := lnkEgress s p / 9 - egressLoad (s.port p) vc

/-- A number for a packet that is placed in a buffer. -/
def newId (s : State) : Nat × State :=
  (s.fab.nextId, s.modFab (fun f => { f with nextId := f.nextId + 1 }))

/-- Place a packet, or the part of it that has arrived, at the end of a VC of a port's egress. -/
def putEgress (id p vc : Nat) (flits : List (List Byte)) (whole : Bool) (s : State) : State :=
  let s := if (s.port p).egress.any (fun e => e.vc == vc) then s else tick p vc s
  s.modPort p (fun k => { k with egress := k.egress ++ [⟨id, vc, flits, false, whole⟩] })

/-- Append flits to a packet in egress, wherever it now waits. -/
def appendEgress (id : Nat) (flits : List (List Byte)) (whole : Bool) (s : State) : State :=
  { s with ports := s.ports.map (fun kv => (kv.1, { kv.2 with egress := kv.2.egress.map (fun e =>
      if e.id == id then { e with flits := e.flits ++ flits, whole := whole } else e) })) }

/-- The port in whose egress a packet waits. -/
def egressPort (s : State) (id : Nat) : Option Nat :=
  (s.ports.find? (fun kv => kv.2.egress.any (fun e => e.id == id))).map (·.1)

/-! ## Bridges: R12, R262 -/

/-- Base dies that a packet crosses into, in order: diagonal ones by the horizontal bridge first (R12). -/
def diePath (a b : Nat) : List Nat := if a = b then [] else if a ^^^ b = 3 then [a ^^^ 1, b] else [b]

/-- Flits of a VC on the FAB lanes from die a to die b. -/
def bridgeLoad (s : State) (a b vc : Nat) : Nat :=
  ((s.fab.bridge.filter (fun x => x.a == a && x.b == b && x.vc == vc)).map (fun x => x.flits.length)).foldl (· + ·) 0

/-- Credits of a VC on the FAB lanes of a bridge: at least those that the largest packet needs. -/
def bridgeCredits (vc : Nat) : Nat := 18 + Config.bridgeExtra vc

/-- The port that a packet on die d goes to: where the packet of its number waits in egress, else the port named. -/
def legPort (s : State) (id q : Nat) : Nat := (egressPort s id).getD q

/-- Whether the next place of a packet beyond die d holds a part of it. -/
def nextHas (s : State) (id d q : Nat) : Bool :=
  match diePath d (portDie q) with
  | [] => (egressPort s id).isSome
  | e :: _ => s.fab.bridge.any (fun x => x.id == id && x.a == d && x.b == e)

/-- The VC on which the part of a packet that went before waits beyond die d, else the VC named: a packet that has moved to an
escape VC takes what follows of it there (R263). -/
def legVc (s : State) (id d q vc : Nat) : Nat :=
  match diePath d (portDie q) with
  | [] => (((s.ports.flatMap (fun kv => kv.2.egress)).find? (fun e => e.id == id)).map (·.vc)).getD vc
  | e :: _ => ((s.fab.bridge.find? (fun x => x.id == id && x.a == d && x.b == e)).map (·.vc)).getD vc

/-- Flits that the next place beyond die d can take: the egress of a port on that die, or the bridge on the way. -/
def placeRoom (s : State) (id d q vc : Nat) : Nat :=
  let v := legVc s id d q vc
  match diePath d (portDie q) with
  | [] => egressRoom s (legPort s id q) v
  | e :: _ => bridgeCredits v - bridgeLoad s d e v

/-- Put flits of a packet into its next place beyond die d. -/
def place (id vc d q : Nat) (fl : List (List Byte)) (whole : Bool) (s : State) : State :=
  match diePath d (portDie q) with
  | [] => if (egressPort s id).isSome then appendEgress id fl whole s else putEgress id q vc fl whole s
  | e :: _ =>
    let t := s.now
    if nextHas s id d q then
      s.modFab (fun f => { f with bridge := f.bridge.map (fun x =>
        if x.id == id && x.a == d && x.b == e then { x with flits := x.flits ++ fl, whole := whole } else x) })
    else s.modFab (fun f => { f with bridge := f.bridge ++ [⟨id, vc, d, e, q, fl, whole, false, t⟩] })

/-- The header bytes of a packet, from its first flit. -/
def pktHeader (flits : List (List Byte)) : List Byte := slice (flits.headD []) 0 64

def hDst (h : List Byte) : Nat := fieldLe h 4 2
def hSrc (h : List Byte) : Nat := fieldLe h 6 2
def hFlow (h : List Byte) : Nat := fieldLe h 10 2

/-- R277: packets in the egress of a port that went down, none of whose flits was sent, go by another port of their
direction if one is usable, else they are discarded; packets in part sent are lost. -/
def rerouteEgress (l : List EPkt) (s : State) : State :=
  l.foldl (fun s e =>
    if e.begun then s
    else
      let h := pktHeader e.flits
      match nextHop s e.vc (hDst h) (hSrc h) (hFlow h) with
      | .out p => putEgress e.id p e.vc e.flits e.whole s
      | _ => s.incSat F.FAB_DROP_CNT_DOWN) s

/-! ## Events and link-down: R253 -/

/-- An error of a port that FEC, replay or retransmission repairs (Table 18.2, class 7). -/
def linkCe (p : Nat) (s : State) : State := corrected none 3 p 7 0 s

/-- Set an event bit and report it (Table 11.15). -/
def lnkEvent (p : Nat) (f : Fld) (s : State) : State := linkCe p (s.setFld f p 1)

/-- Forget sequence numbers, credits and buffers of the link; keys and complete packets in ingress stay. -/
def PortSt.cleared (k : PortSt) : PortSt :=
  { k with txSeq := 0, rxSeq := 0, replay := [], sent := [], limit := [], cr := [], freed := [], crVc := 0, nak := false,
           nakHeld := false, replays := 0, replayFrom := 0, rx := [], held := [], heldAt := [], badHdr := 0, goodHdr := 0,
           paramIn := false, paramOut := false, egress := [], batch := [], misw := false, heldCr := [], bseq := 0, txq := [],
           ctrl := [], told := [], toldAck := 0, adv := [],
           ingress := (k.ingress.filter (fun i => i.whole)).map (fun i => { i with old := true }) }

/-- Start of TRAIN (R252, step 1). R398: a change of SEC_LNK_CTL.EN takes effect here. -/
def startTrain (p : Nat) (rate : Nat) (s : State) : State :=
  let s := s.setReg .LNK_STAT p (wN (psTRAIN + 8 * rate))
  let s := s.setFld F.SEC_LNK_CTL_ACTIVE p (s.fld F.SEC_LNK_CTL_EN p)
  let s := s.setFld F.LNK_CTL_RETRAIN p 0
  let t := s.now
  let c := (s.reg .LNK_CTL p).toNat
  s.modPort p (fun k => { k.cleared with trainAt := t, bringAt := t, trainCtl := c })

/-- No encryption is in force on a port without a link (R398). -/
def endEncryption (p : Nat) (s : State) : State := s.setFld F.SEC_LNK_CTL_ACTIVE p 0

/-- A packet in part forwarded when its link goes down ends on its egress with one zero flit (R267). -/
def endForwarded (p : Nat) (i : IPkt) (s : State) : State :=
  match i.out with
  | some (id, q) =>
    if i.whole || !(nextHas s id (portDie p) q) then s else place id i.evc (portDie p) q [List.replicate 244 0] true s
  | none => s

/-- The port leaves ACTIVE: LINKDOWN flits, DOWN, and what R253 lists. `cause` sets its own event bit. -/
def linkDown (p : Nat) (cause : Option Fld) (s : State) : State :=
  if !(portActive s p) then s
  else
    let s := fillBlock 5 p ((List.range 16).foldl (fun s _ => emitFlit p 3 0 0 (natLe 1 2) s) s)
    let k := s.port p
    let s := setPortState p psDOWN s
    let s := endEncryption p ((s.setFld F.LNK_STAT_WIDTH p 0).setFld F.LNK_STAT_LANES p 0)
    let s := k.ingress.foldl (fun s i => endForwarded p i s) s
    let s := s.modPort p PortSt.cleared
    let s := s.modFab (fun f => { f with inbox := f.inbox.map (fun i =>
      if i.src.any (fun x => x.1 == p) then { i with src := none } else i) })
    let s := s.incSat F.LNK_LL_CNT_DOWN p
    let s := lnkEvent p F.LNK_EVT_DOWN s
    let s := match cause with | some f => lnkEvent p f s | none => s
    let s := rerouteEgress k.egress s
    if !(s.flag F.LNK_CTL_EN p) then setPortState p psDISABLED s
    else if s.flag F.LNK_CTL_AUTO p || s.flag F.LNK_CTL_RETRAIN p then startTrain p (s.fld F.LNK_CTL_MAXRATE p) s
    else s

/-- A failure of bring-up: FAILED and TRFAIL (R252). -/
def trainFail (p : Nat) (s : State) : State :=
  let s := setPortState p psFAILED s
  let s := endEncryption p ((s.setFld F.LNK_STAT_WIDTH p 0).setFld F.LNK_STAT_LANES p 0)
  lnkEvent p F.LNK_EVT_TRFAIL (s.modPort p (fun k => { k.cleared with failAt := s.now }))

/-- What a loss of the link does in any state: link-down when ACTIVE, a failure during bring-up. -/
def linkLost (p : Nat) (cause : Option Fld) (s : State) : State :=
  let st := portState s p
  if st = psACTIVE then linkDown p cause s
  else if psTRAIN ≤ st && st ≤ psPARAM then
    trainFail p (match cause with | some f => lnkEvent p f s | none => s)
  else s

/-! ## Replay: R251 -/

/-- Send every flit of the replay buffer again, in FSEQ order; AUTH flits close new batches (R399). -/
def resend (p : Nat) (l : List Flit) (s : State) : State :=
  l.foldl (fun s f =>
    if f.kind = 3 then
      if encOn s p && fieldLe f.body 0 1 = 4 then emitAuth p f.fseq s else emitFlit p 3 0 f.fseq f.body s
    else sendData p f.kind f.vc f.fseq f.body s) s

/-- Start a replay from the oldest flit, or take the link down at the limit. -/
def startReplay (p : Nat) (s : State) : State :=
  let k := s.port p
  match k.replay with
  | [] => s
  | f :: _ =>
    let n := if k.replayFrom = f.fseq && k.replays != 0 then k.replays + 1 else 1
    let s := linkCe p (s.incSat F.LNK_LL_CNT_REPLAY p)
    let s := s.modPort p (fun k => { k with replays := n, replayFrom := f.fseq, ackAt := s.now, batch := [] })
    if s.fld F.LNK_RETRY_CTL_LIMIT p ≤ n then linkLost p (some F.LNK_EVT_RLIM) s
    else resend p k.replay s

/-! ## Reception -/

def fKind (f : List Byte) : Nat := bitsN (fieldLe f 0 1) 0 3
def fVc (f : List Byte) : Nat := bitsN (fieldLe f 0 1) 3 4
def fNak (f : List Byte) : Bool := bitN (fieldLe f 0 1) 7
def fSeq (f : List Byte) : Nat := fieldLe f 1 2
def fAck (f : List Byte) : Nat := fieldLe f 3 2
def fBody (f : List Byte) : List Byte := slice f 8 244
def fSub (f : List Byte) : Nat := fieldLe f 8 1

/-- R244: a flit whose CRC fails, or whose KIND or VC is reserved. -/
def flitFailed (f : List Byte) : Bool :=
  f.length != 256 || crc32c (f.take 252) != fieldLe f 252 4 || 3 < fKind f || 8 < fVc f

/-- R250: ask for a replay, once for each error. An unverified batch is asked for again from its first flit. -/
def askReplay (p : Nat) (s : State) : State :=
  let k := s.port p
  if k.nakHeld && s.now < k.nakAt + s.fld F.LNK_RETRY_CTL_TMO p * 100 then s
  else s.modPort p (fun k => { k with nak := true, nakHeld := true, nakAt := s.now, rxSeq := ackValue k, held := [], heldAt := [] })

/-- Take the ACK, NAK and credit count of a flit (R246, R250, R251). -/
def takeReturns (p : Nat) (f : List Byte) (s : State) : State :=
  let k := s.port p
  let crvc := bitsN (fieldLe f 5 1) 0 4
  let cnt := fieldLe f 5 1 / 16 + 16 * fieldLe f 6 1
  let s := s.modPort p (fun k => { k with cr := smSet 0 crvc cnt k.cr })
  let n := match k.replay with | [] => 0 | g :: _ => (fAck f + 65536 - g.fseq) % 65536
  let s :=
    if 0 < n && n ≤ k.replay.length then
      s.modPort p (fun k => { k with replay := k.replay.drop n, ackAt := s.now, replays := 0,
                                     paramOut := k.paramOut || portState s p = psPARAM })
    else s
  if fNak f then startReplay p s else s

/-- Deliver a data flit, decoded at DEV_TIMEBASE t, to ingress: a new packet, or the next flit of the VC's packet in progress.
PKT_RX records are formed at the header flit (R387). -/
def deliverFlit (p kind vc t : Nat) (body : List Byte) (s : State) : State :=
  let k := s.port p
  let s := count 192 (60 + p) 1 s
  let fresh := !(k.ingress.any (fun i => i.vc == vc && !i.whole))
  let s :=
    if fresh && hSrc body = s.fld F.LNK_STAT_PEER_NODE p && s.flag F.DBG_TRC_CTL_EN then
      let n := smGet 0 s.dbg.seen p + 1
      if 2 ^ bitsN s.dbg.ctl 16 4 ≤ n then
        traceAt t 0x30 none p (hSrc body + 65536 * hFlow body) (fieldLe body 48 8) (fieldLe body 12 4)
          (s.modDbg (fun d => { d with seen := smSet 0 p 0 d.seen }))
      else s.modDbg (fun d => { d with seen := smSet 0 p n d.seen })
    else s
  let s := if k.ingress.any (fun i => i.vc == vc) then s else tick p (16 + vc) s
  if fresh then s.modPort p (fun k => { k with ingress := k.ingress ++ [⟨vc, [body], 1, kind == 2, none, vc, false⟩] })
  else s.modPort p (fun k => { k with ingress := k.ingress.map (fun i =>
    if i.vc == vc && !i.whole then { i with flits := i.flits ++ [body], count := i.count + 1, whole := kind == 2 } else i) })

/-- Credits of a VC go back to the partner as flits leave ingress. -/
def freeCredits (p vc n : Nat) (s : State) : State :=
  s.modPort p (fun k => { k with freed := smSet 0 vc ((smGet 0 k.freed vc + n) % 4096) k.freed })

/-- Take the head of the received flits if it is one for which `mine` holds. -/
def takeRx (p : Nat) (mine : List Byte → Bool) (s : State) : Option (List Byte × State) :=
  match (s.port p).rx with
  | f :: l => if mine f then some (f, s.modPort p (fun k => { k with rx := l })) else none
  | [] => none

/-- R250: a sequenced flit is accepted in order, else discarded with a NAK. -/
def acceptSeq (p : Nat) (f : List Byte) (s : State) : Option State :=
  if fSeq f = (s.port p).rxSeq then
    some (s.modPort p (fun k => { k with rxSeq := (k.rxSeq + 1) % 65536, nakHeld := false }))
  else none

/-- Subtypes of CTRL flits that have a row. -/
def knownCtrl (f : List Byte) : Bool :=
  let t := fSub f
  t == 1 || t == 2 || t == 4 || (t == 3 && 1 ≤ fieldLe f 9 1 && fieldLe f 9 1 ≤ 3)

/-- Failed flits at the head are counted and asked for again; CTRL flits of a reserved subtype are accepted and ignored
(Table 11.6). -/
def drainRx : Nat → Nat → State → State
  | 0, _, s => s
  | n + 1, p, s =>
    match (s.port p).rx with
    | [] => s
    | f :: l =>
      let pop (s : State) : State := s.modPort p (fun k => { k with rx := l })
      if flitFailed f then
        drainRx n p (askReplay p (linkCe p ((pop s).incSat F.LNK_LL_CNT_CRC p)))
      else if fKind f = 3 && !(knownCtrl f) then
        let s := takeReturns p f (pop s)
        drainRx n p (match acceptSeq p f s with | some s => s | none => askReplay p s)
      else s

/-- After a received flit: later failed flits. -/
def rxDone (p : Nat) (s : State) : State :=
  if portState s p < psPARAM || psACTIVE < portState s p then s else drainRx (s.port p).rx.length p s

/-! ## Bring-up: R240, R241, R245, R252 -/

/-- The PARAM body of R245. -/
def paramBody (s : State) (p : Nat) : List Byte :=
  natLe 1 1 ++ natLe 2 (nodeId s) ++ natLe 1 p ++ natLe 2 (lnkReplay s p) ++
  ((List.range 9).map (fun v => natLe 2 (s.fld F.LNK_VC_CRED_FLITS (p * 9 + v)))).flatten ++
  natLe 1 (s.fld F.SEC_LNK_CTL_EN p)

/-- Enter state PARAM: counts at zero, and PARAM as the first sequenced flit. -/
def enterParam (p : Nat) (s : State) : State :=
  let s := setPortState p psPARAM (s.modPort p (fun k => { k.cleared with bseq := k.bseq }))
  sendCtrl p (paramBody s p) s

/-- R256. -/
def checkMiswire (p : Nat) (s : State) : State :=
  let bad := neighbour s p != some (s.fld F.LNK_STAT_PEER_NODE p)
  let s := s.modPort p (fun k => { k with misw := bad })
  if bad then s.setFld F.FAB_EVT_MISWIRE 0 1 else s

/-- ACTIVE once the partner's PARAM is accepted and the port's own is acknowledged. -/
def checkActive (p : Nat) (s : State) : State :=
  let k := s.port p
  if portState s p = psPARAM && k.paramIn && k.paramOut then
    let s := setPortState p psACTIVE s
    let s := if s.fld F.LNK_STAT_WIDTH p != 3 || s.flag F.LNK_STAT_RATE p then lnkEvent p F.LNK_EVT_DEGR s else s
    checkMiswire p s
  else s

/-- Whether a PARAM body is well formed (R245): its reserved bits and its other bytes zero, its limits 18 or more. -/
def paramOk (b : List Byte) : Bool :=
  fieldLe b 3 1 < 16 && fieldLe b 24 1 < 2 && (b.drop 25).all (· == 0) &&
  (List.range 9).all (fun v => let x := fieldLe b (6 + 2 * v) 2; x < 4096 && 18 ≤ x)

/-- An accepted PARAM. -/
def takeParam (p : Nat) (b : List Byte) (s : State) : State :=
  if !(paramOk b) then linkLost p none s
  else if portState s p = psPARAM && fieldLe b 24 1 != s.fld F.SEC_LNK_CTL_EN p then trainFail p s
  else
    let s := (s.setFld F.LNK_STAT_PEER_NODE p (fieldLe b 1 2)).setFld F.LNK_STAT_PEER_PORT p (fieldLe b 3 1)
    let s := s.modPort p (fun k => { k with
      limit := (List.range 9).foldl (fun m v => smSet 0 v (fieldLe b (6 + 2 * v) 2) m) k.limit
      paramIn := true })
    if portState s p = psACTIVE then checkMiswire p s else s

/-- R240, R252 step 2: the width code and lanes chosen from the good logical lanes: all 8, else the lowest-numbered good
group of 4, then of 2, not below the narrowest width allowed. -/
def chooseLanes (good : Nat) (minw : Nat) : Option (Nat × Nat) :=
  let groups : List (Nat × Nat) := [(3, 0xFF), (2, 0x0F), (2, 0xF0), (1, 0x03), (1, 0x0C), (1, 0x30), (1, 0xC0)]
  groups.find? (fun g => (good &&& g.2) == g.2 && minw + 1 ≤ g.1)

/-- LANEMAP completes: `nums` are the lane numbers received on physical lanes 0 to 7, `good` the lanes that both ends
received well, `pol` the lanes whose training pattern arrived inverted. A lane that the OTP lane map in force excludes counts
as not received well (Table 17.6). -/
def laneMap (p : Nat) (nums : List Nat) (good pol : Nat) (s : State) : State :=
  let num (l : Nat) : Nat := (nums[l]?).getD 8
  let lanes := (setBits good 8).filter (fun l => !(bitN (otpBody s 4 (4 + p)) l))
  let rev := (lanes.filter (fun l => num l == l)).length < (lanes.filter (fun l => num l + l == 7)).length
  let ok := lanes.filter (fun l => if rev then num l + l == 7 else num l == l)
  let logical := ok.foldl (fun v l => v ||| 2 ^ (if rev then 7 - l else l)) 0
  match chooseLanes logical (bitsN (s.port p).trainCtl 4 2) with
  | some (w, m) =>
    let s := ((s.setFld F.LNK_STAT_WIDTH p w).setFld F.LNK_STAT_LANES p m).setFld F.LNK_STAT_REV p (if rev then 1 else 0)
    let s := setPortState p psBLOCKLOCK (s.setFld F.LNK_STAT_POL p pol)
    -- sixteen blocks of IDLE flits, to which the partner locks
    (List.range 80).foldl (fun s _ => emitFlit p 0 0 0 [] s) s
  | none =>
    if s.flag F.LNK_STAT_RATE p then trainFail p s
    else
      let t := (s.port p).bringAt
      (startTrain p 1 s).modPort p (fun k => { k with bringAt := t })

end Sys2Proof.Machine
end

