-- ==== Sys2Proof/Machine/Mmu.lean ====
section
/-! DEFINITION. The device MMU (R141 to R143, Tables 7.3 and 7.4), the partition check of R167, and reads and writes of
context virtual addresses by engines. -/

namespace Sys2Proof.Machine

/-- What an access needs: read, write, both (an AMO or the word of an ATOMIC), or fetch. -/
inductive Acs where
  | r | w | rw | x
deriving DecidableEq, Repr

/-- Result of a translation: a device-physical address with the bytes of its page from there on, a host I/O virtual
address, a walk fault, a walk that read a poisoned entry at an address (Table 8.10), or a walk that needs memory that is
held. -/
inductive Xl where
  | ok (a left : Nat)
  | host (a : Nat)
  | fault
  | poison (a : Nat)
  | held
deriving DecidableEq, Repr

/-- Index bits and page size of a level (Table 7.3). -/
def lvlShift : Nat → Nat
  | 0 => 39 | 1 => 30 | 2 => 21 | _ => 16
def lvlBits : Nat → Nat
  | 3 => 5 | _ => 9

/-- Whether a leaf's permissions (Table 7.4) allow an access. -/
def permOk (e : Nat) : Acs → Bool
  | .r => bitN e 2 | .w => bitN e 3 | .rw => bitN e 2 && bitN e 3 | .x => bitN e 4

/-- R142: walk from a table at level 4 - n. -/
def walk (s : State) (va : Nat) (k : Acs) : Nat → Nat → Xl
  | 0, _ => .fault
  | n + 1, tbl =>
    let lvl := 4 - (n + 1)
    let a := tbl + 8 * bitsN va (lvlShift lvl) (lvlBits lvl)
    if !(inHbm s tbl) || !(inHbm s a) then .fault
    else if heldRange s a 8 then .held
    else if poisonAt s a then .poison a
    else
      let e := rdNat s a 8
      let addr := bitsN e 12 45 * 4096
      let host := bitN e 5
      if !(bitN e 0) || bitsN e 6 6 != 0 || bitsN e 57 7 != 0 then .fault
      else if bitN e 1 then
        let size := 2 ^ lvlShift lvl
        if lvl = 0 || addr % size != 0 then .fault
        else if !host && 2 ^ 48 ≤ addr then .fault
        else if !host && !(addr < hbmEnd || (vatBase ≤ addr && addr < vatEnd) ||
            (match region s addr with | .pad _ _ => true | _ => false)) then .fault
        else if !(permOk e k) then .fault
        else if host then .host (addr + va % size) else .ok (addr + va % size) (size - va % size)
      else if host || 2 ^ 48 ≤ addr then .fault
      else walk s va k n addr

/-- The entries that a walk reads: that of each level, down to the first that does not lead on. -/
def walkReads (s : State) (va : Nat) : Nat → Nat → List Nat
  | 0, _ => []
  | n + 1, tbl =>
    let lvl := 4 - (n + 1)
    let a := tbl + 8 * bitsN va (lvlShift lvl) (lvlBits lvl)
    if !(inHbm s tbl) || !(inHbm s a) || heldRange s a 8 then []
    else
      let e := rdNat s a 8
      a :: (if poisonAt s a || !(bitN e 0) || bitN e 1 then [] else walkReads s va n (bitsN e 12 45 * 4096))

/-- Note the accesses of a walk (R380). -/
def noteWalk (ctx va : Nat) (s : State) : State :=
  let b := (smGet 0 s.mem.ptBase ctx).toNat
  if bitN b 0 && va < 2 ^ 48 then (walkReads s va 4 (bitsN b 12 36 * 4096)).foldl (fun s a => touch a s) s else s

/-- Translate a context virtual address, with the table base in force (R143). -/
def xlate (s : State) (ctx va : Nat) (k : Acs) : Xl :=
  let b := (smGet 0 s.mem.ptBase ctx).toNat
  if bitN b 0 && va < 2 ^ 48 then walk s va k 4 (bitsN b 12 36 * 4096) else .fault

/-- Result of R167 and R170 on a device-physical range. -/
inductive Chk where
  | ok | page | access
deriving DecidableEq, Repr

/-- R167, R170: every byte of one access lies in the region of its first, and the region admits it. -/
def physCheck (s : State) (a n : Nat) (write : Bool) : Chk :=
  match region s a with
  | .unbacked => .access
  | r =>
    if regionEnd s a < a + n then .access
    else match r with
      | .vat _ .scratch => .ok
      | .vat _ .sync => if write then .page else .ok
      | .vat _ _ => .access
      | _ => .ok

/-- Halt and status codes common to Tables 7.12 and 9.16. -/
def cXLATE : Nat := 2
def cACCESS : Nat := 3
def cPOISON : Nat := 4
def cREMOTE : Nat := 5

/-- Where an engine's chunk of bytes lies, or why it cannot be reached. -/
inductive Loc where
  | phys (a : Nat)
  | host (a : Nat)
  | err (code addr : Nat)
deriving DecidableEq, Repr

/-- R141: the local window of a core, and its unbacked upper part. -/
def winBase : Nat := 0xFF00000000
def inWindow (va : Nat) : Bool := winBase ≤ va && va < winBase + 0x800000

/-- Locate [va, va + n), which lies in one page, for an engine of a context. `core` is the core whose local window the
engine sees, if it has one (R141). The access that the bytes belong to goes on to [va, va + span), and all of that in the
same page is checked (R167). A walk that meets poison is reported here. -/
def locate (ctx : Nat) (core : Option Nat) (va n span : Nat) (k : Acs) (s : State) : Loc × State :=
  let write := k == .w || k == .rw
  if inWindow va then
    match core with
    | some c => if va + n ≤ winBase + spSize then (.phys (padAddr c (va - winBase)), s) else (.err cACCESS va, s)
    | none => (.err cACCESS va, s)
  else
    let t := noteWalk ctx va s
    match xlate s ctx va k with
    | .fault => (.err cXLATE va, t)
    | .poison a => (.err cPOISON va, consumed (some ctx) a t)
    | .host a => (.host a, t)
    | .held => (.err cACCESS va, { t with stall := true })
    | .ok a left => match physCheck s a (min span left) write with
      | .ok => (.phys a, needs a n t)
      | _ => (.err cACCESS va, t)

/-- Bytes of [va, va + n) that lie before the next 64-byte boundary: pages and partitions are multiples of it. -/
def lineLeft (va n : Nat) : Nat := min n (64 - va % 64)

end Sys2Proof.Machine
end

