-- ==== Sys2Proof/Machine/Queue.lean ====
section
/-! DEFINITION. The issue queues of a core (R147 to R152) and the end of a core's part of a launch (R158): pushing,
starting and completing blocks, halts, SKIP and FLUSH, and the waits of the control processor that they end. -/

namespace Sys2Proof.Machine

/-- Table 7.10. -/
def qDepth : Nat → Nat
  | 0 => 16 | 1 => 32 | _ => 8

/-- PEND of CORE_Q_STAT: blocks pushed and not yet complete. -/
def QueueSt.pendCount (q : QueueSt) : Nat := q.pend.length + q.run.length

/-- Table 7.11: the live value of CORE_Q_STAT. -/
def qStat (k : CoreSt) : Nat :=
  (List.range 4).foldl (fun v q =>
    let u := k.queue q
    v + (u.halt + (u.pendCount % 64) * 16) * 2 ^ (16 * q)) 0

/-- Whether any queue of a core is halted: QERR pending (R151). -/
def qerr (k : CoreSt) : Bool := (List.range 4).any (fun q => (k.queue q).halt != 0)

/-- The context that a core's work is charged to; `noCtx` while no context owns the core. -/
def blkCtx (s : State) (c : Nat) : Nat := (coreCtx s c).getD noCtx

/-! ## Waits of the control processor -/

/-- End a parked TWAIT whose ticket has been counted or whose queue has halted (Table 7.8), and a parked TPUSH whose
queue has room, which then executes again (R145). -/
def wakeCore (c : Nat) (s : State) : State :=
  let k := s.core c
  match k.park with
  | some (.twait q rd t) =>
    let u := k.queue q
    let note (v : Nat) (s : State) : State :=
      trace 4 (coreCtx s c) c (if q < 2 then 4 else 3) (q + t.toNat % 2 ^ 32 * 4) v s
    let d := (if q < 2 then 4 else 3, false, q + t.toNat % 2 ^ 32 * 4)
    if t.toNat ≤ u.done then releaseCore c rd 0 false d (note 0 s)
    else if u.halt != 0 then releaseCore c rd (wN u.halt) false d (note u.halt s) else s
  | some (.push q) =>
    if (k.queue q).pendCount < qDepth q then s.modCore c (fun k => { k with park := none }) else s
  | _ => s

/-! ## Counting completions: R147 -/

/-- Advance DONE over completions recorded early, in ticket order. -/
def drainEarly : Nat → QueueSt → QueueSt
  | 0, q => q
  | n + 1, q =>
    if q.early.contains (q.done + 1) then
      drainEarly n { q with done := q.done + 1, early := q.early.erase (q.done + 1) }
    else q

/-- A block is complete: it is counted once every lower ticket of its queue has been. -/
def QueueSt.complete (q : QueueSt) (ticket : Nat) : QueueSt :=
  let e := q.early ++ [ticket]
  drainEarly e.length { q with early := e, run := q.run.filter (fun b => b.ticket != ticket),
                               pend := q.pend.filter (fun b => b.ticket != ticket) }

/-- R152: OR a flag word into the queue's flag byte. -/
def QueueSt.orFlags (q : QueueSt) (f : Nat) : QueueSt := { q with flags := q.flags ||| f }

def completeBlock (c q ticket flags : Nat) (s : State) : State :=
  wakeCore c (trace 2 (coreCtx s c) c (q + 256 * flags) ticket 0
    (s.modQueue c q (fun u => (u.complete ticket).orFlags flags)))

/-! ## Halts: R151 -/

/-- The first halt of a queue while TEXIT is parked FLUSHes it at once and is remembered (R158). -/
def flushQ (u : QueueSt) : QueueSt :=
  let gone := (u.run.filter (fun b => b.failed != 0)).map (·.ticket) ++ u.pend.map (·.ticket)
  let u := { u with halt := 0 }
  gone.foldl (fun u t => u.complete t) u

/-- A queue halts. A started block that fails while its queue is already halted by a rejected head block leaves CODE as it is;
SKIP then discards the failed block first and halts the queue anew for the head block, and FLUSH discards both (DESIGN CHOICE,
assumption 174). -/
def haltQueue (c q code : Nat) (s : State) : State :=
  let s := s.modQueue c q (fun u => { u with halt := if u.halt = 0 then code else u.halt })
  match (s.core c).park with
  | some (.texit rs1 a l) =>
    s.modCore c (fun k => { (k.setQueue q (flushQ (k.queue q))) with
      park := some (.texit rs1 a (if l = 0 then code else l)) })
  | _ => wakeCore c s

/-- A started block fails: it has no further effect and its queue halts. -/
def failBlock (c q ticket code : Nat) (s : State) : State :=
  haltQueue c q code (s.modQueue c q (fun u =>
    { u with run := u.run.map (fun b => if b.ticket == ticket then { b with failed := code } else b) }))

/-- The halted block of a queue: the first failed one, or the block at the head (assumption 174 where both are). -/
def QueueSt.haltedTicket (u : QueueSt) : Option Nat :=
  match u.run.find? (fun b => b.failed != 0) with
  | some b => some b.ticket
  | none => (u.pend.head?).map (·.ticket)

/-- SKIP: discard the halted block, count it complete, resume; another failed block halts the queue again. -/
def skipQ (u : QueueSt) : QueueSt :=
  if u.halt = 0 then u
  else match u.haltedTicket with
    | none => { u with halt := 0 }
    | some t =>
      let u := ({ u with halt := 0 }).complete t
      match u.run.find? (fun b => b.failed != 0) with
      | some b => { u with halt := b.failed }
      | none => u

/-- FLUSH of a halted queue. -/
def flushHalted (u : QueueSt) : QueueSt := if u.halt = 0 then u else flushQ u

/-! ## Starting: R148, R150 -/

/-- Whether the blocks a GATE names are complete. -/
def gatesOpen (k : CoreSt) (b : QBlk) : Bool := b.gates.all (fun g => g.2 ≤ (k.queue g.1).done)

/-- Whether engines of a core may start work: not frozen, not in core reset, not being saved, slot not held. -/
def engineRuns (s : State) (c : Nat) : Bool :=
  let st := coreState s c
  !(slotHeld s (c / 16)) && !((s.core c).inReset) && (st == csRunning || st == csIdle)

/-- The block at the head of queue q that may start now, if there is one. Matrix and vector blocks run one after
another (R62, R118). -/
def headReady (s : State) (c q : Nat) : Option QBlk :=
  let k := s.core c
  let u := k.queue q
  if !(engineRuns s c) || u.halt != 0 then none
  else if q ≤ 1 && !u.run.isEmpty then none
  else match u.pend with
    | [] => none
    | b :: _ => if gatesOpen k b then some b else none

/-- Move the head of a queue to the started blocks. -/
def startBlock (c q : Nat) (b : QBlk) (sig : Option (Nat × Word)) (s : State) : State :=
  wakeCore c (trace 1 (coreCtx s c) c q b.ticket 0 <| s.modQueue c q (fun u => { u with
    pend := u.pend.filter (fun x => x.ticket != b.ticket)
    run := u.run ++ [⟨b.ticket, b.order, b.bytes, 0, sig, 0, 0, false, b.stages⟩] }))

def modRun (c q ticket : Nat) (f : RunBlk → RunBlk) (s : State) : State :=
  s.modQueue c q (fun u => { u with run := u.run.map (fun b => if b.ticket == ticket then f b else b) })

/-- R72: no vector read of the accumulator pushed before `order` is still to complete. Which vector blocks read it is
told by `reads`, from a block and its stage words. -/
def accReadsDone (reads : List Byte → List Byte → Bool) (k : CoreSt) (order : Nat) : Bool :=
  (k.vq.pend.all (fun b => !(b.order < order && reads b.bytes b.stages))) &&
  (k.vq.run.all (fun b => !(b.order < order && reads b.bytes b.stages)))

/-- R72: every matrix operation pushed before `order` has completed its tile. -/
def tilesDone (k : CoreSt) (order : Nat) : Bool :=
  k.mq.pend.all (fun b => order ≤ b.order) && k.mq.run.all (fun b => order ≤ b.order)

/-! ## The end of a launch: R158 -/

def modLaunch (r seq : Nat) (f : Launch → Launch) (s : State) : State :=
  s.modFe (fun fe => { fe with launches := fe.launches.map (fun l => if l.ring == r && l.seq == seq then f l else l) })

def coresOf (mask : Nat) : List Nat := setBits mask 192

/-- Whether every core of the mask has exited. Statuses are held plus 2^32, so that a status 0 is listed. -/
def launchOver (l : Launch) : Bool := (coresOf l.mask).all (fun c => smGet 0 l.exited c != 0)

def exitMark (st : Nat) : Word := wN (st % 2 ^ 32 + 2 ^ 32)

/-- A core of a launch has exited with a status; the last one completes the launch's descriptor. -/
def exitLaunch (r seq c st : Nat) (s : State) : State :=
    let s := modLaunch r seq (fun l => { l with exited := smSet 0 c (exitMark st) l.exited }) s
    match s.fe.launches.find? (fun l => l.ring == r && l.seq == seq) with
    | none => s
    | some l =>
      if launchOver l then
        let v := ((coresOf l.mask).map (fun c => (smGet 0 l.exited c).toNat % 2 ^ 32)).find? (fun v => v != 0) |>.getD 0
        let s := s.modFe (fun fe => { fe with launches := fe.launches.filter (fun x => !(x.ring == r && x.seq == seq)) })
        ringDone r seq (wN v) s
      else s

/-- A core leaves the launch that it serves, if it serves one. -/
def recordExit (c st : Nat) (s : State) : State :=
  match (s.core c).launch with
  | none => s
  | some (r, seq) => exitLaunch r seq c st (s.modCore c (fun k => { k with launch := none }))

/-- The exit status of R158 from rs1 and the halts seen. -/
def exitStatus (rs1 : Word) (haltAt haltLater : Nat) : Nat :=
  let v := bitsN rs1.toNat 0 32
  if v != 0 then v
  else if haltAt != 0 then 0x80000000 + haltAt
  else if haltLater != 0 then 0x80000000 + haltLater else 0

/-- TEXIT: FLUSH every halted queue, then park until the queues are done (CORE_EXIT ends it). A wait the core had parked
is taken off its word. -/
def beginExit (c : Nat) (status : Word) (flushAllQueues : Bool) (s : State) : State :=
  let k := s.core c
  let code := ((List.range 4).map (fun q => (k.queue q).halt)).find? (fun h => h != 0) |>.getD 0
  let s := dropWaits (Waiter.isCore c) s
  let f (u : QueueSt) : QueueSt := if flushAllQueues then flushQ u else flushHalted u
  s.modCore c (fun k => { k with
    mq := f k.mq, vq := f k.vq, lq := f k.lq, dq := f k.dq,
    park := some (.texit status code 0), retire := none })

def queuesDone (k : CoreSt) : Bool := (List.range 4).all (fun q => (k.queue q).done == (k.queue q).last)

end Sys2Proof.Machine
end

