-- ==== Sys2Proof/Machine/Ring.lean ====
section
/-! DEFINITION. Rings (chapter 09): completion and its record (R205, R207), and the abort of a ring (R215). -/

namespace Sys2Proof.Machine

/-! ## Completion: R205, R206 -/

/-- The contained errors of its own context that a descriptor meets take effect once its record is written (R368). -/
def lateKills (r seq : Nat) (f : State → State) (s : State) : State :=
  let old := s.kills
  let own := ringCtx s r
  let s := f { s with kills := [] }
  let ks := s.kills
  if ks.contains own && ((s.ring r).find seq).isSome then
    modDesc r seq (fun d => { d with kill := true }) { s with kills := old ++ ks.filter (· != own) }
  else { s with kills := old ++ ks }

/-- Complete a descriptor with a status (R205), after its signal has been raised if `sig`. -/
def finishDesc (r seq status : Nat) (value : Word) (sig : Bool) (faddr : Nat) (s : State) : State :=
  match (s.ring r).find seq with
  | none => s
  | some d =>
    let s := if sig then lateKills r seq (raiseSig (ringCtx s r) d.sig) s else s
    closeDesc r seq status value faddr (modDesc r seq (fun d => { d with sig := none }) s)

/-- A descriptor rejected at dispatch (R203). -/
def rejectDesc (r seq : Nat) (s : State) : State := finishDesc r seq 1 0 false 0 s

/-- Table 9.15: the 32 bytes of a completion record. -/
def recordBytes (s : State) (r : Nat) (d : DescSt) : List Byte :=
  natLe 4 d.seq ++ natLe 1 (dOpcode d.bytes) ++ natLe 1 d.status ++
  natLe 1 (phaseOf d.seq (ringN s r) + (if d.flt then 2 else 0)) ++ natLe 1 0 ++ natLe 4 (dTag d.bytes) ++ natLe 4 0 ++
  natLe 8 d.value.toNat ++ natLe 8 d.time

/-- Where record `seq` lies in host memory. -/
def recordAddr (s : State) (r seq : Nat) : Nat := ringCq s r + 32 * (seq % ringN s r)

/-- The oldest descriptor without a record, if it is complete. -/
def oldestDone (k : RingSt) : Option DescSt :=
  match k.descs with
  | d :: _ => if d.phase == .done then some d else none
  | [] => none

/-! ## Abort: R215 -/

/-- Whether an abort ends a descriptor: one that has not started, EVENT_WAIT, WAIT, a TASKQ_PUSH that waits on SPACE, a
LAUNCH whose cores have not started. A TASKQ_PUSH that reads its entry has started and goes on. -/
def abortable (s : State) (r : Nat) (d : DescSt) : Bool :=
  let op := dOpcode d.bytes
  d.phase == .fetched ||
  (d.phase == .running && (op == 0x11 || op == 0x19 || (op == 0x09 && d.outst == 0) ||
    (op == 0x08 && s.fe.launches.any (fun l => l.ring == r && l.seq == d.seq && !l.started))))

/-- A fetched descriptor or a wait ends with ABORTED. -/
def abortDesc (r : Nat) (d : DescSt) (s : State) : State :=
  let s := dropWaits (Waiter.isRing r d.seq) s
  let s := s.modFe (fun fe => { fe with
    launches := fe.launches.filter (fun l => !(l.ring == r && l.seq == d.seq && !l.started)) })
  finishDesc r d.seq 6 0 false 0 s

/-- R215 steps 1 and 2. An OFF ring has nothing to abort. -/
def abortRing (r : Nat) (s : State) : State :=
  let k := s.ring r
  if k.st = rsOff || k.st = rsAborting then s
  else
    let s := s.setFld F.FE_RING_CMD_ABORT r 1
    let s := (hdrTry r 0x10 rsAborting (s.modRing r (fun k => { k with st := rsAborting, tailOut := false, tailMore := 0, arming := false }))).2
    k.descs.foldl (fun s d => if abortable s r d then abortDesc r d s else s) s

end Sys2Proof.Machine
end

