-- ==== Sys2Proof/Machine/Fabric.lean ====
section
/-! DEFINITION. The fabric (chapter 12): packets, injection and forwarding, requests and their responses (R268 to R272),
and what a target does (R271, R273, R274). -/

namespace Sys2Proof.Machine

/-! ## Packets: Tables 12.4 and 12.5 -/

/-- The fields of a packet header. -/
structure Hdr where
  opc : Nat
  flags : Nat
  hops : Nat
  status : Nat
  dst : Nat
  src : Nat
  dom : Nat
  flow : Nat
  seq : Nat
  len : Nat
  orig : Nat
  sig : Nat
  addr : Nat
  arg0 : Nat
  arg1 : Nat
  stamp : Nat
  arg2 : Nat
deriving DecidableEq, Repr

def Hdr.zero : Hdr := ⟨0, 0, 64, 0, 0, 0, 0, 0, 0, 0, 0, 0, 0, 0, 0, 0, 0⟩

def Hdr.of (b : List Byte) : Hdr :=
  let f := fieldLe b
  ⟨f 0 1, f 1 1, f 2 1, f 3 1, f 4 2, f 6 2, f 8 2, f 10 2, f 12 4, bitsN (f 16 2) 0 13, f 18 2, bitsN (f 20 4) 0 20,
   f 24 8, f 32 8, f 40 8, f 48 8, f 56 4⟩

/-- Header bytes with a given PCRC. -/
def Hdr.bytes (h : Hdr) (pcrc : Nat) : List Byte :=
  natLe 1 h.opc ++ natLe 1 h.flags ++ natLe 1 h.hops ++ natLe 1 h.status ++ natLe 2 h.dst ++ natLe 2 h.src ++
  natLe 2 h.dom ++ natLe 2 h.flow ++ natLe 4 h.seq ++ natLe 2 h.len ++ natLe 2 h.orig ++ natLe 4 h.sig ++
  natLe 8 h.addr ++ natLe 8 h.arg0 ++ natLe 8 h.arg1 ++ natLe 8 h.stamp ++ natLe 4 h.arg2 ++ natLe 4 pcrc

/-- R266: a packet as its source forms it, with HOPS = 64. -/
def mkPacket (h : Hdr) (payload : List Byte) : List Byte :=
  let h := { h with hops := 64, len := payload.length }
  h.bytes (crc32c (h.bytes 0 ++ payload)) ++ payload

def payloadOf (b : List Byte) : List Byte := slice b 64 (Hdr.of b).len

/-- R267: PCRC over the packet as the source formed it, so with HOPS = 64. -/
def pcrcOk (b : List Byte) : Bool :=
  let b' := natLe 1 (fieldLe b 0 1) ++ slice b 1 1 ++ natLe 1 64 ++ slice b 3 57 ++ natLe 4 0 ++ payloadOf b
  crc32c b' == fieldLe b 60 4

/-- Flits of a packet. -/
def flitCount (len : Nat) : Nat := ceilDiv (64 + len) 244

def toFlits : Nat → List Byte → List (List Byte)
  | 0, _ => []
  | n + 1, b => padTo 244 b :: toFlits n (b.drop 244)

/-- Message class of an opcode, as its normal VC; none if reserved. -/
def opcClass (opc : Nat) : Option Nat :=
  if 1 ≤ opc && opc ≤ 5 then some 0
  else if 0x10 ≤ opc && opc ≤ 0x12 then some 1
  else if opc = 0x18 then some 2
  else if opc = 0x20 then some 3
  else if opc = 0x30 then some 8 else none

def noise (s : State) : State := s.modFab (fun f => { f with noisy := true })

/-! ## Injection -/

/-- Whether the egress that a packet of this device goes to has room for all of it, or it goes to none. -/
def injectRoom (s : State) (pkt : List Byte) : Bool :=
  let h := Hdr.of pkt
  match opcClass h.opc with
  | none => true
  | some vc =>
    match nextHop s vc h.dst h.src h.flow with
    | .out p => flitCount h.len ≤ egressRoom s p vc
    | _ => true

/-- Put a packet of this device on its way; one for this node is delivered here, and one whose egress is full waits at its
source. -/
def inject (pkt : List Byte) (s : State) : State :=
  let h := Hdr.of pkt
  match opcClass h.opc with
  | none => s
  | some vc =>
    let s := if vc = 8 then s else noise s
    match nextHop s vc h.dst h.src h.flow with
    | .deliver => s.modFab (fun f => { f with inbox := f.inbox ++ [⟨none, 0, pkt⟩] })
    | .noRoute => s.incSat F.FAB_DROP_CNT_NOROUTE
    | .down => s.incSat F.FAB_DROP_CNT_DOWN
    | .out p =>
      if egressRoom s p vc < flitCount h.len then s.modFab (fun f => { f with outq := f.outq ++ [pkt] })
      else
        let (id, s) := newId s
        putEgress id p vc (toFlits (flitCount h.len) pkt) true s

/-- Whether FAB_CTL.HOLD holds a packet at its source: a request, of the first sending or a later one, or a COL packet. Responses,
forwarded data and MGMT go on (R275). -/
def heldBack (s : State) (pkt : List Byte) : Bool :=
  s.flag F.FAB_CTL_HOLD && (match opcClass (fieldLe pkt 0 1) with | some 0 => true | some 3 => true | _ => false)

/-- Packets that waited at their source for egress. -/
def pumpOut (s : State) : State :=
  let l := s.fab.outq
  l.foldl (fun s b => if heldBack s b then s.modFab (fun f => { f with outq := f.outq ++ [b] }) else inject b s)
    (s.modFab (fun f => { f with outq := [] }))

/-! ## QUIET: R275 -/

/-- No outstanding request, and no packet but MGMT in a buffer of a port, a router or a bridge. -/
def quietNow (s : State) : Bool :=
  s.fab.outst.isEmpty && s.fab.inbox.all (fun i => fieldLe i.bytes 0 1 == 0x30) &&
  s.fab.outq.all (fun b => fieldLe b 0 1 == 0x30) && s.fab.bridge.all (fun x => x.vc == 8) &&
  s.ports.all (fun p => p.2.ingress.all (fun i => i.vc == 8) && p.2.egress.all (fun e => e.vc == 8) &&
    p.2.replay.all (fun f => f.kind == 3 || f.vc == 8) &&
    (p.2.rx ++ p.2.held).all (fun f => !(fKind f == 1 || fKind f == 2) || fVc f == 8))

/-! ## Requests: R268 to R270 -/

/-- R273: a context's fabric domain. -/
def ctxDom (s : State) (ctx : Nat) : Nat := s.fld F.FAB_CTX_DOM_DOM ctx

/-- Queue a request; it is sent when its flow's window has room. -/
def request (r : Req) (s : State) : State := s.modFab (fun f => { f with queue := f.queue ++ [r] })

/-- Form a request's packet at a sending: SRC, SEQ, DOM, SSTAMP and RETX. -/
def formReq (s : State) (r : Req) (retx : Bool) : List Byte :=
  let h := Hdr.of r.pkt
  mkPacket { h with src := nodeId s, seq := r.seq, flow := r.flow, stamp := s.timebase,
                    flags := h.flags % 4 + (if retx then 4 else 0) } (payloadOf r.pkt)

/-- R268: whether the next SEQ of a flow fits its window. -/
def windowOpen (s : State) (flow : Nat) : Bool :=
  let l := s.fab.outst.filter (fun r => r.flow == flow)
  match l with
  | [] => true
  | r :: _ => l.length < 64 && (smGet 0 s.fab.lastSeq flow + 1 + 2 ^ 32 - r.seq) % 2 ^ 32 < 64

/-- A commit that changes the fabric's registers holds new requests (R417, R275). -/
def commitHoldsFabric (s : State) : Bool :=
  s.fld F.TXN_STAT_STATE = 2 && s.txn.shadows.any (fun kv =>
    match keyReg kv.1 with | some .FAB_NODE => true | some .FAB_DIM_CFG => true | some .FAB_RT => true | _ => false)

/-- Whether new requests may be injected: R275, R373. -/
def mayInject (s : State) : Bool := !(s.flag F.FAB_CTL_HOLD) && !(frozen s) && !(commitHoldsFabric s)

/-- Send one queued request. -/
def sendReq (r : Req) (s : State) : State :=
  let q := (smGet 0 s.fab.lastSeq r.flow + 1) % 2 ^ 32
  let r := { r with seq := q, sends := 1, sentAt := s.now }
  let s := s.modFab (fun f => { f with
    lastSeq := smSet 0 r.flow q f.lastSeq
    outst := f.outst ++ [r] })
  inject (formReq s r false) s

/-- Send the queued requests whose flows have room, in order of their queueing. -/
def pumpReqs (s : State) : State :=
  if !(mayInject s) then s
  else
    let l := s.fab.queue
    let s := s.modFab (fun f => { f with queue := [] })
    l.foldl (fun s r =>
      if windowOpen s r.flow && injectRoom s r.pkt && !(r.ret.any (fun p => !p.1 && heldRange s p.2.1 p.2.2)) then sendReq r s
      else s.modFab (fun f => { f with queue := f.queue ++ [r] })) s

/-- Drop queued requests of an owner, which waits for them no longer: after a failed remote access no further packet is
sent (R274). -/
def dropQueued (who : ReqWho) (s : State) : State :=
  let n := (s.fab.queue.filter (fun r => r.who == who)).length
  let s := s.modFab (fun f => { f with queue := f.queue.filter (fun r => r.who != who) })
  match who with
  | .vdma c t => modRun c 3 t (fun r => { r with outst := r.outst - n }) s
  | .fe r seq => modDesc r seq (fun d => { d with outst := d.outst - n }) s
  | .col _ _ _ => s

/-- R269: the outstanding request that a response answers. -/
def findReq (s : State) (h : Hdr) : Option Req := s.fab.outst.find? (fun r => r.flow == h.flow && r.seq == h.seq)

def endReq (r : Req) (s : State) : State :=
  s.modFab (fun f => { f with outst := f.outst.filter (fun x => !(x.flow == r.flow && x.seq == r.seq)) })

/-- A delivered packet leaves ingress: its credits are returned. -/
def leaveInbox (i : InPkt) (s : State) : State :=
  let s := s.modFab (fun f => { f with inbox := f.inbox.erase i })
  match i.src with
  | some (p, vc) => freeCredits p vc i.nfl s
  | none => s

/-- The first delivered packet of an opcode that waits for no page. -/
def firstPkt (opc : Nat) (s : State) : Option InPkt :=
  s.fab.inbox.find? (fun i => fieldLe i.bytes 0 1 == opc && !(s.fe.pri.any (fun w => w.who == .pkt i.bytes)))

/-- Take the first packet of an opcode from the delivered packets. -/
def takePkt (opc : Nat) (s : State) : Option (List Byte × State) :=
  (firstPkt opc s).map (fun i => (i.bytes, leaveInbox i (if opc = 0x30 then s else noise s)))

/-- Serve the first packet of an opcode. It stays in ingress while it waits for a page, and leaves once its response has
entered egress (R265). -/
def servePkt (opc : Nat) (act : List Byte → State → State) (s : State) : State :=
  match firstPkt opc s with
  | none => s
  | some i =>
    let t := act i.bytes (noise s)
    if t.fe.pri.any (fun w => w.who == .pkt i.bytes) then t else leaveInbox i t

/-- A packet comes to the front of those delivered. -/
def frontPkt (b : List Byte) (s : State) : State :=
  s.modFab (fun f => { f with inbox := f.inbox.filter (fun i => i.bytes == b) ++ f.inbox.filter (fun i => i.bytes != b) })

/-! ## Pieces of memory -/

/-- A run of bytes located for an access: device-physical, or host. -/
structure Piece where
  host : Bool
  addr : Nat
  len : Nat
deriving DecidableEq, Repr

/-- Locate [va, va + n), of an access that goes on to va + span, piece by piece, at most 64 bytes each: the pieces, or the first failure's code and address. -/
def pieces : Nat → Nat → Option Nat → Nat → Nat → Nat → Acs → State → (Option (Nat × Nat) × List Piece × State)
  | 0, _, _, _, _, _, _, s => (none, [], s)
  | k + 1, ctx, core, va, n, span, acs, s =>
    if n = 0 then (none, [], s)
    else
      let m := lineLeft va n
      match locate ctx core va m span acs s with
      | (.err c a, s) => (some (c, a), [], s)
      | (.phys a, s) =>
        let (e, l, s) := pieces k ctx core (va + m) (n - m) (span - m) acs s
        (e, ⟨false, a, m⟩ :: l, s)
      | (.host a, s) =>
        let (e, l, s) := pieces k ctx core (va + m) (n - m) (span - m) acs s
        (e, ⟨true, a, m⟩ :: l, s)

def locateAll (ctx : Nat) (core : Option Nat) (va n : Nat) (acs : Acs) (s : State) :
    Option (Nat × Nat) × List Piece × State := pieces (n / 64 + 2) ctx core va n n acs s

def anyHostPiece (l : List Piece) : Bool := l.any (fun p => p.host)

/-- Runs of adjacent host addresses in located pieces: first address and bytes. -/
def hostRuns : List Piece → List (Nat × Nat)
  | [] => []
  | p :: l =>
    if !p.host then hostRuns l
    else match hostRuns l with
      | (a, n) :: r => if a = p.addr + p.len then (p.addr, p.len + n) :: r else (p.addr, p.len) :: (a, n) :: r
      | [] => [(p.addr, p.len)]

/-- Issue the host reads that located pieces need, in order. -/
def askHost (ctx : Nat) (l : List Piece) (s : State) : State :=
  (hostRuns l).foldl (fun s r => emit (.hostRead ctx r.1 r.2) s) s

/-- Read located pieces; host bytes come from the host's answer. -/
def readPieces (s : State) : List Piece → List Byte → List Byte
  | [], _ => []
  | p :: l, h => if p.host then slice h 0 p.len ++ readPieces s l (h.drop p.len) else rdBytes s p.addr p.len ++ readPieces s l h

/-- The first poisoned address in located pieces. -/
def piecePoison (s : State) (l : List Piece) : Option Nat :=
  (l.find? (fun p => !p.host && poisoned s p.addr p.len)).map (fun p => firstPoison s p.addr p.len)

/-- Write bytes to located pieces for a context. -/
def writePieces (ctx : Nat) : List Piece → List Byte → Bool → State → State
  | [], _, _, s => s
  | p :: l, bs, poi, s =>
    let d := bs.take p.len
    let s := if p.host then emit (.hostWrite ctx p.addr d poi) s else store ctx p.addr d poi s
    writePieces ctx l (bs.drop p.len) poi s

/-! ## Targets: R271, R273, R274 -/

/-- Status codes of Table 12.7. -/
def stXLATE : Nat := 1
def stACCESS : Nat := 2
def stNOCTX : Nat := 3
def stPOISON : Nat := 4
def stBUSY : Nat := 5
def stMALFORMED : Nat := 6
/-- The requester's own TIMEOUT, held beside the codes. -/
def stTIMEOUT : Nat := 256
/-- Data that came back meets a reserved destination that the map in force no longer admits (R167). -/
def stLOCAL : Nat := 257

/-- R273, of the contexts that exist (R192). -/
def domCtx (s : State) (dom : Nat) : Option Nat :=
  (List.range 64).find? (fun n => ctxExists s n && s.flag F.FAB_CTX_DOM_EN n && ctxDom s n == dom)

def recKey (src flow : Nat) : Nat := src * 65536 + flow
def findRec (s : State) (key : Nat) : Option FlowRec := (s.fab.recs.find? (fun r => r.1 == key)).map (·.2)

/-- R271: the flow has no record and every record is in use. -/
def recsFull (s : State) (key : Nat) : Bool := (findRec s key).isNone && 4096 ≤ s.fab.recs.length

/-- How far SEQ x lies behind the highest of the flow's window, modulo 2^32. -/
def seqBehind (high x : Nat) : Nat := (high + 2 ^ 32 - x) % 2 ^ 32

/-- The flow has sent: its record exists and its lifetime starts again. -/
def touchRec (key : Nat) (s : State) : State :=
  s.modFab (fun f => { f with recs := smPut key { (smGet FlowRec.reset f.recs key) with last := s.now } f.recs })

/-- The answer that a SEQ was given when it was applied. A SEQ behind the flow's window of 64 belongs to a request that has
been answered (R268), so it is not applied again. -/
def applied (s : State) (key seq : Nat) : Option (Nat × Nat) :=
  (findRec s key).bind (fun r =>
    match (r.applied.find? (fun a => a.1 == seq)).map (·.2) with
    | some x => some x
    | none =>
      let d := seqBehind r.high seq
      if !r.applied.isEmpty && 64 ≤ d && d < 2 ^ 31 then some (0, 0) else none)

/-- A SEQ has been applied: the record keeps those of the flow's window. -/
def markApplied (key seq status old : Nat) (s : State) : State :=
  s.modFab (fun f =>
    let r := smGet FlowRec.reset f.recs key
    let high := if r.applied.isEmpty || 2 ^ 31 ≤ seqBehind r.high seq then seq else r.high
    let l := (r.applied ++ [(seq, status, old)]).filter (fun a => seqBehind high a.1 < 64)
    { f with recs := smPut key { r with applied := l, high := high } f.recs })

/-- Send the RSP or FWD that answers a packet in ingress: the packet waits there until egress has room for it (R265). -/
def answerPkt (pkt : List Byte) (s : State) : State :=
  if injectRoom s pkt then inject pkt s else { s with stall := true }

/-- A response to a request. -/
def respond (h : Hdr) (opc status dst orig addr arg0 : Nat) (poi : Bool) (payload : List Byte) (s : State) : State :=
  answerPkt (mkPacket { Hdr.zero with
    opc := opc, status := status, dst := dst, src := nodeId s, dom := h.dom, flow := h.flow, seq := h.seq, sig := h.sig,
    orig := orig, addr := addr, arg0 := arg0, stamp := s.timebase, flags := if poi then 1 else 0 } payload) s

/-- The response opcode of a request opcode. -/
def rspOpc : Nat → Nat
  | 2 => 0x11 | 3 => 0x12 | _ => 0x10

/-- An answer without data: a GET's names its return address, the others hold no address. -/
def ackReq (h : Hdr) (status old : Nat) (s : State) : State :=
  respond h (rspOpc h.opc) status h.src 0 (if h.opc = 2 then h.arg0 % 2 ^ 48 else 0) old false [] s

/-- Status of a location failure: a walk that reads poison answers ACCESS (Table 8.10). -/
def errStatus (code : Nat) : Nat := if code = cXLATE then stXLATE else stACCESS

/-- A piece in the scratchpad of a core held in reset (R278). -/
def inResetPad (s : State) (l : List Piece) : Bool :=
  l.any (fun p => !p.host && (match region s p.addr with | .pad c _ => (s.core c).inReset | _ => false))

/-- What locating a fabric access gives. -/
inductive Tgt where
  | ok (l : List Piece)
  | fail (status : Nat)
  /-- The host side is denied and the context is faultable: a page request is issued, and the request waits (R197). -/
  | wait (addr : Nat)
deriving DecidableEq, Repr

/-- Locate [addr, addr + n) for a fabric request of context ctx. -/
def target (ctx addr n : Nat) (acs : Acs) (host : HostAns) (s : State) : Tgt × State :=
  if 2 ^ 48 ≤ addr then (.fail stXLATE, s)
  else match locateAll ctx none addr n acs s with
    | (some (c, _), _, s) => (.fail (errStatus c), s)
    | (none, l, s) =>
      if inResetPad s l then (.fail stACCESS, s)
      else if anyHostPiece l && host.denied then
        let a := ((l.find? (fun p => p.host)).map (·.addr)).getD 0
        if s.flag F.FE_CTX_CFG_FAULTABLE ctx then (.wait a, s) else (.fail stXLATE, s)
      else (.ok l, s)

/-- A packet waits in ingress for the answer to a page request. -/
def waitPage (ctx addr : Nat) (pkt : List Byte) (s : State) : State :=
  if s.fe.pri.any (fun w => w.who == .pkt pkt) then s
  else
    let s := s.modFe (fun f => { f with pri := f.pri ++ [⟨ctx, addr, .pkt pkt⟩] })
    if (s.fe.pri.filter (fun w => w.ctx == ctx)).length ≤ 32 then emit (.pageRequest ctx addr) s else s

/-- Translate a SIG_ID for a remote signal (R225, R273): the word, if it is translated. -/
def remoteSid (ctx sid : Nat) (s : State) : Option Nat × State :=
  match xlateSid ctx sid .remote s with
  | (.word a, s) => (some a, s)
  | (_, s) => (none, s)

/-- Table 12.8 on 8-byte words. -/
def aopInt (op old a b : Nat) : Option Nat :=
  let o := wN old
  let v := wN a
  match op with
  | 0x00 => some (o + v).toNat
  | 0x01 => some (o &&& v).toNat
  | 0x02 => some (o ||| v).toNat
  | 0x03 => some (o ^^^ v).toNat
  | 0x04 => some (if o.toInt < v.toInt then v else o).toNat
  | 0x05 => some (max o.toNat v.toNat)
  | 0x06 => some (if v.toInt < o.toInt then v else o).toNat
  | 0x07 => some (min o.toNat v.toNat)
  | 0x08 => some v.toNat
  | 0x09 => some (if o == wN b then v else o).toNat
  | _ => none

/-- FADD32: RNE, no flag. -/
def aopFadd (old a : Nat) : Nat :=
  (toFp fFP32 (Ctl.ofByte 0) 0 (numAdd false (decodeFp fFP32 (old % 2 ^ 32)) (decodeFp fFP32 (a % 2 ^ 32))).1).code

/-- Bytes of the word an AOP acts on; none if reserved. -/
def aopBytes (op : Nat) : Option Nat := if op ≤ 9 then some 8 else if op = 0x10 then some 4 else none

/-- Perform an atomic operation on a located word. The old value, and the state with the new one. -/
def atomicAt (ctx a op arg0 arg1 : Nat) (s : State) : Nat × State :=
  let n := (aopBytes op).getD 8
  let old := rdNat s a n
  let new := if op = 0x10 then aopFadd old arg0 else (aopInt op old arg0 arg1).getD old
  let s := match region s a with | .hbm => flushAt a s | _ => s
  (old, store ctx a (natLe n new) false s)

/-- A request that is applied at most once: `act` when it is new, its answer again when it is not. -/
def onceOnly (h : Hdr) (src : Nat) (answer : Nat → Nat → State → State) (act : State → State) (s : State) : State :=
  let key := recKey src h.flow
  if recsFull s key then answer stBUSY 0 s
  else
    let s := touchRec key s
    match applied s key h.seq with
    | some (st, old) => answer st old s
    | none => act s

/-- PUT (R271). -/
def opPut (host : HostAns) (s : State) : State :=
  servePkt 1 (fun pkt s =>
    let h := Hdr.of pkt
    let key := recKey h.src h.flow
    let ans (st old : Nat) (s : State) : State := ackReq h st old s
    onceOnly h h.src ans (fun s =>
      if 4096 < h.len then ans stMALFORMED 0 s
      else match domCtx s h.dom with
        | none => ans stNOCTX 0 s
        | some ctx =>
          match target ctx h.addr h.len .w host s with
          | (.fail st, s) => ans st 0 s
          | (.wait a, s) => waitPage ctx a pkt s
          | (.ok l, s) =>
            let (word, s) : Option Nat × State := if bitN h.flags 1 then remoteSid ctx h.sig s else (none, s)
            if bitN h.flags 1 && word.isNone then ans stXLATE 0 s
            else
              let poi := bitN h.flags 0
              let s := writePieces ctx l (payloadOf pkt) poi s
              let s := match word with | some a => signal ctx a h.arg1 s | none => s
              let st := if poi then stPOISON else 0
              ans st 0 (markApplied key h.seq st 0 s)) s) s

/-- Read for a GET or GETF: pieces, bytes, poison. -/
def readFor (ctx : Nat) (l : List Piece) (host : HostAns) (s : State) : List Byte × Bool × State :=
  let s := askHost ctx l s
  let bs := readPieces s l host.data
  match piecePoison s l with
  | some a => (bs, true, consumed (some ctx) a s)
  | none =>
    if anyHostPiece l && host.poisoned then (bs, true, deferred (some ctx) 6 0 14 0 0 s) else (bs, false, s)

/-- GET (R271): carried out again on every copy. -/
def opGet (host : HostAns) (s : State) : State :=
  servePkt 2 (fun pkt s =>
    let h := Hdr.of pkt
    let key := recKey h.src h.flow
    let n := bitsN h.arg1 0 13
    if recsFull s key then ackReq h stBUSY 0 s
    else
      let s := touchRec key s
      if 4096 < h.len || n = 0 || 4096 < n then ackReq h stMALFORMED 0 s
      else match domCtx s h.dom with
        | none => ackReq h stNOCTX 0 s
        | some ctx =>
          match target ctx h.addr n .r host s with
          | (.fail st, s) => ackReq h st 0 s
          | (.wait a, s) => waitPage ctx a pkt s
          | (.ok l, s) =>
            let (bs, poi, s) := readFor ctx l host s
            respond h 0x11 (if poi then stPOISON else 0) h.src 0 (h.arg0 % 2 ^ 48) 0 poi bs s) s

/-- ATOMIC (R271, R273). -/
def opAtomic (s : State) : State :=
  servePkt 3 (fun pkt s =>
    let h := Hdr.of pkt
    let op := bitsN h.arg2 0 8
    let ans (st old : Nat) (s : State) : State := ackReq h st old s
    onceOnly h h.src ans (fun s =>
      match aopBytes op with
      | none => ans stMALFORMED 0 s
      | some n =>
        if 4096 < h.len || h.addr % n != 0 then ans stMALFORMED 0 s
        else match domCtx s h.dom with
          | none => ans stNOCTX 0 s
          | some ctx =>
            match target ctx h.addr n .rw ⟨false, false, [], 0⟩ s with
            | (.fail st, s) => ans st 0 s
            | (.wait _, s) => ans stACCESS 0 s
            | (.ok l, s) =>
              match l with
              | ⟨false, a, _⟩ :: _ =>
                if poisoned s a n then ans stACCESS 0 (consumed (some ctx) a s)
                else
                  let (old, s) := atomicAt ctx a op h.arg0 h.arg1 s
                  ans 0 old (markApplied (recKey h.src h.flow) h.seq 0 old s)
              | _ => ans stACCESS 0 s) s) s

/-- SIGNAL (R271, R273). -/
def opSignalReq (s : State) : State :=
  servePkt 4 (fun pkt s =>
    let h := Hdr.of pkt
    let ans (st old : Nat) (s : State) : State := ackReq h st old s
    onceOnly h h.src ans (fun s =>
      if 4096 < h.len then ans stMALFORMED 0 s
      else match domCtx s h.dom with
        | none => ans stNOCTX 0 s
        | some ctx =>
          match remoteSid ctx h.sig s with
          | (none, s) => ans stXLATE 0 s
          | (some a, s) => ans 0 0 (markApplied (recKey h.src h.flow) h.seq 0 0 (signal ctx a h.arg1 s))) s) s

/-- GETF: read, and deliver the data to the third node named in ARG0. -/
def opGetf (host : HostAns) (s : State) : State :=
  servePkt 5 (fun pkt s =>
    let h := Hdr.of pkt
    let key := recKey h.src h.flow
    let n := bitsN h.arg1 0 13
    if recsFull s key then ackReq h stBUSY 0 s
    else
      let s := touchRec key s
      if 4096 < h.len || n = 0 || 4096 < n then ackReq h stMALFORMED 0 s
      else match domCtx s h.dom with
        | none => ackReq h stNOCTX 0 s
        | some ctx =>
          match target ctx h.addr n .r host s with
          | (.fail st, s) => ackReq h st 0 s
          | (.wait a, s) => waitPage ctx a pkt s
          | (.ok l, s) =>
            let (bs, poi, s) := readFor ctx l host s
            answerPkt (mkPacket { Hdr.zero with
              opc := 0x18, dst := bitsN h.arg0 48 16, src := nodeId s, dom := h.dom, flow := h.flow, seq := h.seq,
              sig := h.sig, orig := h.src, addr := bitsN h.arg0 0 48, stamp := s.timebase,
              flags := if poi then 1 else 0 } bs) s) s

/-- FWD_DATA: write, and answer the original requester. -/
def opFwd (host : HostAns) (s : State) : State :=
  servePkt 0x18 (fun pkt s =>
    let h := Hdr.of pkt
    let ans (st _old : Nat) (s : State) : State := respond h 0x10 st h.orig h.orig 0 0 false [] s
    onceOnly h h.orig ans (fun s =>
      if 4096 < h.len then ans stMALFORMED 0 s
      else match domCtx s h.dom with
        | none => ans stNOCTX 0 s
        | some ctx =>
          match target ctx h.addr h.len .w host s with
          | (.fail st, s) => ans st 0 s
          | (.wait a, s) => waitPage ctx a pkt s
          | (.ok l, s) =>
            let poi := bitN h.flags 0
            let st := if poi then stPOISON else 0
            ans st 0 (markApplied (recKey h.orig h.flow) h.seq st 0 (writePieces ctx l (payloadOf pkt) poi s))) s) s

/-- The page that the packet in front waits for is refused: it is answered with XLATE. -/
def refusePkt (s : State) : State :=
  match s.fab.inbox with
  | [] => s
  | i :: _ =>
    let h := Hdr.of i.bytes
    leaveInbox i (if h.opc = 0x18 then respond h 0x10 stXLATE h.orig h.orig 0 0 false [] s else ackReq h stXLATE 0 s)

/-! ## Forwarding: R257, R260, R262, R263, R267 -/

/-- Credits of flits that leave ingress go back to the partner, unless they are of a link that has gone down. -/
def freeIn (p : Nat) (i : IPkt) (n : Nat) (s : State) : State := if i.old then s else freeCredits p i.vc n s

/-- An ingress packet is now `j`, or is gone; its VC has advanced. -/
def setIngress (p : Nat) (i : IPkt) (j : Option IPkt) (s : State) : State :=
  let upd (l : List IPkt) : List IPkt :=
    match j with
    | none => l.erase i
    | some j => l.map (fun x => if x == i then j else x)
  tick p (16 + i.vc) (s.modPort p (fun k => { k with ingress := upd k.ingress }))

/-- Move the flits an ingress packet holds to the next place of the packet it is forwarded into, as far as there is room.
What follows of a packet whose next place is gone is discarded with it (R277). -/
def moveFlits (p : Nat) (i : IPkt) (id q : Nat) (first : Bool) (s : State) : State :=
  let d := portDie p
  if !first && !(nextHas s id d q) then
    freeIn p i i.flits.length (setIngress p i (if i.whole then none else some { i with flits := [] }) s)
  else
    let n := min (placeRoom s id d q i.evc) i.flits.length
    if n = 0 then s
    else
      let rest := i.flits.drop n
      let gone := i.whole && rest.isEmpty
      let s := place id i.evc d q (i.flits.take n) gone s
      freeIn p i n (setIngress p i (if gone then none else some { i with flits := rest, out := some (id, q) }) s)

/-- Discard a packet in ingress and return its credits. Of one in part arrived, the rest is discarded as it arrives. -/
def dropIngress (p : Nat) (i : IPkt) (s : State) : State :=
  let (id, s) := newId s
  freeIn p i i.flits.length (setIngress p i (if i.whole then none else some { i with flits := [], out := some (id, p) }) s)

/-- The header's first flit with HOPS one less. -/
def decHops (b : List Byte) : List Byte := b.take 2 ++ natLe 1 (fieldLe b 2 1 - 1) ++ b.drop 3

/-- PACKET_ROUTE: the oldest packet of a VC in a port's ingress. -/
def opRoute (p vc : Nat) (s : State) : State :=
  match (s.port p).ingress.find? (fun i => i.vc == vc) with
  | none => s
  | some i =>
    let s := if vc = 8 then s else noise s
    match i.out with
    | some (id, q) => moveFlits p i id q false s
    | none =>
      let h := Hdr.of (pktHeader i.flits)
      match opcClass h.opc with
      | none => (dropIngress p i s).incSat F.FAB_DROP_CNT_PCRC
      | some _ =>
        match nextHop s i.evc h.dst h.src h.flow with
        | .deliver =>
          if !i.whole then s
          else
            let b := (i.flits.flatten).take (64 + h.len)
            if i.count != flitCount h.len || !(pcrcOk b) then linkCe p ((dropIngress p i s).incSat F.FAB_DROP_CNT_PCRC)
            else
              let s := setIngress p i none s
              s.modFab (fun f => { f with inbox := f.inbox ++ [⟨if i.old then none else some (p, vc), i.flits.length, b⟩] })
        | hop =>
          if h.hops = 0 then (dropIngress p i s).incSat F.FAB_DROP_CNT_HOPS
          else match hop with
            | .out q =>
              if placeRoom s s.fab.nextId (portDie p) q i.evc = 0 then s
              else
                let (id, s) := newId s
                let i' := { i with flits := match i.flits with | f :: l => decHops f :: l | [] => [] }
                moveFlits p i' id q true
                  (s.modPort p (fun k => { k with ingress := k.ingress.map (fun x => if x == i then i' else x) }))
            | .noRoute => (dropIngress p i s).incSat F.FAB_DROP_CNT_NOROUTE
            | _ => (dropIngress p i s).incSat F.FAB_DROP_CNT_DOWN

/-! ### Bridges: R262 -/

def setBridge (x : BrPkt) (y : Option BrPkt) (s : State) : State :=
  s.modFab (fun f => { f with bridge := match y with
    | none => f.bridge.erase x
    | some y => f.bridge.map (fun z => if z == x then y else z) })

/-- The packet at the head of a VC of a bridge goes on: to the next bridge, or into the egress of its port. A packet that
finds its port down takes the other port of its direction, or is discarded (R259, R277). -/
def bridgeStep (x : BrPkt) (s : State) : State :=
  let hdr := pktHeader x.flits
  let t := s.now
  if x.flits.isEmpty then s
  else if x.begun && !(nextHas s x.id x.b x.q) then
    setBridge x (if x.whole then none else some { x with flits := [] }) s
  else
    let hop : Hop := if x.begun || portDie x.q != x.b then .out x.q else nextHop s x.vc (hDst hdr) (hSrc hdr) (hFlow hdr)
    match hop with
    | .out q =>
      let n := min (placeRoom s x.id x.b q x.vc) x.flits.length
      if n = 0 then s
      else
        let rest := x.flits.drop n
        let gone := x.whole && rest.isEmpty
        setBridge x (if gone then none else some { x with q := q, flits := rest, begun := true, since := t })
          (place x.id x.vc x.b q (x.flits.take n) gone s)
    | .noRoute => (setBridge x (if x.whole then none else some { x with flits := [], begun := true }) s).incSat F.FAB_DROP_CNT_NOROUTE
    | _ => (setBridge x (if x.whole then none else some { x with flits := [], begun := true }) s).incSat F.FAB_DROP_CNT_DOWN

/-- Whether no other packet of its VC stands before a packet on its bridge. -/
def bridgeHead (s : State) (x : BrPkt) : Bool :=
  s.fab.bridge.find? (fun y => y.a == x.a && y.b == x.b && y.vc == x.vc) == some x

/-- Every packet on a bridge goes on as far as there is room; a packet crosses two bridges at most. -/
def pumpBridges (s : State) : State :=
  let pass (s : State) : State :=
    (s.fab.bridge.map (·.id)).foldl (fun s id =>
      match s.fab.bridge.find? (fun x => x.id == id && bridgeHead s x) with
      | some x => bridgeStep x s
      | none => s) s
  if s.fab.bridge.isEmpty then s else pass (pass s)

/-! ### Escape: R263 -/

/-- The time of ESCAPE_TIMEOUT for a head that last advanced at t. -/
def escapeAt (t : Nat) (s : State) : State := passTo (t + s.fld F.FAB_ESC_CTL_TMO * 10) s

/-- What follows of a packet goes the way that its head now takes. -/
def follow (id q : Nat) (s : State) : State :=
  { s.modFab (fun f => { f with bridge := f.bridge.map (fun x => if x.id == id then { x with q := q } else x) }) with
    ports := s.ports.map (fun kv => (kv.1, { kv.2 with ingress := kv.2.ingress.map (fun i =>
      match i.out with
      | some (k, _) => if k == id then { i with out := some (id, q) } else i
      | none => i) })) }

/-- Whether the head of a normal VC of a port's egress can move to the escape VC of its class now. -/
def egressCan (s : State) (p vc : Nat) (e : EPkt) : Bool :=
  let h := pktHeader e.flits
  match nextHop s (vc + 4) (hDst h) (hSrc h) (hFlow h) with
  | .out q => e.flits.length ≤ placeRoom s s.fab.nextId (portDie p) q (vc + 4)
  | .deliver => false
  | _ => true

/-- The head of a normal VC of a port's egress, none of whose flits has been sent, goes on an escape VC. -/
def escapeEgress (p vc : Nat) (e : EPkt) (s : State) : State :=
  let s := escapeAt (smGet 0 (s.port p).adv vc) s
  let h := pktHeader e.flits
  let drop (s : State) : State := tick p vc (s.modPort p (fun k => { k with egress := k.egress.erase e }))
  match nextHop s (vc + 4) (hDst h) (hSrc h) (hFlow h) with
  | .out q =>
    if !(egressCan s p vc e) then s
    else (place e.id (vc + 4) (portDie p) q e.flits e.whole (follow e.id q (drop s))).incSat F.FAB_TP_CNT_ESC
  | .noRoute => (drop s).incSat F.FAB_DROP_CNT_NOROUTE
  | .down => (drop s).incSat F.FAB_DROP_CNT_DOWN
  | .deliver => s

/-- The head of a normal VC of a port's ingress, none of whose flits has gone on, goes on with an escape VC. -/
def escapeIngress (p vc : Nat) (i : IPkt) (s : State) : State :=
  let s := escapeAt (smGet 0 (s.port p).adv (16 + vc)) s
  opRoute p vc ((setIngress p i (some { i with evc := vc + 4 }) s).incSat F.FAB_TP_CNT_ESC)

/-- Whether the escape VC of a bridge has room for a packet of it. -/
def bridgeCan (s : State) (x : BrPkt) : Bool :=
  bridgeLoad s x.a x.b (x.vc + 4) + x.flits.length ≤ bridgeCredits (x.vc + 4)

/-- The head of a normal VC of a bridge, none of whose flits has gone on, goes on with an escape VC. -/
def escapeBridge (x : BrPkt) (s : State) : State :=
  let s := escapeAt x.since s
  let h := pktHeader x.flits
  match nextHop s (x.vc + 4) (hDst h) (hSrc h) (hFlow h) with
  | .out q =>
    if !(bridgeCan s x) then s
    else
      let s := setBridge x none s
      (s.modFab (fun f => { f with bridge := f.bridge ++ [{ x with vc := x.vc + 4, q := q, since := s.now }] })).incSat F.FAB_TP_CNT_ESC
  | .noRoute => (setBridge x (if x.whole then none else some { x with flits := [], begun := true }) s).incSat F.FAB_DROP_CNT_NOROUTE
  | _ => (setBridge x (if x.whole then none else some { x with flits := [], begun := true }) s).incSat F.FAB_DROP_CNT_DOWN

/-- Whether the head of a VC of a port's ingress waits for room beyond it. -/
def ingressBlocked (s : State) (p vc : Nat) (i : IPkt) : Bool :=
  let h := Hdr.of (pktHeader i.flits)
  i.out.isNone && i.evc == vc && !i.flits.isEmpty && h.hops != 0 && (opcClass h.opc).isSome &&
  (match nextHop s vc h.dst h.src h.flow with
   | .out q => placeRoom s s.fab.nextId (portDie p) q vc == 0
   | _ => false)

/-- ESCAPE_TIMEOUT: the head of a normal VC that has not advanced for FAB_ESC_CTL.TMO moves to the escape VC of its class:
that of the port's egress, of its ingress, or of a bridge on the way to the port, the first of these that can move. A packet of
which flits have gone on keeps its VC on this hop. -/
def opEscape (p vc : Nat) (s : State) : State :=
  let k := s.port p
  let out := (k.egress.find? (fun e => e.vc == vc)).filter (fun e =>
    !e.begun && !e.flits.isEmpty && !(creditLeft k vc && portActive s p && replayRoom s p) && egressCan s p vc e)
  let inn := (k.ingress.find? (fun i => i.vc == vc)).filter (fun i => ingressBlocked s p vc i)
  let br := s.fab.bridge.find? (fun x => x.q == p && x.vc == vc && bridgeHead s x && !x.begun && !x.flits.isEmpty &&
    placeRoom s x.id x.b x.q x.vc == 0 && bridgeCan s x)
  match out, inn, br with
  | some e, _, _ => escapeEgress p vc e s
  | none, some i, _ => escapeIngress p vc i s
  | none, none, some x => escapeBridge x s
  | none, none, none => s

end Sys2Proof.Machine
end

