-- ==== Sys2Proof/Machine/Operands.lean ====
section
/-! DEFINITION. Operand forms of the engines: format descriptors (Table 3.5, R39), packed elements (R32), block scales
(R40), and reads of the scratchpad with their poison. -/

namespace Sys2Proof.Machine

/-- A format descriptor. -/
structure Fd where
  fmt : Nat
  share : Nat
  blk : Nat
  rsv : Nat
deriving DecidableEq, Repr

def Fd.of (v : Nat) : Fd := ⟨bitsN v 0 4, bitsN v 4 2, bitsN v 6 7, bitsN v 13 3⟩

/-- R31 and R39. -/
def Fd.ok (d : Fd) : Bool :=
  d.rsv == 0 && d.fmt < 0xE &&
  (if d.share = 0 then d.blk == 0
   else 3 ≤ d.fmt && d.fmt ≤ 9 && (if d.share = 3 then d.blk == 64 else [8, 16, 32, 64].contains d.blk))

/-- Block shape (Bd, Bk) of R40. -/
def Fd.shape (d : Fd) : Nat × Nat :=
  match d.share with | 1 => (1, d.blk) | 2 => (d.blk, 1) | _ => (8, 8)

/-- R40: scale-array entry of element (dd, k) of an operand with K extent kk. -/
def Fd.scaleIx (d : Fd) (dd k kk : Nat) : Nat :=
  let (bd, bk) := d.shape
  dd / bd * ceilDiv kk bk + k / bk

/-- Bytes of scratchpad that hold packed elements [k, k + n) of a row: first byte and length. -/
def packSpan (bits k n : Nat) : Nat × Nat :=
  let b0 := k * bits / 8
  let b1 := ceilDiv ((k + n) * bits) 8
  (b0, b1 - b0)

/-- The code of packed element k of a row that starts at a device-physical address (R32: a little-endian bit stream). -/
def elemAt (s : State) (row bits k : Nat) : Nat :=
  let p := k * bits
  let n := ceilDiv (p % 8 + bits) 8
  bitsN (rdNat s (row + p / 8) n) (p % 8) bits

/-- Whether the scratchpad words under packed elements [k, k + n) are poisoned. -/
def elemsPoisoned (s : State) (row bits k n : Nat) : Bool :=
  let (o, len) := packSpan bits k n
  poisoned s (row + o) len

/-- Storage alignment of an element in bytes (R115). -/
def storeAlign (fmt : Nat) : Nat :=
  match fmtBits fmt with | 64 => 8 | 32 => 4 | 16 => 2 | 6 => 3 | _ => 1

end Sys2Proof.Machine
end

