-- ==== Sys2Proof/Machine/Special.lean ====
section
/-! DEFINITION. The accuracy bound of the special functions (R132): a fixed-point evaluation of each function with an error
far below an ulp, which tells the codes within 2 ulp of the exact result from the others. The fixed map itself is known
only to the vendor's reference; it is free within this bound. -/

namespace Sys2Proof.Machine

/-! ## Fixed point: integers in units of 2^-600 -/

def fxBits : Nat := 600
def fxOne : Int := 2 ^ fxBits

/-- A finite FP32 value, exact in fixed point. -/
def fxOf (n : Bool) (m : Nat) (e : Int) : Int := onGrid n m e (-(fxBits : Int))

def fxMul (a b : Int) : Int := a * b / fxOne

/-- The sum of t, t r / k, t r² / (k (k + 1)), ... : n terms of the exponential series from its term t. -/
def expSeries (r : Int) : Nat → Nat → Int → Int
  | 0, _, _ => 0
  | n + 1, k, t => t + expSeries r n (k + 1) (fxMul t r / (k : Int))

/-- e^r for r from 0 to 1. -/
def fxExp (r : Int) : Int := expSeries r 150 1 fxOne

/-- The sum of t / k, t q / (k + 2), t q² / (k + 4), ... : n terms. -/
def oddSeries (q : Int) : Nat → Nat → Int → Int
  | 0, _, _ => 0
  | n + 1, k, t => t / (k : Int) + oddSeries q n (k + 2) (fxMul t q)

/-- atanh z for z from 0 to 1/3. -/
def fxAtanh (z : Int) : Int := oddSeries (fxMul z z) 200 1 z

/-- atan (1 / n) for n at least 5. -/
def fxAtanInv (n : Int) : Int := oddSeries (-(fxOne / (n * n))) 150 1 (fxOne / n)

def fxLn2 : Int := 2 * fxAtanh (fxOne / 3)

/-- π / 2, by Machin's formula. -/
def fxHalfPi : Int := 8 * fxAtanInv 5 - 2 * fxAtanInv 239

/-- The sine (start 1) or cosine (start 0) of r from -1 to 1, from its first term. -/
def trigSeries (r2 : Int) : Nat → Nat → Int → Int
  | 0, _, _ => 0
  | n + 1, k, t => t + trigSeries r2 n (k + 2) (-(fxMul t r2 / ((k + 1) * (k + 2) : Int)))

def fxSin (r : Int) : Int := trigSeries (fxMul r r) 80 1 r
def fxCos (r : Int) : Int := trigSeries (fxMul r r) 80 0 fxOne

/-! ## The functions: a value y 2^q, with y an integer -/

/-- 2^x for x in fixed point. Below -300 the value stands for every smaller one: all lie far below half an ulp of zero. -/
def exp2Val (x : Int) : Int × Int :=
  let x := max x (-300 * fxOne)
  let k := x / fxOne
  (fxExp (fxMul (x - k * fxOne) fxLn2), k - fxBits)

/-- log2 of m 2^e. -/
def log2Val (m : Nat) (e : Int) : Int × Int :=
  let n : Nat := Nat.log2 m
  let z := ((m : Int) - 2 ^ n) * fxOne / ((m : Int) + 2 ^ n)
  (((n : Int) + e) * fxOne + 2 * fxAtanh z * fxOne / fxLn2, -(fxBits : Int))

/-- tanh of a positive m 2^e. -/
def tanhVal (m : Nat) (e : Int) : Int × Int :=
  if 6 ≤ expOf m e then (fxOne - 1, -(fxBits : Int))
  else
    let (y, q) := exp2Val (2 * fxOf false m e * fxOne / fxLn2)
    let x : Int := y * 2 ^ (q + fxBits).toNat
    ((x - fxOne) * fxOne / (x + fxOne), -(fxBits : Int))

/-- sin of x, and cos, in fixed point. -/
def sinVal (x : Int) : Int :=
  let k := (x + fxHalfPi / 2) / fxHalfPi
  let r := x - k * fxHalfPi
  match (k % 4).toNat with
  | 0 => fxSin r | 1 => fxCos r | 2 => -(fxSin r) | _ => -(fxCos r)

/-- The value of special function `op` of Table 6.4 at a finite operand, as y 2^q. -/
def specialVal (op : Nat) (n : Bool) (m : Nat) (e : Int) : Int × Int :=
  match op with
  | 0x60 => exp2Val (fxOf n m e)
  | 0x61 => log2Val m e
  | 0x62 => let y : Int := ((2 ^ (fxBits + Nat.log2 m) / m : Nat) : Int)
            (if n then -y else y, -(fxBits + Nat.log2 m : Int) - e)
  | 0x63 =>
    let (m, e) := if e % 2 = 0 then (m, e) else (2 * m, e - 1)
    (((isqrt (2 ^ (2 * fxBits) / m) : Nat) : Int), -(fxBits : Int) - e / 2)
  | 0x64 => let (y, q) := tanhVal m e; (if n then -y else y, q)
  | 0x65 => (sinVal (fxOf n m e), -(fxBits : Int))
  | _ => (sinVal (fxOf n m e + fxHalfPi), -(fxBits : Int))

/-- Exact value of y 2^q. -/
def valNum (v : Int × Int) : Num := mkFin (v.1 < 0) v.1.natAbs v.2

/-- The exact result, to far below an ulp, at a finite operand. -/
def specialAt (op : Nat) : Num → Num
  | .fin n m e => valNum (specialVal op n m e)
  | x => x

/-- The spacing of a format at a value, as a power of 2: subnormal spacing below its smallest normal, and the spacing of
its largest numbers above them. -/
def ulpExp (f : FpFmt) : Num → Int
  | .fin _ m e => min (max (expOf m e) (1 - (f.bias : Int))) f.bias - f.mb
  | _ => 1 - (f.bias : Int) - f.mb

/-- Whether code `c` of a format is a number at most k ulp from y. -/
def nearCode (f : FpFmt) (k c : Nat) (y : Num) : Bool :=
  let x := decodeFp f c
  x.isFinNum &&
    (match (numAdd false x y.negate).1 with
      | .fin _ m e => !(magLt k (ulpExp f y) m e)
      | .zero _ => true
      | _ => false)

/-- R132: the FP32 code of the fixed map for a finite operand, which lies within 2 ulp of the exact result. The map is
free among those codes: `Config.specialF32` picks one, or else the nearest stands. -/
def specialCode (op code : Nat) (y : Num) : Nat :=
  let c := (Config.specialF32 op (BitVec.ofNat 32 code)).toNat
  if nearCode fFP32 2 c y then c else (toFp fFP32 ⟨.rne, true, false⟩ 0 y).code

end Sys2Proof.Machine
end

