-- ==== Sys2Proof/Machine/Lane.lean ====
section
/-! DEFINITION. One lane of the vector engine (chapter 06): element types (Table 6.1), conversion between them (R121),
the element-wise operations (R119, R120, R122, R123) and the special functions (R132, R133). Register mode and stream
mode both compute through these (R128). -/

namespace Sys2Proof.Machine

/-- ETYPE values (Table 6.1). -/
def tF32 : Nat := 0
def tBF16 : Nat := 1
def tF16 : Nat := 2
def tI32 : Nat := 3
def tU32 : Nat := 4
def tI16 : Nat := 5
def tFA40F : Nat := 6
def tFA40I : Nat := 7

def etCap : Nat → Nat
  | 1 => 1024 | 2 => 1024 | 5 => 1024 | 6 => 256 | 7 => 256 | _ => 512
def etBytes : Nat → Nat
  | 1 => 2 | 2 => 2 | 5 => 2 | 6 => 8 | 7 => 8 | _ => 4
def isFloatT (t : Nat) : Bool := t ≤ 2
def isIntT (t : Nat) : Bool := 3 ≤ t && t ≤ 5
def etWidth (t : Nat) : Nat := if t = 5 || t = 1 || t = 2 then 16 else 32
def etFp : Nat → FpFmt
  | 1 => fBF16 | 2 => fFP16 | _ => fFP32

/-- Exact value of an element of a type. -/
def etNum (t code : Nat) : Num :=
  match t with
  | 3 => numOfInt (toSigned 32 code)
  | 4 => numOfInt ((code % 2 ^ 32 : Nat) : Int)
  | 5 => numOfInt (toSigned 16 code)
  | 6 => decodeFa40 code
  | 7 => numOfInt (toSigned 40 code)
  | t => decodeFp (etFp t) code

/-- Convert an exact value into a type under a control (R44, R121). -/
def toEt (t : Nat) (c : Ctl) (U : Nat) (x : Num) : Res :=
  match t with
  | 3 => toInt 32 true c U x
  | 4 => toInt 32 false c U x
  | 5 => toInt 16 true c U x
  | 6 => toCode 0xB false c U x
  | 7 => toInt 40 true c U x
  | t => toFp (etFp t) c U x

/-- R121: the pairs CVT permits. -/
def cvtOk (src dst : Nat) : Bool :=
  if src = 6 then dst ≤ 2
  else if dst = 6 then src ≤ 2
  else if src = 7 then isIntT dst || dst == 0
  else if dst = 7 then isIntT src
  else true

/-! ## Arithmetic on codes -/

/-- Round an exact result once to a floating type. -/
def fres (t : Nat) (c : Ctl) (x : Num) (fl : Nat) : Res :=
  let r := toFp (etFp t) c 0 x
  ⟨r.code, r.flags ||| fl⟩

def rdnOf (c : Ctl) : Bool := c.rnd == .rdn

def fadd2 (t : Nat) (c : Ctl) (a b : Num) : Res :=
  let (x, fl) := numAdd (rdnOf c) a b
  fres t c x fl

/-- FMA: the product is not rounded (R119). -/
def fmaRes (t : Nat) (c : Ctl) (a b d : Num) : Res :=
  let (p, f1) := numMul a b
  let (x, f2) := numAdd (rdnOf c) p d
  fres t c x (f1 ||| f2 ||| sigFlags [d])

def fdivRes (t : Nat) (c : Ctl) (a b : Num) : Res :=
  let fl := sigFlags [a, b]
  let n := a.isNeg != b.isNeg
  match a, b with
  | .nan _, _ => fres t c (.nan false) fl
  | _, .nan _ => fres t c (.nan false) fl
  | .inf _, .inf _ => fres t c (.nan false) flNV
  | .zero _, .zero _ => fres t c (.nan false) flNV
  | .inf _, _ => fres t c (.inf n) fl
  | _, .inf _ => fres t c (.zero n) fl
  | .zero _, _ => fres t c (.zero n) fl
  | _, .zero _ => fres t c (.inf n) flDZ
  | .fin _ m1 e1, .fin _ m2 e2 => let (m, e) := divMag m1 e1 m2 e2; fres t c (.fin n m e) fl

def fsqrtRes (t : Nat) (c : Ctl) (a : Num) : Res :=
  match a with
  | .nan s => fres t c (.nan false) (if s then flNV else 0)
  | .zero n => fres t c (.zero n) 0
  | .inf n => if n then fres t c (.nan false) flNV else fres t c (.inf false) 0
  | .fin n m e => if n then fres t c (.nan false) flNV else let (r, q) := sqrtMag m e; fres t c (.fin false r q) 0

/-- FRINT: an integral value of the type, inexact when it moved. -/
def frintRes (t : Nat) (c : Ctl) (a : Num) : Res :=
  match a with
  | .fin n m e =>
    let (k, nx) := roundGrid c.rnd 0 n m e 0
    if 0 ≤ e then fres t c a 0 else fres t c (mkFin n k 0) (if nx then flNX else 0)
  | x => fres t c x (sigFlags [x])

def maxMinRes (t : Nat) (isMin strict : Bool) (a b : Num) : Res :=
  let (x, fl) := numMaxMin isMin strict a b
  fres t ⟨.rne, false, false⟩ x fl

/-- Compares by opcode 0x20 to 0x25: the bit, and the flags (R58). -/
def cmpRes (op : Nat) (a b : Num) : Bool × Nat :=
  let nan := a.isNaN || b.isNaN
  let quiet := op == 0x20 || op == 0x21
  let fl := if quiet then sigFlags [a, b] else if nan then flNV else 0
  if nan then (op == 0x21, fl)
  else
    (match op with
      | 0x20 => numEq a b
      | 0x21 => !(numEq a b)
      | 0x22 => numLt a b
      | 0x23 => !(numLt b a)
      | 0x24 => numLt b a
      | _ => !(numLt a b), fl)

/-- Sign-bit operations (R120). -/
def signOp (op t a b : Nat) : Nat :=
  let f := etFp t
  let s := 2 ^ (f.eb + f.mb)
  let lo := a % s
  let sa := a / s % 2
  let sb := b / s % 2
  match op with
  | 0x1C => lo + (1 - sa) * s
  | 0x1D => lo
  | 0x1E => lo + sb * s
  | _ => lo + (sa ^^^ sb) * s

/-- Integer operations on codes of a type (R122). -/
def intOp (op t a b : Nat) : Res :=
  let w := etWidth t
  let m := 2 ^ w
  let signed := t != 4
  let v (x : Nat) : Int := if signed then toSigned w x else ((x % m : Nat) : Int)
  let wrap (x : Int) : Res := ⟨ofSigned w x, 0⟩
  let hi : Int := if signed then ((m / 2 - 1 : Nat) : Int) else ((m - 1 : Nat) : Int)
  let lo : Int := if signed then -((m / 2 : Nat) : Int) else 0
  let clamp (x : Int) : Res :=
    if hi < x then ⟨ofSigned w hi, flSA⟩ else if x < lo then ⟨ofSigned w lo, flSA⟩ else wrap x
  let sh := b % m % w
  match op with
  | 0x30 => wrap (v a + v b)
  | 0x31 => wrap (v a - v b)
  | 0x32 => wrap (v a * v b)
  | 0x33 => clamp (v a + v b)
  | 0x34 => clamp (v a - v b)
  | 0x35 => wrap (max (v a) (v b))
  | 0x36 => wrap (min (v a) (v b))
  | 0x37 => ⟨a % m &&& b % m, 0⟩
  | 0x38 => ⟨a % m ||| b % m, 0⟩
  | 0x39 => ⟨a % m ^^^ b % m, 0⟩
  | 0x3A => ⟨a * 2 ^ sh % m, 0⟩
  | 0x3B => ⟨a % m / 2 ^ sh, 0⟩
  | _ => ⟨ofSigned w (toSigned w a / ((2 ^ sh : Nat) : Int)), 0⟩

/-- R123: FA40 addition of two images; bit 40 gathers saturation. -/
def faaddRes (t a b : Nat) : Res :=
  let sat := bitN a 40 || bitN b 40
  if t = 7 then
    let (c, k) := fa40IntAdd (toSigned 40 a) (toSigned 40 b)
    ⟨c + (if sat || k then 2 ^ 40 else 0), if k then flSA else 0⟩
  else
    let (c, k, nv) := fa40Add (decodeFa40 a) (decodeFa40 b)
    ⟨c + (if sat || k then 2 ^ 40 else 0), nv ||| (if k then flSA else 0)⟩

/-! ## Special functions: Table 6.10 -/

/-- m * 2^e with m reduced to an odd number: fuel bounds the bits of m. -/
def oddPart : Nat → Nat → Int → Nat × Int
  | 0, m, e => (m, e)
  | n + 1, m, e => if m % 2 = 0 && m != 0 then oddPart n (m / 2) (e + 1) else (m, e)

/-- The exponent k when the value is exactly 2^k. -/
def pow2Exp (m : Nat) (e : Int) : Option Int :=
  let (o, k) := oddPart (Nat.log2 m + 1) m e
  if o = 1 then some k else none

/-- The integer value of m * 2^e, if it is one. -/
def intValue (n : Bool) (m : Nat) (e : Int) : Option Int :=
  let (o, k) := oddPart (Nat.log2 m + 1) m e
  if 0 ≤ k then some (if n then -((o * pow2 k : Nat) : Int) else ((o * pow2 k : Nat) : Int)) else none

/-- Result of a special function on an FP32 operand: an exact value, an overflow of a sign, or the fixed map's code at a
finite operand with its flags. -/
inductive Spec where
  | exact (x : Num) (fl : Nat)
  | overflow (neg : Bool)
  | map (code : Nat) (fl : Nat)
deriving DecidableEq, Repr

/-- Table 6.10 and R133. `code` is the operand's FP32 code, for the fixed map. UF tells that the exact result lies below 2^-126,
also where the code delivered is 2^-126 (DESIGN CHOICE, assumption 173). -/
def specialFn (op code : Nat) (x : Num) : Spec :=
  let mapped (tiny : Bool) : Spec := .map (specialCode op code (specialAt op x)) (if tiny then flNX + flUF else flNX)
  match x with
  | .nan s => .exact (.nan false) (if s then flNV else 0)
  | _ =>
  match op with
  | 0x60 => match x with
    | .inf n => .exact (if n then .zero false else .inf false) 0
    | .zero _ => .exact (.fin false 1 0) 0
    | .fin n m e =>
      if !n && 7 ≤ expOf m e then .overflow false
      else match intValue n m e with
        | some v => if -126 ≤ v then .exact (.fin false 1 v) 0 else mapped true
        | none => mapped (n && magLt 126 0 m e)
    | .nan _ => mapped false
  | 0x61 => match x with
    | .inf n => if n then .exact (.nan false) flNV else .exact (.inf false) 0
    | .zero _ => .exact (.inf true) flDZ
    | .fin n m e =>
      if n then .exact (.nan false) flNV
      else match pow2Exp m e with
        | some k => .exact (numOfInt k) 0
        | none => mapped false
    | .nan _ => mapped false
  | 0x62 => match x with
    | .inf n => .exact (.zero n) 0
    | .zero n => .exact (.inf n) flDZ
    | .fin n m e =>
      if magLt m e 1 (-128) then .overflow n
      else match pow2Exp m e with
        | some k => if -126 ≤ -k && -k ≤ 127 then .exact (.fin n 1 (-k)) 0 else mapped (k == 127)
        | none => mapped (magLt 1 126 m e)
    | .nan _ => mapped false
  | 0x63 => match x with
    | .inf n => if n then .exact (.nan false) flNV else .exact (.zero false) 0
    | .zero n => .exact (.inf n) flDZ
    | .fin n m e =>
      if n then .exact (.nan false) flNV
      else match pow2Exp m e with
        | some k => if k % 2 = 0 then .exact (.fin false 1 (-(k / 2))) 0 else mapped false
        | none => mapped false
    | .nan _ => mapped false
  | 0x64 => match x with
    | .inf n => .exact (.fin n 1 0) 0
    | .zero n => .exact (.zero n) 0
    | .fin _ m e => mapped (!(magLt 1 (-126) m e))
    | .nan _ => mapped false
  | 0x65 => match x with
    | .inf _ => .exact (.nan false) flNV
    | .zero n => .exact (.zero n) 0
    | .fin _ m e => mapped (!(magLt 1 (-126) m e))
    | .nan _ => mapped false
  | _ => match x with
    | .inf _ => .exact (.nan false) flNV
    | .zero _ => .exact (.fin false 1 0) 0
    | _ => mapped false

/-- R132: the FP32 result, narrowed under CTL for the 16-bit types. CTL.OVF governs overflow. -/
def specialRes (op t : Nat) (c : Ctl) (a : Nat) : Res :=
  let x := etNum t a
  let wide := (toFp fFP32 ⟨.rne, false, false⟩ 0 x).code
  match specialFn op wide x with
  | .exact y fl => let r := toFp (etFp t) c 0 y; ⟨r.code, r.flags ||| fl⟩
  | .overflow n =>
    let f := etFp t
    ⟨if c.sat then maxCode f + signBit f n else infCode f n, flOF + flNX⟩
  | .map y fl =>
    if t = 0 then ⟨y, fl⟩
    else
      let f := etFp t
      let r := toFp f c 0 (decodeFp fFP32 y)
      -- a code of the map that narrows to more than 1 ulp from the exact result is none that R132 allows
      if nearCode f 1 r.code (specialAt op x) || (decodeFp f r.code).isInf then ⟨r.code, r.flags ||| fl⟩
      else
        let r := toFp f c 0 (decodeFp fFP32 (toFp fFP32 ⟨.rne, true, false⟩ 0 (specialAt op x)).code)
        ⟨r.code, r.flags ||| fl⟩

/-! ## One element-wise operation -/

/-- Operands an opcode uses. -/
def arity (op : Nat) : Nat :=
  if op = 0x13 || op = 0x06 then 3
  else if op = 0x05 || op = 0x15 || op = 0x18 || op = 0x1C || op = 0x1D || (0x60 ≤ op && op ≤ 0x66) then 1 else 2

def isCmp (op : Nat) : Bool := 0x20 ≤ op && op ≤ 0x25

/-- Table 6.5: ETYPE permitted for an element-wise opcode. -/
def opTypeOk (op t : Nat) : Bool :=
  if (0x10 ≤ op && op ≤ 0x18) || (0x1C ≤ op && op ≤ 0x1F) || (0x60 ≤ op && op ≤ 0x66) then t ≤ 2
  else if isCmp op || (0x48 ≤ op && op ≤ 0x4A) then t ≤ 5
  else if 0x30 ≤ op && op ≤ 0x3C then isIntT t
  else if op = 0x40 then t == 6 || t == 7
  else true

/-- The opcodes of Table 6.4 that compute one element from elements (not loads, moves, reductions or SHUF). -/
def elementOp (op : Nat) : Bool :=
  op == 0x05 || op == 0x06 || (0x10 ≤ op && op ≤ 0x18) || (0x1C ≤ op && op ≤ 0x1F) || isCmp op ||
  (0x30 ≤ op && op ≤ 0x3C) || op == 0x40 || (0x60 ≤ op && op ≤ 0x66)

/-- Result of an arithmetic opcode on element codes of type t (R119 to R123); compares and SEL are apart. -/
def lane (op t : Nat) (c : Ctl) (strict : Bool) (a b d : Nat) : Res :=
  let x := etNum t a
  let y := etNum t b
  if op = 0x10 then fadd2 t c x y
  else if op = 0x11 then
    let r := fadd2 t c x y.negate
    ⟨r.code, r.flags ||| sigFlags [x, y]⟩
  else if op = 0x12 then let (p, fl) := numMul x y; fres t c p fl
  else if op = 0x13 then fmaRes t c x y (etNum t d)
  else if op = 0x14 then fdivRes t c x y
  else if op = 0x15 then fsqrtRes t c x
  else if op = 0x16 then maxMinRes t false strict x y
  else if op = 0x17 then maxMinRes t true strict x y
  else if op = 0x18 then frintRes t c x
  else if 0x1C ≤ op ∧ op ≤ 0x1F then ⟨signOp op t a b, 0⟩
  else if 0x30 ≤ op ∧ op ≤ 0x3C then intOp op t a b
  else if op = 0x40 then faaddRes t a b
  else specialRes op t c a

/-- CVT of one element (R121). -/
def cvtRes (src dst : Nat) (c : Ctl) (U : Nat) (a : Nat) : Res := toEt dst c U (etNum src a)

end Sys2Proof.Machine
end

