-- ==== Sys2Proof/Machine/Collective.lean ====
section
/-! DEFINITION. Collective groups (chapter 13): the tree and its reductions (R282 to R285), COL packets, GRANTs and
staging (R287 to R290), group errors (R302), the completion of operations (R300); and the hub stage of barriers, which
issues a collective for its network stage (R234 to R237). -/

namespace Sys2Proof.Machine

/-! ## Groups, members and the tree: R280, R282 -/

def State.grp (s : State) (g : Nat) : ColGrp := smGet ColGrp.reset s.col g
def State.modGrp (s : State) (g : Nat) (f : ColGrp → ColGrp) : State :=
  { s with col := smSet ColGrp.reset g (f (s.grp g)) s.col }

def ColGrp.peer (k : ColGrp) (r : Nat) : ColPeer := smGet ColPeer.reset k.peers r
def modPeer (g r : Nat) (f : ColPeer → ColPeer) (s : State) : State :=
  s.modGrp g (fun k => { k with peers := smSet ColPeer.reset r (f (k.peer r)) k.peers })

def modOp (g : Nat) (f : ColOp → ColOp) (s : State) : State :=
  s.modGrp g (fun k => { k with ops := match k.ops with | o :: l => f o :: l | [] => [] })

def csOff : Nat := 0
def csReady : Nat := 1
def csError : Nat := 2

def grpOn (s : State) (g : Nat) : Bool := s.flag F.COL_GRP_CTL_EN g
def grpState (s : State) (g : Nat) : Nat := s.fld F.COL_GRP_STAT_STATE g
def grpCtx (s : State) (g : Nat) : Nat := s.fld F.COL_GRP_CTL_CTX g
def grpRank (s : State) (g : Nat) : Nat := s.fld F.COL_GRP_STAT_RANK g
def grpSlots (s : State) (g : Nat) : Nat := s.fld F.COL_GRP_CTL_SLOTS g

def ColGrp.size (k : ColGrp) : Nat := k.list.length
def parentOf (a r : Nat) : Nat := (r - 1) / a
def kidsOf (a m r : Nat) : List Nat := ((List.range a).map (fun i => r * a + 1 + i)).filter (fun x => x < m)

/-- Whether rank x lies in the subtree of rank r; the depth of a tree is at most 16. -/
def inSub (a r : Nat) : Nat → Nat → Bool
  | 0, _ => false
  | n + 1, x => x == r || (r < x && inSub a r n ((x - 1) / a))

/-- Ranks of a subtree, ascending. -/
def subtree (a m r : Nat) : List Nat := (List.range m).filter (inSub a r 20)

/-- Ranks of a subtree in the order its blocks go up: a rank, then its children's subtrees (DESIGN CHOICE: the spec gives
the blocks of an ALLGATHER no order on the way up). -/
def upOrder (a m : Nat) : Nat → Nat → List Nat
  | 0, _ => []
  | n + 1, r => r :: ((kidsOf a m r).map (upOrder a m n)).flatten

/-- The child whose subtree holds rank x. -/
def kidFor (a m r x : Nat) : Option Nat := (kidsOf a m r).find? (fun c => inSub a c 20 x)

/-! ## Operations: Tables 13.2 and 13.3 -/

def coALLREDUCE : Nat := 1
def coREDUCE : Nat := 2
def coBROADCAST : Nat := 3
def coALLGATHER : Nat := 4
def coREDUCESCATTER : Nat := 5
def coALLTOALL : Nat := 6
def coALLTOALLV : Nat := 7
def coBARRIER : Nat := 8
def coRINGPASS : Nat := 9
def coPERMUTE : Nat := 10

def isReducing (op : Nat) : Bool := op == 1 || op == 2 || op == 5

def srcSize : Nat → Nat
  | 0 => 4 | 1 => 2 | 2 => 2 | 3 => 1 | 4 => 1 | 5 => 8 | 6 => 8 | 7 => 4 | 8 => 8 | _ => 1
def dstSize : Nat → Nat
  | 0 => 4 | 1 => 2 | 2 => 2 | 3 => 4 | 4 => 4 | 5 => 8 | 6 => 8 | 7 => 4 | 8 => 8 | _ => 1

/-- Whether MAX and MIN are permitted: Table 13.3 bars them for BYTE alone. -/
def dtypeMax (d : Nat) : Bool := d < 9

/-- R301: operations that synchronise without data. -/
def ColOp.zero (o : ColOp) : Bool := o.op == coBARRIER || (o.count == 0 && o.op != coPERMUTE)

/-- Floating format of a type's DST element. -/
def colFmt : Nat → FpFmt
  | 1 => fBF16 | 2 => fFP16 | _ => fFP32

/-- A SRC element as a DST element: E5M2 and E4M3 widen exactly to FP32; of an FA40 element bits [63:41] are ignored, and
written zero (R34). -/
def colWiden (d v : Nat) : Nat :=
  match d with
  | 3 => (toFp fFP32 (Ctl.ofByte 0) 0 (decodeFp fE5M2 v)).code
  | 4 => (toFp fFP32 (Ctl.ofByte 0) 0 (decodeFp fE4M3 v)).code
  | 5 => v % 2 ^ 41
  | 6 => v % 2 ^ 41
  | _ => v

/-- R284: x ⊕ y on DST elements. -/
def colAdd (d redop : Nat) (strict : Bool) (x y : Nat) : Nat :=
  let isMin := redop == 3
  if d = 7 || d = 8 then
    let w := if d = 7 then 32 else 64
    let a := toSigned w x
    let b := toSigned w y
    ofSigned w (if redop = 1 then a + b else if isMin then min a b else max a b)
  else if d = 6 then
    if redop = 1 then (faaddRes 7 x y).code
    else
      let a := toSigned 40 x
      let b := toSigned 40 y
      ofSigned 40 (if isMin then min a b else max a b) + (if bitN x 40 || bitN y 40 then 2 ^ 40 else 0)
  else if d = 5 then
    if redop = 1 then (faaddRes tFA40F x y).code
    else
      (fa40OfNum (numMaxMin isMin strict (decodeFa40 x) (decodeFa40 y)).1).1 +
        (if bitN x 40 || bitN y 40 then 2 ^ 40 else 0)
  else
    let f := colFmt d
    let a := decodeFp f x
    let b := decodeFp f y
    let z := if redop = 1 then (numAdd false a b).1 else (numMaxMin isMin strict a b).1
    (toFp f (Ctl.ofByte 0) 0 z).code

/-- Elements of n bytes each. -/
def elems (n : Nat) (l : List Byte) : List Nat := (List.range (l.length / n)).map (fun i => fieldLe l (i * n) n)
def unelems (n : Nat) (l : List Nat) : List Byte := (l.map (natLe n)).flatten

/-- The reduction of a segment: the member's own SRC elements, then each child's segment in ascending rank (R285). -/
def reduceSeg (o : ColOp) (own : List Byte) (kids : List (List Byte)) : List Byte :=
  let n := dstSize o.dtype
  let x := (elems (srcSize o.dtype) own).map (colWiden o.dtype)
  unelems n (kids.foldl (fun acc k => List.zipWith (colAdd o.dtype o.redop o.strict) acc (elems n (padTo (n * acc.length) k))) x)

/-! ## Segments -/

def segLen (total i : Nat) : Nat := min 4096 (total - 4096 * i)
def segCount (total : Nat) : Nat := ceilDiv total 4096

/-- Bytes of the reduction's whole stream, of one rank's block, and of the stream rank 0 sends down. -/
def ColOp.redTotal (o : ColOp) (m : Nat) : Nat := (if o.op = coREDUCESCATTER then m else 1) * o.count * dstSize o.dtype
def ColOp.block (o : ColOp) : Nat := if o.op = coRINGPASS then o.count else o.count * srcSize o.dtype
def ColOp.dnTotal (o : ColOp) (m : Nat) : Nat :=
  if o.op = coALLREDUCE || o.op = coREDUCESCATTER then o.count * dstSize o.dtype
  else if o.op = coALLGATHER then m * o.block
  else if o.op = coBROADCAST then o.block else 0

/-! ## Memory accesses of the engine -/

/-- A read by the engine: bytes, a failure's status, or poison. -/
inductive ColGot where
  | ok (bs : List Byte)
  | err (status : Nat)
  | poi
deriving DecidableEq, Repr

/-- Host pieces of an access at which the host answers so. -/
def hostAnswers (f : Nat → Nat → Nat → Bool) (ctx : Nat) (l : List Piece) (s : State) : Bool :=
  (hostRuns l).any (fun r => f s.now ctx r.1)

/-- Read context virtual bytes. What host memory holds, and whether the host denies an access, is of the outside. -/
def colRead (ctx va n : Nat) (s : State) : ColGot × State :=
  if 2 ^ 48 < va + n then (.err cACCESS, s)
  else match locateAll ctx none va n .r s with
    | (some (c, _), _, s) => (.err c, s)
    | (none, l, s) =>
      match piecePoison s l with
      | some a => (.poi, consumed (some ctx) a s)
      | none =>
        let h := ((hostRuns l).map (fun r => (List.range r.2).map (fun j => Config.hostByte s.now ctx (r.1 + j)))).flatten
        if hostAnswers Config.hostDenies ctx l s then (.err cXLATE, s)
        else if hostAnswers Config.hostPoisons ctx l s then (.poi, deferred (some ctx) 6 0 14 0 0 (askHost ctx l s))
        else (.ok (readPieces s l h), askHost ctx l s)

/-- Write context virtual bytes; the status of a failure. -/
def colWrite (ctx va : Nat) (bs : List Byte) (poi : Bool) (s : State) : Option Nat × State :=
  if 2 ^ 48 < va + bs.length then (some cACCESS, s)
  else match locateAll ctx none va bs.length .w s with
    | (some (c, _), _, s) => (some c, s)
    | (none, l, s) =>
      if hostAnswers Config.hostDenies ctx l s then (some cXLATE, s) else (none, writePieces ctx l bs poi s)

/-! ## COL packets: R288 -/

def subUP : Nat := 1
def subDOWN : Nat := 2
def subWMARK : Nat := 3
def subGRANT : Nat := 4
def subREADY : Nat := 5
def subDONE : Nat := 6
def subRING : Nat := 7
def subABORT : Nat := 10

def opArg0 (o : ColOp) (sub : Nat) : Nat :=
  o.seq + sub * 2 ^ 32 + o.op * 2 ^ 40 + o.dtype * 2 ^ 48 + o.redop * 2 ^ 52 + (if o.strict then 2 ^ 56 else 0)

def pSeq (h : Hdr) : Nat := bitsN h.arg0 0 32
def pSub (h : Hdr) : Nat := bitsN h.arg0 32 8
def pSeg (h : Hdr) : Nat := bitsN h.arg1 0 32
def pRank (h : Hdr) : Nat := bitsN h.arg1 32 16
def pEpoch (h : Hdr) : Nat := bitsN h.arg1 48 16

def colPkt (s : State) (g peer arg0 seg epoch arg2 flags : Nat) (payload : List Byte) : List Byte :=
  mkPacket { Hdr.zero with
    opc := 0x20, flags := flags, dst := ((s.grp g).list[peer]?).getD 0, src := nodeId s, dom := ctxDom s (grpCtx s g),
    flow := 0x1000 + g, arg0 := arg0, arg1 := seg + grpRank s g * 2 ^ 32 + epoch % 65536 * 2 ^ 48, arg2 := arg2,
    stamp := s.timebase } payload

/-- Send a segment and keep it until a GRANT covers it (R289); one formed while nothing may be injected (R275, R373) goes later. A control segment's SEG is its index among the control
segments of its operation to that peer (DESIGN CHOICE: the spec gives SEG for data segments and GRANT only). -/
def sendSeg (g peer : Nat) (o : ColOp) (data : Bool) (sub seg arg2 : Nat) (payload : List Byte) (s : State) : State :=
  let p := (s.grp g).peer peer
  let seg := if data then seg else p.cOut
  let pkt := colPkt s g peer (opArg0 o sub) seg o.epoch arg2 0 payload
  let go := mayInject s
  let e : ColSeg := ⟨peer, if data then 1 else 0, if data then p.dSent + 1 else p.cSent + 1, pkt, if go then 1 else 0, s.now⟩
  let s := s.modGrp g (fun k => { k with segs := k.segs ++ [e] })
  let s := modPeer g peer (fun p =>
    if data then { p with dSent := p.dSent + 1 } else { p with cSent := p.cSent + 1, cOut := p.cOut + 1 }) s
  if go then inject pkt s else s

/-- R287: room for one more data segment on an edge. -/
def edgeRoom (s : State) (g peer : Nat) : Bool :=
  let p := (s.grp g).peer peer
  p.dSent - p.dCov < grpSlots s g

/-- Control packets of the operation in progress that a peer has sent, and the first with a given subtype and ARG2. -/
def ctlFrom (s : State) (g peer : Nat) (p : Hdr → Bool) : Option (List Byte) :=
  (((s.grp g).peer peer).ctl.find? (fun e => p (Hdr.of e.2))).map (·.2)

/-- Take the data segment a peer's stream stands at; its slot is freed and a GRANT is due. -/
def takeSeg (g peer : Nat) (o : ColOp) (s : State) : State :=
  modPeer g peer (fun p => { p with
    got := smErase p.next p.got, next := p.next + 1, freed := p.freed + 1, due := some (opArg0 o subGRANT, o.epoch) }) s

/-- The data segment a peer's stream stands at, if it has arrived. -/
def segHere (s : State) (g peer : Nat) : Option (List Byte) :=
  let p := (s.grp g).peer peer
  (p.got.find? (fun e => e.1 == p.next)).map (·.2)

/-- Control segments of an operation received from a peer with no gap. -/
def ctlRun (p : ColPeer) : Nat := ((List.range (p.ctl.length + 1)).find? (fun i => !(p.ctl.any (fun e => e.1 == i)))).getD 0

/-- The index of a held control segment of a peer; none of another packet. -/
def heldCtl (peer : Nat) (b : List Byte) : Option Nat :=
  let h := Hdr.of b
  if pRank h = peer && (pSub h == subWMARK || pSub h == subREADY || pSub h == subDONE ||
      ((pSub h == subUP || pSub h == subDOWN) && (h.len = 0 || bitsN h.arg0 40 8 = coPERMUTE))) then some (pSeg h)
  else none

/-- Control segments of the next operation, held here, that a peer has sent with no gap. -/
def heldRun (k : ColGrp) (peer : Nat) : Nat :=
  let l := k.held.filterMap (heldCtl peer)
  ((List.range (l.length + 1)).find? (fun i => !(l.contains i))).getD 0

/-- Send the GRANTs that are due. -/
def sendGrants (g : Nat) (s : State) : State :=
  (s.grp g).peers.foldl (fun s kv =>
    match kv.2.due with
    | none => s
    | some (a0, ep) =>
      let p := kv.2
      let pkt := colPkt s g kv.1 a0 (p.freed % 2 ^ 32) ep ((p.cBase + ctlRun p + heldRun (s.grp g) kv.1) % 2 ^ 32) 0 []
      inject pkt (modPeer g kv.1 (fun p => { p with due := none }) s)) s

/-! ## Barriers at the hub: R233, R235 to R237 -/

/-- Ascending waves of R335; n is the number of earlier Thaws. -/
def thawWave (s : State) (slot : Nat) : Nat :=
  let w := bitsN (s.reg .PWR_THAW_MAP 0).toNat (4 * slot) 4
  if s.flag F.PWR_THAW_ROTATE then (w + s.frost.thaws) % 12 else w

/-- A Thaw begins at T0 = now: the window and the wave of each slot are fixed, and waves of a window of 0 begin at once. -/
def beginThaw (restart : Bool) (s : State) : State :=
  let w := s.fld F.PWR_THAW_W
  let waves := (List.range 12).foldl (fun m i => smSet 0 i (thawWave s i + 1) m) []
  let t0 := s.now
  if w = 0 then
    (List.range 12).foldl (fun s k => trace 0x41 none 0 k s.timebase 0 s) (s.modFrost (fun f => { f with thaws := f.thaws + 1 }))
  else s.modFrost (fun f => { f with
    thaws := f.thaws + 1
    thawing := f.thawing ++ [⟨f.thaws + 1, t0, w, waves, restart⟩] })

/-- R237: one set at a completed generation. COUNT and BASE wrap modulo 2^32 and 2^64 (DESIGN CHOICE, assumption 180). A
poisoned word fails the read (R370): the set acts as under step 3, and each such word is reported with class 13 as well (DEDUCED,
assumption 181). -/
def realign (i ctx : Nat) (s : State) : State :=
  let ws := ((List.range (s.fld F.SYNC_RALN_CTL_NWORD i + 1)).map
    (fun j => s.fld F.SYNC_RALN_WORD_PWORD (i * 16 + j))).eraseDups.map (pwordAddr s)
  let as := ws.filterMap id
  let vs := as.map (fun a => (rd64 s a).toNat)
  let v := vs.headD 0
  let bad := as.filter (poisonAt s)
  if ws.all (·.isSome) && bad.isEmpty && vs.all (· == v) then
    let s := as.foldl (fun s a => signal ctx a 0 (putWord a 0 s)) s
    let s := s.incWrap F.SYNC_RALN_STAT_COUNT i
    s.setReg .SYNC_RALN_BASE i (s.reg .SYNC_RALN_BASE i + wN v)
  else
    let s := bad.foldl (fun s a => contained (some ctx) 8 0 13 a (addrPword s a) s) s
    contained (some ctx) 8 0 12 0 i (s.setFld F.SYNC_RALN_STAT_MISMATCH i 1)

/-- R235: the release of a completed generation. -/
def hubRelease (i : Nat) (s : State) : State :=
  let ctx := barCtx s i
  let g := (s.bar i).gen + 1
  let s := s.setBar i { (s.bar i) with gen := g }
  let sets := (List.range 64).filter (fun j =>
    s.flag F.SYNC_RALN_CTL_EN j && s.fld F.SYNC_RALN_CTL_BAR j == i && g % s.fld F.SYNC_RALN_CTL_PERIOD j == 0)
  let s := sets.foldl (fun s j => realign j ctx s) s
  let s := s.setFld F.SYNC_BAR_STAT_GEN i (g % 2 ^ 32)
  let thaw := s.flag F.SYNC_BAR_CTL_THAW i
  match pwordAddr s (s.fld F.SYNC_BAR_CTL_RELEASE i) with
  | none => contained (some ctx) 8 0 12 0 i s
  | some a =>
    if poisonAt s a then contained (some ctx) 8 0 13 a (addrPword s a) s
    else
      let s := if thaw then beginThaw false s else s
      signals [⟨ctx, a, 1, thaw⟩] s

/-- The network stage of a barrier, issued under its enable number `life`, has ended (R234). -/
def netDone (i life : Nat) (ok : Bool) (s : State) : State :=
  if !(s.flag F.SYNC_BAR_CTL_EN i) || !(s.bar i).net || (s.bar i).life != life then s
  else
    let s := s.setBar i { (s.bar i) with net := false }
    if ok then hubRelease i s
    else contained (some (barCtx s i)) 8 0 12 0 i (s.setFld F.SYNC_BAR_STAT_NETERR i 1)

/-! ## Completion and group errors: R300, R302 -/

def statGROUPERR : Nat := 8
def statWATERMARK : Nat := 9

/-- Progress of a RESHARD (R299). -/
def reshProg (g : Nat) (o : ColOp) (f : Prog → Prog) (s : State) : State :=
  match o.ring with
  | some (_, seq) =>
    let n := 8 + grpCtx s g
    setProg n { (f (s.prog n)) with opref := seq } s
  | none => s

/-- Forget what peers sent in the operation that ends. -/
def ColPeer.endOp (p : ColPeer) : ColPeer :=
  { p with cBase := p.cBase + p.ctl.length, got := [], next := 0, ctl := [], cOut := 0 }

/-- A dispatched operation is complete on this member. -/
def completeCol (g : Nat) (o : ColOp) (status value : Nat) (s : State) : State :=
  let s := s.modGrp g (fun k => { k with
    ops := k.ops.filter (fun x => x.seq != o.seq), base := o.seq, lastStrict := o.strict
    peers := if o.started then k.peers.map (fun kv => (kv.1, kv.2.endOp)) else k.peers })
  let s := dropWaits (fun w => match w with | .group x _ => x == g | _ => false) s
  let s := count 192 78 1 (trace 0x21 (some (grpCtx s g)) g status o.seq value s)
  let s := match o.ring with
    | some (r, seq) => finishDesc r seq status (wN value) (o.op != coRINGPASS && (status == 0 || status == 4 || status == 9)) 0 s
    | none => s
  match o.bar with
  | some (i, life) => netDone i life (status = 0) s
  | none => s

/-- A contained error that takes effect once the record of the descriptor that met it is written (R368). -/
def containedLate (d : Option (Nat × Nat)) (e : State → State) (s : State) : State :=
  match d with
  | none => e s
  | some (r, seq) => lateKills r seq e s

def ReqWho.ofGroup (g : Nat) : ReqWho → Bool
  | .col x _ _ => x == g
  | _ => false

/-- Whether the operation in progress has traffic with a member outstanding: a segment without cover, a request without
answer that reads there or delivers there, or a piece still to be pulled one way or the other. -/
def sharesTraffic (s : State) (g : Nat) (o : ColOp) (q : Nat) : Bool :=
  let k := s.grp g
  let node := (k.list[q]?).getD 0
  k.segs.any (fun e => e.peer == q) ||
  (s.fab.outst ++ s.fab.queue).any (fun r => r.who.ofGroup g &&
    (let h := Hdr.of r.pkt; h.dst == node || (h.opc == 5 && bitsN h.arg0 48 16 == node))) ||
  (o.op != coPERMUTE && !(smGet false o.doneTo q && (ctlFrom s g q (fun h => pSub h == subDONE)).isSome))

/-- Ranks that an ABORT goes to: parent and children, and during ALLTOALL, ALLTOALLV or PERMUTE every member with
outstanding traffic (R302). -/
def abortPeers (s : State) (g : Nat) : List Nat :=
  let k := s.grp g
  let r := grpRank s g
  let near := (if r = 0 then [] else [parentOf k.arity r]) ++ kidsOf k.arity k.size r
  match k.ops with
  | o :: _ =>
    if o.started && (o.op == coALLTOALL || o.op == coALLTOALLV || o.op == coPERMUTE) then
      (List.range k.size).filter (fun q => q != r && (near.contains q || sharesTraffic s g o q))
    else near
  | [] => near

/-- ABORT segments to send: control segments (Table 13.5) that carry the OPSEQ in progress and its EPOCH at dispatch (Table 13.4). -/
def abortSegs (s : State) (g reason : Nat) : List ColSeg :=
  let k := s.grp g
  let (arg0, ep) : Nat × Nat := match k.ops with
    | o :: _ => (opArg0 o subABORT, o.epoch)
    | [] => (k.base + subABORT * 2 ^ 32 + (if strictEff s then 2 ^ 56 else 0), s.fld F.COL_GRP_EPOCH_EPOCH g)
  (abortPeers s g).map (fun p =>
    ⟨p, 2, (k.peer p).cSent + 1, colPkt s g p arg0 (k.peer p).cOut ep reason 0 [], 0, 0⟩)

/-- Send the segments not sent yet. -/
def sendUnsent (g : Nat) (s : State) : State :=
  let l := (s.grp g).segs.filter (fun e => e.sends == 0)
  let s := s.modGrp g (fun k => { k with segs := k.segs.map (fun e =>
    if e.sends == 0 then { e with sends := 1, sentAt := s.now } else e) })
  l.foldl (fun s e => inject e.pkt s) s

/-- R302: a group error with a reason; `st` is the status of the operation in progress. -/
def groupError (g reason st : Nat) (s : State) : State :=
  if grpState s g != csReady then s
  else
    let ops := (s.grp g).ops
    let who := (ops.head?).bind (·.ring)
    let s := (s.setFld F.COL_GRP_STAT_STATE g csError).setFld F.COL_GRP_STAT_ERRC g reason
    let ab := abortSegs s g reason
    let s := s.modFab (fun f => { f with queue := f.queue.filter (fun r => !(r.who.ofGroup g)) })
    let s := s.modGrp g (fun k => { k with segs := ab, held := [] })
    let s := ab.foldl (fun s e => modPeer g e.peer (fun p => { p with cSent := p.cSent + 1, dCov := p.dSent }) s) s
    let s := if mayInject s then sendUnsent g s else s
    let s := match ops with
      | o :: _ => if o.op = coPERMUTE && o.started then reshProg g o (fun p => { p with st := 3 }) s else s
      | [] => s
    let s := ops.foldl (fun s o => completeCol g o (if o.started then st else statGROUPERR) 0 s) s
    containedLate who (contained (some (grpCtx s g)) 5 0 12 0 g) s

def rMISMATCH : Nat := 1
def rRESIDUE : Nat := 2
def rTIMEOUT : Nat := 3
def rPOISON : Nat := 4
def rABORTED : Nat := 5
def rLOCAL : Nat := 6
def rCAPACITY : Nat := 7
def rPLAN : Nat := 8
def rSEQ : Nat := 9

/-- R303: a group of a context that leaves. -/
def leaveGroup (g : Nat) (s : State) : State := groupError g rABORTED statGROUPERR s

/-- Every enabled group of a context leaves (R216, R303). -/
def leaveGroups (ctx : Nat) (s : State) : State :=
  (s.col.map (·.1)).foldl (fun s g => if grpOn s g && grpCtx s g == ctx then leaveGroup g s else s) s

/-! ## Dispatch: R286 -/

/-- Give an operation of a group the next OPSEQ; on a group in ERROR it completes at once. -/
def dispatchCol (g : Nat) (o : ColOp) (s : State) : State :=
  let q := (s.fld F.COL_GRP_STAT_OPSEQ g + 1) % 2 ^ 32
  let s := s.setFld F.COL_GRP_STAT_OPSEQ g q
  let o := { o with seq := q, strict := strictEff s, epoch := s.fld F.COL_GRP_EPOCH_EPOCH g, since := s.timebase }
  let s := s.modGrp g (fun k => { k with ops := k.ops ++ [o] })
  if grpState s g = csError then completeCol g o statGROUPERR 0 s else s

def ColOp.blank : ColOp :=
  { seq := 0, op := 0, dtype := 0, redop := 0, strict := false, epoch := 0, count := 0, src := 0, dst := 0, aux := 0,
    sig := none, ring := none, bar := none, since := 0, started := false, upNext := 0, dnNext := 0, phase := 0, zph := 0,
    crc := 0, crcIn := 0, mark := none, buf := [], left := [], pulled := [], doneTo := [], freeTo := 0, asked := 0, status := 0 }

/-- Base dies that hold masked cores of a barrier. -/
def barBases (s : State) (i : Nat) : List Nat :=
  (List.range 4).filter (fun b => (List.range 3).any (fun j => barSize s i (3 * b + j) != 0))

/-- The hub completes the next generation, or issues its network stage, once every base die has contributed. -/
def hubStep (i : Nat) (s : State) : State :=
  let b := s.bar i
  let bs := barBases s i
  if !(s.flag F.SYNC_BAR_CTL_EN i) || b.net || bs.isEmpty || bs.any (fun d => smGet 0 b.atHub d == 0) then s
  else
    let s := s.setBar i { b with
      atHub := bs.foldl (fun m d => smSet 0 d (smGet 0 m d - 1) m) b.atHub
      net := s.flag F.SYNC_BAR_CTL_NET i }
    if !(s.flag F.SYNC_BAR_CTL_NET i) then hubRelease i s
    else
      let g := s.fld F.SYNC_BAR_CTL_GROUP i
      if grpOn s g && grpCtx s g == barCtx s i then dispatchCol g { ColOp.blank with op := coBARRIER, bar := some (i, b.life) } s
      else netDone i b.life false s

def hubLoop : Nat → Nat → State → State
  | 0, _, s => s
  | n + 1, i, s => hubLoop n i (hubStep i s)

/-- Generations that have become ready at the hub, of every barrier. -/
def settleBars (s : State) : State :=
  (s.sync.bars.map (·.1)).foldl (fun s i =>
    hubLoop ((s.bar i).atHub.foldl (fun n e => max n e.2) 0) i s) s

end Sys2Proof.Machine
end

