-- ==== Sys2Proof/Machine/Collective2.lean ====
section
/-! DEFINITION. The collective engine at work: starting an operation, moving it on as far as what has arrived and the
windows of its edges allow (R285 to R301), and taking COL packets (R289, R290). -/

namespace Sys2Proof.Machine

/-- The group's operation in progress, with the group, its context and rank. -/
structure ColCtx where
  g : Nat
  ctx : Nat
  r : Nat
  m : Nat
  a : Nat
  o : ColOp
deriving DecidableEq, Repr

def ColCtx.kids (c : ColCtx) : List Nat := kidsOf c.a c.m c.r
def ColCtx.parent (c : ColCtx) : Nat := parentOf c.a c.r

def colCtx (s : State) (g : Nat) : Option ColCtx :=
  let k := s.grp g
  match k.ops with
  | o :: _ => if o.started && grpState s g = csReady then some ⟨g, grpCtx s g, grpRank s g, k.size, k.arity, o⟩ else none
  | [] => none

/-- A failed access of the engine: a group error LOCAL, with the access's own status (R302). -/
def localErr (g st : Nat) (s : State) : State := groupError g rLOCAL st s

/-- Read, then go on; poison is a group error. -/
def withRead (c : ColCtx) (va n : Nat) (f : List Byte → State → State) (s : State) : State :=
  match colRead c.ctx va n s with
  | (.ok bs, s) => f bs s
  | (.err st, s) => localErr c.g st s
  | (.poi, s) => groupError c.g rPOISON statGROUPERR s

/-! ### Overlapping ranges: R304 -/

/-- Bytes of the operation's SRC on this member (Table 13.2). -/
def srcLen (s : State) (c : ColCtx) : Nat :=
  let o := c.o
  if o.op = coREDUCESCATTER || o.op = coALLTOALL then c.m * o.block
  else if o.op = coALLTOALLV then
    match (colRead c.ctx o.aux (8 * c.m) s).1 with
    | .ok b => ((List.range c.m).map (fun j => fieldLe b (8 * j) 8)).foldl (· + ·) 0 * srcSize o.dtype
    | _ => 0
  else if o.op = coBROADCAST && c.r != 0 then 0
  else if o.op = coBARRIER then 0 else o.block

/-- Bytes of the operation's DST on this member. -/
def dstLen (c : ColCtx) : Nat :=
  let o := c.o
  if o.op = coRINGPASS then 2 * o.count
  else if o.op = coALLGATHER || o.op = coALLTOALL then c.m * o.block
  else if o.op = coALLREDUCE || o.op = coREDUCESCATTER || (o.op = coREDUCE && c.r = 0) then o.count * dstSize o.dtype
  else if o.op = coBROADCAST || o.op = coALLTOALLV then o.block else 0

def meet (a n b k : Nat) : Bool := decide (0 < n) && decide (0 < k) && decide (a < b + k) && decide (b < a + n)

/-- R304: SRC, DST and AUX overlap where they may not, so the bytes of DST are unpredictable. -/
def scrambled (s : State) (c : ColCtx) : Bool :=
  let o := c.o
  let same := o.src == o.dst && (o.op == coALLREDUCE || (o.op == coBROADCAST && c.r == 0))
  let n := srcLen s c
  let k := dstLen c
  let x := if o.op = coALLTOALLV then 16 * c.m else 0
  o.op != coPERMUTE && ((!same && meet o.src n o.dst k) || meet o.dst k o.aux x || meet o.src n o.aux x)

/-- Bytes as they land in DST. -/
def dstBytes (c : ColCtx) (va : Nat) (bs : List Byte) (s : State) : List Byte × State :=
  if scrambled s c then
    let (i, s) := s.fresh
    ((List.range bs.length).map (fun j => Config.freeByte (i + 1) (va + j)), s)
  else (bs, s)

/-- The device bytes of a DST that was written by pulls are left unpredictable if ranges overlap. -/
def scramble (c : ColCtx) (s : State) : State :=
  if (c.o.op = coALLTOALL || c.o.op = coALLTOALLV) && scrambled s c then
    match locateAll c.ctx none c.o.dst (dstLen c) .w s with
    | (none, l, s) => l.foldl (fun s p => if p.host then s else undefSpan p.addr (p.addr + p.len) s) s
    | _ => s
  else s

/-- Write, then go on. -/
def withStore (c : ColCtx) (va : Nat) (bs : List Byte) (poi : Bool) (f : State → State) (s : State) : State :=
  match colWrite c.ctx va bs poi s with
  | (none, s) => f s
  | (some st, s) => localErr c.g st s

/-- Write bytes of DST, then go on. -/
def withWrite (c : ColCtx) (va : Nat) (bs : List Byte) (poi : Bool) (f : State → State) (s : State) : State :=
  let (w, s) := dstBytes c va bs s
  withStore c va w poi f s

/-- R304 lets an ALLREDUCE work in place; where DST elements are wider, SRC is taken whole before DST is written. -/
def inPlaceWide (o : ColOp) : Bool := o.op == coALLREDUCE && o.src == o.dst && srcSize o.dtype != dstSize o.dtype

/-- The member's own SRC bytes from offset `off`. -/
def withOwn (c : ColCtx) (off n : Nat) (f : List Byte → State → State) (s : State) : State :=
  if inPlaceWide c.o then f (slice c.o.buf off n) s else withRead c (c.o.src + off) n f s

/-- Send a data segment, or a control segment, to every child. -/
def toKids (c : ColCtx) (data : Bool) (sub seg arg2 : Nat) (bs : List Byte) (s : State) : State :=
  c.kids.foldl (fun s k => sendSeg c.g k c.o data sub seg arg2 bs s) s

def kidsRoom (s : State) (c : ColCtx) : Bool := c.kids.all (fun k => edgeRoom s c.g k)

/-! ## Operations without data: R301 -/

def zeroStep (c : ColCtx) (s : State) : Option State :=
  let ups := c.kids.all (fun k => (ctlFrom s c.g k (fun h => pSub h == subUP)).isSome)
  if c.o.zph = 0 then
    if !ups then none
    else if c.r = 0 then
      let s := toKids c false subWMARK 0 0 (natLe 8 0) (toKids c false subDOWN 0 c.o.count [] s)
      some (modOp c.g (fun o => { o with zph := 3, mark := some 0 }) s)
    else some (modOp c.g (fun o => { o with zph := 1 }) (sendSeg c.g c.parent c.o false subUP 0 c.o.count [] s))
  else if c.o.zph = 1 then
    match ctlFrom s c.g c.parent (fun h => pSub h == subDOWN) with
    | none => none
    | some _ => some (modOp c.g (fun o => { o with zph := 2 }) (toKids c false subDOWN 0 c.o.count [] s))
  else if c.o.zph = 2 then
    match ctlFrom s c.g c.parent (fun h => pSub h == subWMARK) with
    | none => none
    | some p =>
      let v := fieldLe (payloadOf p) 0 8
      let s := toKids c false subWMARK 0 0 (slice (payloadOf p) 0 8) s
      let s := modOp c.g (fun o => { o with zph := 3, mark := some v, status := if v = 0 then o.status else statWATERMARK }) s
      some (if v = 0 then s else containedLate c.o.ring (contained (some c.ctx) 5 0 12 0 c.g) s)
  else none

/-! ## Reductions: R285 -/

/-- Take the segment every child's stream stands at. -/
def takeKids (c : ColCtx) (s : State) : State := c.kids.foldl (fun s k => takeSeg c.g k c.o s) s

/-- R295: the residue check of a segment's additions. A mismatch makes the engine compute the segment again, which is a
corrected error; a second one is a group error RESIDUE, and nothing leaves the engine. -/
def residueCheck (g kids : Nat) (f : State → State) (s : State) : State :=
  if kids = 0 || s.resid = 0 then f s
  else
    let n := s.resid
    let s := corrected none 5 0 9 0 { s with resid := 0 }
    if n = 1 then f s else groupError g rRESIDUE statGROUPERR s

/-- The next segment of a reduction, when every child's has arrived. -/
def reduceStep (c : ColCtx) (s : State) : Option State :=
  let tot := c.o.redTotal c.m
  let i := c.o.upNext
  let segs := c.kids.map (segHere s c.g)
  if segCount tot ≤ i || segs.any (·.isNone) then none
  else if c.r != 0 && !(edgeRoom s c.g c.parent) then none
  else if c.r = 0 && c.o.op = coALLREDUCE && !(kidsRoom s c) then none
  else
    let n := segLen tot i
    let e := dstSize c.o.dtype
    let e0 := 4096 * i / e
    some <| withOwn c (e0 * srcSize c.o.dtype) (n / e * srcSize c.o.dtype) (fun own => residueCheck c.g c.kids.length (fun s =>
      let v := reduceSeg c.o own (segs.map (·.getD []))
      let s := modOp c.g (fun o => { o with upNext := i + 1 }) (takeKids c s)
      if c.r != 0 then sendSeg c.g c.parent c.o true subUP i c.o.count v s
      else if c.o.op = coREDUCESCATTER then modOp c.g (fun o => { o with buf := o.buf ++ v }) s
      else withWrite c (c.o.dst + 4096 * i) v false (fun s =>
        let s := modOp c.g (fun o => { o with crc := crc64 o.crc v }) s
        if c.o.op = coALLREDUCE then toKids c true subDOWN i c.o.count v s else s) s)) s

/-- Rank 0 has the whole result: the Watermark goes down. -/
def rootMark (c : ColCtx) (s : State) : State :=
  modOp c.g (fun o => { o with mark := some c.o.crc }) (toKids c false subWMARK 0 0 (natLe 8 c.o.crc) s)

/-- A Watermark has arrived: forward it and compare it with the CRC-64 of the bytes written; the member of a REDUCE takes
it as it is (R292). -/
def takeMark (c : ColCtx) (p : List Byte) (s : State) : State :=
  let v := fieldLe (payloadOf p) 0 8
  let s := toKids c false subWMARK 0 0 (slice (payloadOf p) 0 8) s
  let bad := c.o.op != coREDUCE && v != c.o.crc
  let s := modOp c.g (fun o => { o with mark := some v, status := if bad then statWATERMARK else o.status }) s
  if bad then containedLate c.o.ring (contained (some c.ctx) 5 0 12 0 c.g) s else s

/-- A DOWN segment of the whole result: write it and forward it. -/
def downStep (c : ColCtx) (s : State) : Option State :=
  let tot := c.o.dnTotal c.m
  let i := c.o.dnNext
  if c.r = 0 then none
  else if i < segCount tot then
    match segHere s c.g c.parent with
    | none => none
    | some bs =>
      if !(kidsRoom s c) then none
      else
        let bs := padTo (segLen tot i) bs
        some <| withWrite c (c.o.dst + 4096 * i) bs false (fun s =>
          let s := modOp c.g (fun o => { o with dnNext := i + 1, crc := crc64 o.crc bs }) (takeSeg c.g c.parent c.o s)
          toKids c true subDOWN i c.o.count bs s) s
  else if c.o.mark.isSome then none
  else (ctlFrom s c.g c.parent (fun h => pSub h == subWMARK)).map (fun p => takeMark c p s)

/-- ALLREDUCE and REDUCE. -/
def allreduceStep (c : ColCtx) (s : State) : Option State :=
  match reduceStep c s with
  | some s => some s
  | none =>
    if c.r = 0 then
      if c.o.mark.isNone && c.o.upNext = segCount (c.o.redTotal c.m) then some (rootMark c s) else none
    else downStep c s

/-- BROADCAST. -/
def broadcastStep (c : ColCtx) (s : State) : Option State :=
  let tot := c.o.dnTotal c.m
  let i := c.o.dnNext
  if c.r != 0 then downStep c s
  else if i < segCount tot then
    if !(kidsRoom s c) then none
    else
      let n := segLen tot i
      some <| withRead c (c.o.src + 4096 * i) n (fun bs s =>
        withWrite c (c.o.dst + 4096 * i) bs false (fun s =>
          toKids c true subDOWN i c.o.count bs (modOp c.g (fun o => { o with dnNext := i + 1, crc := crc64 o.crc bs }) s)) s) s
  else if c.o.mark.isNone then some (rootMark c s) else none

/-! ## ALLGATHER -/

/-- Place the up-stream of rank 0 in rank order. -/
def assemble (a m b : Nat) (l : List Byte) : List Byte :=
  let ord := upOrder a m 20 0
  ((List.range m).map (fun r => slice l ((ord.idxOf r) * b) b)).flatten

/-- Take in the next bytes of the stream a rank sends up: its own block, then each child's stream. `zph` counts the
sources used up, `asked` the own bytes taken, and `buf` holds what has not gone up. -/
def gatherTake (c : ColCtx) (s : State) : Option State :=
  let b := c.o.block
  if c.o.zph = 0 then
    let p := c.o.asked
    let n := min 4096 (b - p)
    some <| withRead c (c.o.src + p) n (fun bs s =>
      modOp c.g (fun o => { o with buf := o.buf ++ bs, asked := p + n, zph := if p + n = b then 1 else 0 }) s) s
  else match c.kids[c.o.zph - 1]? with
    | none => none
    | some k =>
      let sz := (subtree c.a c.m k).length * b
      let j := ((s.grp c.g).peer k).next
      if segCount sz ≤ j then some (modOp c.g (fun o => { o with zph := o.zph + 1 }) s)
      else (segHere s c.g k).map (fun bs =>
        modOp c.g (fun o => { o with buf := o.buf ++ padTo (segLen sz j) bs }) (takeSeg c.g k c.o s))

/-- ALLGATHER: blocks go up unchanged, and rank 0 sends the assembled blocks down. -/
def allgatherStep (c : ColCtx) (s : State) : Option State :=
  let ends := c.o.zph == c.kids.length + 1
  let full := 4096 ≤ c.o.buf.length || (ends && !c.o.buf.isEmpty)
  let down : Option State :=
    if c.r != 0 then downStep c s
    else if !ends then none
    else
      let dt := c.o.dnTotal c.m
      let j := c.o.dnNext
      if j < segCount dt then
        if !(kidsRoom s c) then none
        else
          let bs := slice (assemble c.a c.m c.o.block c.o.buf) (4096 * j) (segLen dt j)
          some <| withWrite c (c.o.dst + 4096 * j) bs false (fun s =>
            toKids c true subDOWN j c.o.count bs (modOp c.g (fun o => { o with dnNext := j + 1, crc := crc64 o.crc bs }) s)) s
      else if c.o.mark.isNone then some (rootMark c s) else none
  if c.r != 0 && full && edgeRoom s c.g c.parent then
    let s := modOp c.g (fun o => { o with upNext := o.upNext + 1, buf := o.buf.drop 4096 }) s
    some (sendSeg c.g c.parent c.o true subUP c.o.upNext c.o.count (c.o.buf.take 4096) s)
  else if !ends && (c.r == 0 || c.o.buf.length < 4096) then
    match gatherTake c s with
    | some s => some s
    | none => down
  else down

/-! ## REDUCE_SCATTER -/

/-- A member writes a piece of its own chunk. -/
def ownChunk (c : ColCtx) (i : Nat) (bs : List Byte) (f : State → State) (s : State) : State :=
  withWrite c (c.o.dst + 4096 * i) bs false (fun s => f (modOp c.g (fun o => { o with crc := crc64 o.crc bs }) s)) s

/-- The chunks that pass this rank, in ascending rank: `dnNext` counts their segments, then a Watermark for each. -/
def scatterStep (c : ColCtx) (s : State) : Option State :=
  let tot := c.o.dnTotal c.m
  let per := segCount tot + 1
  let ranks := subtree c.a c.m c.r
  let j := c.o.dnNext
  match ranks[j / per]? with
  | none => none
  | some k =>
    let i := j % per
    let next (s : State) : State := modOp c.g (fun o => { o with dnNext := j + 1 }) s
    let kid := kidFor c.a c.m c.r k
    if i < segCount tot then
      let bs : Option (List Byte) :=
        if c.r = 0 then some (slice c.o.buf (k * tot + 4096 * i) (segLen tot i))
        else (segHere s c.g c.parent).map (padTo (segLen tot i))
      match bs, kid with
      | none, _ => none
      | some bs, none => some (ownChunk c i bs (fun s => next (if c.r = 0 then s else takeSeg c.g c.parent c.o s)) s)
      | some bs, some q =>
        if !(edgeRoom s c.g q) then none
        else some (sendSeg c.g q c.o true subDOWN i k bs (next (if c.r = 0 then s else takeSeg c.g c.parent c.o s)))
    else
      let mark : Option Nat :=
        if c.r = 0 then some (crc64 0 (slice c.o.buf (k * tot) tot))
        else (ctlFrom s c.g c.parent (fun h => pSub h == subWMARK && bitsN h.arg2 0 16 == k)).map
          (fun p => fieldLe (payloadOf p) 0 8)
      match mark, kid with
      | none, _ => none
      | some v, some q => some (sendSeg c.g q c.o false subWMARK 0 k (natLe 8 v) (next s))
      | some v, none =>
        let bad := v != c.o.crc
        let s := modOp c.g (fun o => { o with mark := some v, status := if bad then statWATERMARK else o.status }) (next s)
        some (if bad then containedLate c.o.ring (contained (some c.ctx) 5 0 12 0 c.g) s else s)

def reduceScatterStep (c : ColCtx) (s : State) : Option State :=
  match reduceStep c s with
  | some s => some s
  | none => if c.r = 0 && c.o.upNext < segCount (c.o.redTotal c.m) then none else scatterStep c s

/-! ## ALLTOALL and ALLTOALLV: R293 -/

/-- Elements of a peer's announced piece: address, count and CRC-64. -/
def readyOf (s : State) (c : ColCtx) (i : Nat) : Option (Nat × Nat × Nat) :=
  (ctlFrom s c.g i (fun h => pSub h == subREADY)).map (fun p =>
    let b := payloadOf p
    (fieldLe b 0 8, fieldLe b 8 8, fieldLe b 16 8))

/-- The pieces of SRC: a READY to every other member, in ascending rank. `buf` holds the own piece's address and count. -/
def sendReadies (c : ColCtx) (counts : List Nat) (s : State) : State :=
  let z := srcSize c.o.dtype
  ((List.range c.m).foldl (fun (st : Nat × State) j =>
    let n := counts.getD j 0
    let a := c.o.src + st.1 * z
    let s := st.2
    let s :=
      if grpState s c.g != csReady then s
      else if j = c.r then modOp c.g (fun o => { o with buf := natLe 8 a ++ natLe 8 n }) s
      else withRead c a (n * z) (fun bs s =>
        match colCtx s c.g with
        | some c => sendSeg c.g j c.o false subREADY 0 0 (natLe 8 a ++ natLe 8 n ++ natLe 8 (crc64 0 bs)) s
        | none => s) s
    (st.1 + n, s)) (0, s)).2

/-- Queue the GETs that pull a piece into DST. -/
def pullPiece (c : ColCtx) (i src n dst : Nat) (s : State) : State :=
  let chunks := ceilDiv n 4096
  let s := modOp c.g (fun o => { o with left := smPut i chunks o.left }) s
  (List.range chunks).foldl (fun s j =>
    if grpState s c.g != csReady then s
    else
      let x := min 4096 (n - 4096 * j)
      if 2 ^ 48 < dst + 4096 * j + x then localErr c.g cACCESS s
      else match locateAll c.ctx none (dst + 4096 * j) x .w s with
        | (some (e, _), _, s) => localErr c.g e s
        | (none, l, s) =>
          request ⟨0x1000 + c.g, 0, mkPacket { Hdr.zero with
            opc := 2, dst := ((s.grp c.g).list[i]?).getD 0, dom := ctxDom s c.ctx, flow := 0x1000 + c.g,
            addr := (src + 4096 * j) % 2 ^ 48, arg0 := dst + 4096 * j, arg1 := x } [],
            .col c.g c.o.seq (i * 2 ^ 32 + j), c.ctx, 0, 0, false, l.map (fun p => (p.host, p.addr, p.len))⟩ s) s

/-- Every READY is here: the counts are written and checked, the own piece is copied, and the pulls begin. -/
def startPulls (c : ColCtx) (s : State) : State :=
  let z := srcSize c.o.dtype
  let cnt (i : Nat) : Nat := if i = c.r then fieldLe c.o.buf 8 8 else ((readyOf s c i).map (·.2.1)).getD 0
  let counts := (List.range c.m).map cnt
  let go (s : State) : State :=
    if c.o.op = coALLTOALLV && c.o.count < counts.foldl (· + ·) 0 then groupError c.g rCAPACITY statGROUPERR s
    else
      let off (i : Nat) : Nat := c.o.dst + ((counts.take i).foldl (· + ·) 0) * z
      withRead c (fieldLe c.o.buf 0 8) (cnt c.r * z) (fun bs s =>
        withWrite c (off c.r) bs false (fun s =>
          (List.range (c.m - 1)).foldl (fun s d =>
            let i := (c.r + 1 + d) % c.m
            let a := ((readyOf s c i).map (·.1)).getD 0
            pullPiece c i a (cnt i * z) (off i) s) (modOp c.g (fun o => { o with phase := 1 }) s)) s) s
  if c.o.op = coALLTOALLV then
    withStore c (c.o.aux + 8 * c.m) ((counts.map (natLe 8)).flatten) false go s
  else go s

/-- The bytes of a piece that has come in. -/
def pieceBytes (o : ColOp) (i : Nat) : List Byte :=
  ((o.pulled.filter (fun e => e.1 / 2 ^ 32 == i)).map (·.2)).flatten

def alltoallStep (c : ColCtx) (s : State) : Option State :=
  let others := (List.range c.m).filter (· != c.r)
  if c.o.phase = 0 then
    if others.all (fun i => (readyOf s c i).isSome) then some (startPulls c s) else none
  else
    match c.o.left.find? (fun e => e.2 == 0 && !(smGet false c.o.doneTo e.1)) with
    | none => none
    | some (i, _) =>
      let bad := ((readyOf s c i).map (·.2.2)).getD 0 != crc64 0 (pieceBytes c.o i)
      let s := modOp c.g (fun o => { o with
        doneTo := smPut i true o.doneTo, status := if bad then statWATERMARK else o.status }) s
      let s := if bad then containedLate c.o.ring (contained (some c.ctx) 5 0 12 0 c.g) s else s
      some (sendSeg c.g i c.o false subDONE 0 0 [] s)

/-- Every piece pulled, every DONE sent and received. -/
def exchanged (s : State) (c : ColCtx) : Bool :=
  c.o.phase == 1 && ((List.range c.m).filter (· != c.r)).all (fun i =>
    smGet false c.o.doneTo i && (ctlFrom s c.g i (fun h => pSub h == subDONE)).isSome)

/-! ## RINGPASS: R296 -/

/-- The address of buffer t mod 2. -/
def ringBuf (o : ColOp) (t : Nat) : Nat := o.dst + t % 2 * o.count

/-- Send the next segment of the ring, or the Watermark of a block sent. `upNext` counts them, a Watermark as one more
segment of its step. -/
def ringSend (c : ColCtx) (s : State) : Option State :=
  let per := segCount c.o.count + 1
  let step := c.o.upNext / per + 1
  let i := c.o.upNext % per
  let succ := (c.r + 1) % c.m
  if c.m ≤ step || c.o.dnNext / per + 1 < step then none
  else
    let next (s : State) : State := modOp c.g (fun o => { o with upNext := o.upNext + 1 }) s
    if i < per - 1 then
      if !(edgeRoom s c.g succ) then none
      else
        let a := if step = 1 then c.o.src else ringBuf c.o (step - 1)
        some <| withRead c (a + 4096 * i) (segLen c.o.count i) (fun bs s =>
          let s := modOp c.g (fun o => { o with crc := crc64 (if i = 0 then 0 else o.crc) bs }) (next s)
          sendSeg c.g succ c.o true subRING i step bs s) s
    else some (sendSeg c.g succ c.o false subWMARK 0 step (natLe 8 c.o.crc) (next s))

/-- Take the next segment of the ring into its buffer, once the buffer is free; `dnNext` counts as `upNext` does. -/
def ringTake (c : ColCtx) (s : State) : Option State :=
  let per := segCount c.o.count + 1
  let t := c.o.dnNext / per + 1
  let i := c.o.dnNext % per
  let pred := (c.r + c.m - 1) % c.m
  if c.m ≤ t then none
  else if 3 ≤ t && c.o.asked < t then
    match xlateSid c.ctx (bitsN c.o.aux 0 20) .wait s with
    | (.word a, s) => some (parkWait c.ctx ⟨a, wN (t - 2), false, .group c.g (t - 2)⟩ (modOp c.g (fun o => { o with asked := t }) s))
    | (_, s) => some (localErr c.g cXLATE s)
  else if c.o.freeTo + 2 < t || (3 ≤ t && c.o.upNext / per < t - 1) then none
  else
    let next (s : State) : State := modOp c.g (fun o => { o with dnNext := o.dnNext + 1 }) s
    if i < per - 1 then
      match segHere s c.g pred with
      | none => none
      | some bs =>
        let bs := padTo (segLen c.o.count i) bs
        some <| withWrite c (ringBuf c.o t + 4096 * i) bs false (fun s =>
          modOp c.g (fun o => { o with crcIn := crc64 (if i = 0 then 0 else o.crcIn) bs }) (next (takeSeg c.g pred c.o s))) s
    else
      match ctlFrom s c.g pred (fun h => pSub h == subWMARK && bitsN h.arg2 0 16 == t % 65536) with
      | none => none
      | some p =>
        if fieldLe (payloadOf p) 0 8 != c.o.crcIn then some (groupError c.g rMISMATCH statGROUPERR s)
        else some (containedLate c.o.ring (raiseSig c.ctx c.o.sig) (next s))

def ringStep (c : ColCtx) (s : State) : Option State :=
  match ringTake c s with
  | some s => some s
  | none => ringSend c s

def ringOver (c : ColCtx) : Bool :=
  let per := segCount c.o.count + 1
  per * (c.m - 1) ≤ c.o.upNext && per * (c.m - 1) ≤ c.o.dnNext

/-! ## RESHARD: R298, R299 -/

def planNent (b : List Byte) : Nat := fieldLe b 0 4
/-- Entry e of a plan: SRANK, DRANK, SADDR, DADDR, LEN. -/
def planEntry (b : List Byte) (e : Nat) : Nat × Nat × Nat × Nat × Nat :=
  let p := 0x40 + 32 * e
  (fieldLe b p 2, fieldLe b (p + 2) 2, fieldLe b (p + 8) 8, fieldLe b (p + 16) 8, fieldLe b (p + 24) 8)

/-- Entries that a rank executes. -/
def ownEntries (c : ColCtx) : List Nat := (List.range (planNent c.o.buf)).filter (fun e => e % c.m == c.r)

/-- Queue the GETFs of one entry. -/
def runEntry (c : ColCtx) (e : Nat) (s : State) : State :=
  let (sr, dr, sa, da, n) := planEntry c.o.buf e
  let node (r : Nat) : Nat := ((s.grp c.g).list[r]?).getD 0
  let chunks := ceilDiv n 4096
  let s := modOp c.g (fun o => { o with left := smPut e chunks o.left }) s
  (List.range chunks).foldl (fun s j =>
    request ⟨0x1000 + c.g, 0, mkPacket { Hdr.zero with
      opc := 5, dst := node sr, dom := ctxDom s c.ctx, flow := 0x1000 + c.g, addr := (sa + 4096 * j) % 2 ^ 48,
      arg0 := node dr * 2 ^ 48 + (da + 4096 * j) % 2 ^ 48, arg1 := min 4096 (n - 4096 * j) } [],
      .col c.g c.o.seq (e * 2 ^ 32 + j), c.ctx, 0, 0, false, []⟩ s) s

/-- The release has arrived: one unit is counted and the entries run. An entry with LEN = 0 is done at once. -/
def release2 (c : ColCtx) (s : State) : State :=
  let es := ownEntries c
  let bad := es.any (fun e => let (sr, dr, _) := planEntry c.o.buf e; c.m ≤ sr || c.m ≤ dr)
  if bad then groupError c.g rPLAN statGROUPERR s
  else
    let s := reshProg c.g c.o (fun p => { p with dn := p.dn + 1 + (es.filter (fun e => (planEntry c.o.buf e).2.2.2.2 == 0)).length }) s
    es.foldl (fun s e => runEntry c e s) (modOp c.g (fun o => { o with phase := 2 }) s)

/-- The close has completed on this member. -/
def closeReshard (c : ColCtx) (s : State) : State :=
  let s := reshProg c.g c.o (fun p => { p with dn := p.dn + 1, st := 2 }) s
  let s := s.setFld F.COL_GRP_EPOCH_EPOCH c.g (s.fld F.COL_GRP_EPOCH_EPOCH c.g + 1)
  modOp c.g (fun o => { o with phase := 4, mark := some o.crc }) s

def reshardStep (c : ColCtx) (s : State) : Option State :=
  let ctl (k i : Nat) : Option (List Byte) := ((((s.grp c.g).peer k).ctl.find? (fun e => e.1 == i)).map (·.2))
  let up (n : Nat) (bs : List Byte) (s : State) : State :=
    modOp c.g (fun o => { o with phase := n }) (sendSeg c.g c.parent c.o false subUP 0 0 bs s)
  match c.o.phase with
  | 0 =>
    let fence := natLe 4 c.o.aux ++ natLe 8 c.o.crc
    let ups := c.kids.map (fun k => ctl k 0)
    if ups.any (·.isNone) then none
    else if ups.any (fun p => slice (payloadOf (p.getD [])) 0 12 != fence) then
      some (groupError c.g rPLAN statGROUPERR s)
    else if c.r = 0 then some (release2 c (toKids c false subDOWN 0 0 [] s))
    else some (up 1 fence s)
  | 1 => (ctl c.parent 0).map (fun _ => release2 c (toKids c false subDOWN 0 0 [] s))
  | 2 =>
    if c.o.left.any (fun e => e.2 != 0) || c.kids.any (fun k => (ctl k 1).isNone) then none
    else if c.r = 0 then some (closeReshard c (toKids c false subDOWN 0 0 [] s))
    else some (up 3 [] s)
  | 3 => (ctl c.parent 1).map (fun _ => closeReshard c (toKids c false subDOWN 0 0 [] s))
  | _ => none

/-! ## Moving on -/

/-- One step of the operation in progress. -/
def colStep (c : ColCtx) (s : State) : Option State :=
  let z : Option State := if c.o.zero then zeroStep c s else none
  match z with
  | some s => some s
  | none =>
    if c.o.op = coALLTOALLV || (c.o.op = coALLTOALL && !c.o.zero) then alltoallStep c s
    else if c.o.zero then none
    else if c.o.op = coALLREDUCE || c.o.op = coREDUCE then allreduceStep c s
    else if c.o.op = coBROADCAST then broadcastStep c s
    else if c.o.op = coALLGATHER then allgatherStep c s
    else if c.o.op = coREDUCESCATTER then reduceScatterStep c s
    else if c.o.op = coRINGPASS then ringStep c s
    else if c.o.op = coPERMUTE then reshardStep c s
    else none

/-- R300, without the cover of what was sent. -/
def colOver (s : State) (c : ColCtx) : Bool :=
  (!c.o.zero || c.o.zph == 3) &&
  (if c.o.op = coALLTOALLV || (c.o.op = coALLTOALL && !c.o.zero) then exchanged s c
   else if c.o.zero then true
   else if c.o.op = coREDUCESCATTER then c.o.dnNext == (segCount (c.o.dnTotal c.m) + 1) * (subtree c.a c.m c.r).length
   else if c.o.op = coRINGPASS then ringOver c
   else c.o.mark.isSome)

/-- VALUE of a completed operation. -/
def colValue (o : ColOp) : Nat :=
  if o.zero && o.status = statWATERMARK then o.mark.getD 0
  else if o.op = coALLTOALL || o.op = coALLTOALLV || o.op = coBARRIER || o.op = coRINGPASS then 0 else o.mark.getD 0

/-- Complete the operation if it is over and everything it sent is granted. -/
def tryComplete (g : Nat) (s : State) : State :=
  match colCtx s g with
  | none => s
  | some c =>
    if colOver s c && (s.grp g).segs.isEmpty && !(s.fab.outst.any (fun r => r.who.ofGroup g)) then
      completeCol g c.o c.o.status (colValue c.o) (scramble c s)
    else s

def colLoop : Nat → Nat → State → State
  | 0, _, s => s
  | n + 1, g, s =>
    match colCtx s g with
    | none => s
    | some c => match colStep c s with
      | none => s
      -- a step that meets memory that is held has not been taken
      | some t => if t.stall then s else colLoop n g t

/-- A bound on the steps that what has arrived can cause: each takes a segment, sends one, or changes a phase. -/
def colFuel (s : State) (g : Nat) : Nat :=
  match colCtx s g with
  | none => 0
  | some c =>
    let n := segCount (c.o.redTotal c.m) + segCount (c.m * c.o.block) + segCount (c.o.dnTotal c.m) * c.m
    4 * n + 8 * c.m + 16

/-- R303: the staging of a group that is no longer enabled, or of an earlier enable, is released once its ABORTs have gone and no
packet of it is in flight here. -/
def releaseStaging (g : Nat) (s : State) : State :=
  let k := s.grp g
  if (grpOn s g || k.staged.isNone) && k.older.isEmpty then s
  else if k.segs.any (fun e => e.sends == 0) || s.fab.outst.any (fun r => r.who.ofGroup g) ||
      s.fab.inbox.any (fun i => fieldLe i.bytes 0 1 == 0x20 && (Hdr.of i.bytes).flow == 0x1000 + g) then s
  else if grpOn s g then s.modGrp g (fun k => { k with older := [] })
  else s.modGrp g (fun _ => ColGrp.reset)

/-- Data segments that a group has consumed since EN was set. -/
def consumedSegs (s : State) (g : Nat) : Nat := ((s.grp g).peers.map (fun kv => kv.2.freed)).sum

/-- Consumption while nothing new may be injected (R275, R373): a step that takes a data segment is made, and what it forms to
send waits; any other step is not. -/
def colTake : Nat → Nat → State → State
  | 0, _, s => s
  | n + 1, g, s =>
    match colCtx s g with
    | none => s
    | some c => match colStep c s with
      | none => s
      | some t => if t.stall || consumedSegs t g ≤ consumedSegs s g then s else colTake n g t

/-- Move a group on. Under Frost and HOLD nothing new is sent and consumption goes on; Frost lets GRANTs go (R275, R373). -/
def colPump (g : Nat) (s : State) : State :=
  let s := if mayInject s then colLoop (colFuel s g) g (sendUnsent g s) else colTake (colFuel s g) g s
  let s := if mayInject s then sendUnsent g s else s
  let s := if s.flag F.FAB_CTL_HOLD then s else sendGrants g s
  releaseStaging g (tryComplete g s)

/-- Move every group on. -/
def colPumpAll (s : State) : State := (s.col.map (·.1)).foldl (fun s g => colPump g s) s

/-! ## Starting: COLLECTIVE_START -/

/-- What an operation does first. -/
def beginCol (c : ColCtx) (s : State) : State :=
  if c.o.op = coPERMUTE then
    withRead c c.o.src 64 (fun h s =>
      withRead c c.o.src (64 + 32 * planNent h) (fun b s =>
        let c := { c with o := { c.o with buf := b } }
        let s := modOp c.g (fun o => { o with buf := b, crc := crc64 0 b }) s
        reshProg c.g c.o (fun _ => ⟨0, (ownEntries c).length + 2, 1, 0, 0⟩) s) s) s
  else if c.o.op = coALLTOALLV then
    withRead c c.o.aux (8 * c.m) (fun b s => sendReadies c ((List.range c.m).map (fun j => fieldLe b (8 * j) 8)) s) s
  else if c.o.op = coALLTOALL && !c.o.zero then sendReadies c (List.replicate c.m c.o.count) s
  else if c.o.op = coRINGPASS && c.m = 1 then modOp c.g (fun o => { o with mark := some 0 }) s
  else if inPlaceWide c.o && !c.o.zero then
    withRead c c.o.src c.o.block (fun b s => modOp c.g (fun o => { o with buf := b }) s) s
  else s

/-! ## Arriving packets: R289, R290 -/

/-- Whether a packet differs from the operation it names. -/
def colMismatch (o : ColOp) (h : Hdr) : Bool :=
  bitsN h.arg0 40 8 != o.op || bitsN h.arg0 48 4 != o.dtype || bitsN h.arg0 52 4 != o.redop ||
  bitN h.arg0 56 != o.strict || pEpoch h != o.epoch % 65536 ||
  (o.op != coALLTOALLV && o.op != coPERMUTE && pSeg h == 0 &&
    (pSub h == subUP || (pSub h == subDOWN && o.op != coREDUCESCATTER)) && h.arg2 != o.count)

/-- Position of a data segment in its peer's stream. -/
def segPos (c : ColCtx) (h : Hdr) : Nat :=
  if c.o.op = coREDUCESCATTER && pSub h = subDOWN then
    ((subtree c.a c.m c.r).idxOf (bitsN h.arg2 0 16)) * segCount (c.o.dnTotal c.m) + pSeg h
  else if c.o.op = coRINGPASS && pSub h = subRING then (h.arg2 - 1) * segCount c.o.count + pSeg h
  else pSeg h

/-- Whether a segment is data that takes a slot. -/
def isData (o : ColOp) (h : Hdr) : Bool :=
  (pSub h == subUP || pSub h == subDOWN || pSub h == subRING) && !o.zero && o.op != coPERMUTE

/-- Whether a segment comes from the peer it may come from. -/
def fromPeer (c : ColCtx) (h : Hdr) : Bool :=
  let q := pRank h
  let sub := pSub h
  if sub = subUP then c.kids.contains q
  else if sub = subDOWN then c.r != 0 && q == c.parent
  else if sub = subWMARK then (if c.o.op = coRINGPASS && !c.o.zero then q == (c.r + c.m - 1) % c.m else c.r != 0 && q == c.parent)
  else if sub = subRING then q == (c.r + c.m - 1) % c.m
  else q != c.r

/-- A GRANT's counts (R289): segments up to them are covered. One whose counts are as before answers a copy that the peer holds
and has not consumed, for which no timeout applies (R303): of the data segments sent again, the one whose last copy is the oldest
is counted anew (DESIGN CHOICE, assumption 187: a GRANT does not name the copy that it answers). -/
def takeGrant (g : Nat) (h : Hdr) (s : State) : State :=
  let q := pRank h
  let p := (s.grp g).peer q
  -- counts are modulo 2^32 and never run ahead of what was sent
  let adv (old sent v : Nat) : Nat := let d := (v + 2 ^ 32 - old % 2 ^ 32) % 2 ^ 32; if old + d ≤ sent then old + d else old
  let d := adv p.dCov p.dSent (pSeg h)
  let n := adv p.cCov p.cSent h.arg2
  let s := modPeer g q (fun p => { p with dCov := d, cCov := n }) s
  let left := (s.grp g).segs.filter (fun e =>
    !(e.peer == q && ((e.kind == 1 && e.num ≤ d) || (e.kind != 1 && e.num ≤ n))))
  let again := left.filter (fun e => e.peer == q && e.kind == 1 && 2 ≤ e.sends)
  let known := if d = p.dCov && n = p.cCov then
      again.foldl (fun b e => match b with | some x => if e.sentAt < x.sentAt then some e else b | none => some e) none
    else none
  s.modGrp g (fun k => { k with segs := left.map (fun e => if some e == known then { e with sends := 1 } else e) })

/-- STRICT_EFF as it was when this member dispatched an operation (Table 13.4). -/
def strictOf (s : State) (g seq : Nat) : Bool :=
  let k := s.grp g
  match k.ops.find? (fun o => o.seq == seq) with
  | some o => o.strict
  | none => if k.base = 0 then strictEff s else k.lastStrict

/-- Answer a segment with the present counts. -/
def grantDue (g q arg0 ep : Nat) (s : State) : State :=
  let a := setBitsN arg0 32 8 subGRANT
  let a := setBitsN a 56 1 (if strictOf s g (bitsN arg0 0 32) then 1 else 0)
  modPeer g q (fun p => { p with due := some (a, ep) }) s

/-- Whether two packets are copies of one segment: they differ in flags, stamp and PCRC at most. -/
def sameSeg (a b : List Byte) : Bool :=
  let h := Hdr.of a
  let k := Hdr.of b
  h.src == k.src && h.arg0 == k.arg0 && h.arg1 == k.arg1 && h.arg2 == k.arg2

/-- Hold a packet of the next operation until it starts; a copy of one held, and a control segment, is answered (R289). -/
def holdPkt (g : Nat) (pkt : List Byte) (s : State) : State :=
  let h := Hdr.of pkt
  let copy := (s.grp g).held.any (sameSeg pkt)
  let s := if copy then s else s.modGrp g (fun k => { k with held := k.held ++ [pkt] })
  if pSub h != subGRANT && (copy || (heldCtl (pRank h) pkt).isSome) then grantDue g (pRank h) h.arg0 (pEpoch h) s else s

/-- A segment of the operation in progress. -/
def takeSegment (c : ColCtx) (pkt : List Byte) (s : State) : State :=
  let h := Hdr.of pkt
  let q := pRank h
  if colMismatch c.o h then groupError c.g rMISMATCH statGROUPERR s
  else if !(fromPeer c h) then s
  else if isData c.o h then
    let p := (s.grp c.g).peer q
    let pos := segPos c h
    if pos < p.next || p.got.any (fun e => e.1 == pos) then grantDue c.g q h.arg0 (pEpoch h) s
    else if bitN h.flags 0 then groupError c.g rPOISON statGROUPERR s
    else modPeer c.g q (fun p => { p with got := smPut pos (payloadOf pkt) p.got }) s
  else
    let s := if ((s.grp c.g).peer q).ctl.any (fun e => e.1 == pSeg h) then s
      else modPeer c.g q (fun p => { p with ctl := smPut (pSeg h) pkt p.ctl }) s
    grantDue c.g q h.arg0 (pEpoch h) s

/-- ABORT: the group enters ERROR and forwards it (R302). It is a control segment of the sender, whose SEG says how many control
segments of its operation went before it; with it they are all received as far as GRANT counts go, and a GRANT answers it. -/
def takeAbort (g : Nat) (h : Hdr) (s : State) : State :=
  let q := pRank h
  let p := (s.grp g).peer q
  let d := (pSeq h + 2 ^ 32 - (s.grp g).base) % 2 ^ 32
  let n := if grpState s g != csReady then p.cBase + 1
    else if d = 1 then p.cBase + pSeg h + 1
    else if d = 2 then p.cBase + p.ctl.length + pSeg h + 1 else p.cBase + p.ctl.length + 1
  let s := leaveGroup g s
  let s := if p.aborted then s else modPeer g q (fun p => { p with cBase := n, ctl := [], aborted := true }) s
  grantDue g q h.arg0 (pEpoch h) s

/-- A COL packet of an enabled group. -/
def colArrive (g : Nat) (pkt : List Byte) (s : State) : State :=
  let h := Hdr.of pkt
  let k := s.grp g
  let sub := pSub h
  let q := pRank h
  if !(grpOn s g) || domCtx s h.dom != some (grpCtx s g) || k.list[q]? != some h.src then s
  else if sub = subABORT then takeAbort g h s
  else if grpState s g != csReady then (if sub = subGRANT then takeGrant g h s else s)
  else
    let d := (pSeq h + 2 ^ 32 - k.base) % 2 ^ 32
    let cur := colCtx s g
    if d = 0 || 2 ^ 31 ≤ d then
      if sub = subGRANT then takeGrant g h s else grantDue g q h.arg0 (pEpoch h) s
    else match cur with
      | some c =>
        if d = 1 then
          if sub != subGRANT then takeSegment c pkt s
          else if colMismatch c.o h then groupError g rMISMATCH statGROUPERR s else takeGrant g h s
        else if d = 2 then holdPkt g pkt s
        else groupError g rSEQ statGROUPERR s
      | none => if d = 1 then holdPkt g pkt s else groupError g rSEQ statGROUPERR s

/-- COLLECTIVE_START: the group's next operation starts, and the packets held for it are checked. -/
def startCol (g : Nat) (s : State) : State :=
  match (s.grp g).ops with
  | [] => s
  | o :: _ =>
    if o.started || grpState s g != csReady || !(mayInject s) || partHeld s (s.fld F.COL_GRP_CTL_SLICE g) .col then s
    else
      let s := modOp g (fun o => { o with started := true }) s
      let s := trace 0x20 (some (grpCtx s g)) g o.op o.seq 0 s
      let held := (s.grp g).held
      let s := s.modGrp g (fun k => { k with held := [] })
      let s := match colCtx s g with | some c => beginCol c s | none => s
      colPump g (held.foldl (fun s p => colArrive g p s) s)

/-- Take the first delivered COL packet for which p holds. -/
def takeCol (p : Nat → Bool) (s : State) : Option (List Byte × State) :=
  match s.fab.inbox.find? (fun i => fieldLe i.bytes 0 1 == 0x20 && p (pSub (Hdr.of i.bytes))) with
  | none => none
  | some i =>
    some (i.bytes, leaveInbox i (noise s))

/-- Subtypes that Table 13.5 reserves: such a packet is discarded. -/
def subOther (n : Nat) : Bool := !([1, 2, 3, 4, 5, 6, 7, 10].contains n)

def opCol (p : Nat → Bool) (s : State) : State :=
  match takeCol p s with
  | none => s
  | some (pkt, s) =>
    let f := (Hdr.of pkt).flow
    if subOther (pSub (Hdr.of pkt)) then s
    else if 0x1000 ≤ f && f < 0x2000 then colPump (f - 0x1000) (colArrive (f - 0x1000) pkt s) else s

/-- R289: a segment not covered within TMO. -/
def segTimeout (g peer kind num : Nat) (s : State) : State :=
  match (s.grp g).segs.find? (fun e => e.peer == peer && e.kind == kind && e.num == num && 0 < e.sends) with
  | none => s
  | some e =>
    if !(mayInject s) then s
    else
    let s := passTo (e.sentAt + s.fld F.FAB_TP_CTL_TMO * 1000) s
    if s.fld F.FAB_TP_CTL_RETRY + 1 ≤ e.sends then
      if kind = 2 then s.modGrp g (fun k => { k with segs := k.segs.erase e }) else colPump g (groupError g rTIMEOUT statGROUPERR s)
    else
      let h := Hdr.of e.pkt
      let pkt := mkPacket { h with flags := h.flags ||| 4, stamp := s.timebase } (payloadOf e.pkt)
      let s := s.modGrp g (fun k => { k with segs := k.segs.map (fun x => if x == e then { x with sends := x.sends + 1, sentAt := s.now } else x) })
      inject pkt s

/-! ## Responses to the engine's requests: R269, R293, R298 -/

/-- A GET_DATA or an ACK for a group's request. -/
def colAnswer (g op tag st : Nat) (data : List Byte) (s : State) : State :=
  match colCtx s g with
  | none => s
  | some c =>
    if c.o.seq != op then s
    else if st = stLOCAL then localErr g cACCESS s
    else if st != 0 && st != stPOISON then groupError g rTIMEOUT statGROUPERR s
    else
      let i := tag / 2 ^ 32
      let n := smGet 0 c.o.left i
      let s := modOp g (fun o => { o with
        left := smPut i (n - 1) o.left
        pulled := if c.o.op = coPERMUTE then o.pulled else smPut tag data o.pulled
        status := if st = stPOISON then 4 else o.status }) s
      let s := if c.o.op = coPERMUTE && n = 1 then reshProg g c.o (fun p => { p with dn := p.dn + 1 }) s else s
      colPump g s

/-! ## COL_GRP_CTL: R281, R303 -/

/-- R255. -/
def nodeValid (s : State) (n : Nat) : Bool := (List.range 4).all (fun d => coord n d < dimSize s d)

/-- Staging that a group holds in its slice (R287). -/
def staging (a m r slots : Nat) : Nat :=
  ((kidsOf a m r).length + (if r = 0 then 0 else 1)) * 2 * slots * 4096 + 16 * m

/-- Staging in use in a slice. -/
def stagingUsed (s : State) (slice : Nat) : Nat :=
  ((s.col.flatMap (fun kv => kv.2.staged.toList ++ kv.2.older)).map (fun x => if x.1 = slice then x.2 else 0)).sum

/-- The member list at an address: ARITY and nodes, if it is well formed. -/
def readList (s : State) (a : Nat) : Option (Nat × List Nat) :=
  if !(rangeHbm s a 16) || poisoned s a 16 then none
  else
    let h := rdBytes s a 16
    let n := fieldLe h 0 4
    let ar := fieldLe h 4 1
    if n = 0 || 65536 < n || !([2, 4, 8, 16].contains ar) || fieldLe h 5 11 != 0 then none
    else if !(rangeHbm s a (16 + 2 * n)) || poisoned s (a + 16) (2 * n) then none
    else some (ar, (List.range n).map (fun r => rdNat s (a + 16 + 2 * r) 2))

def distinct : List Nat → Bool
  | [] => true
  | x :: l => !(l.contains x) && distinct l

/-- A write of COL_GRP_CTL. -/
def grpCtl (g v : Nat) (s : State) : State :=
  if grpOn s g then
    if bitN v 0 then s
    else
      let s := leaveGroup g s
      let s := (s.setFld F.COL_GRP_CTL_EN g 0).setFld F.COL_GRP_STAT_STATE g csOff
      colPump g s
  else
    let s := s.regWrite .COL_GRP_CTL g (setBitsN v 0 1 0)
    if !(bitN v 0) then s
    else
    let a := s.fld F.COL_GRP_LIST_ADDR g * 64
    let s := needs a (16 + 2 * min (rdNat s a 4) 65536) s
    match readList s a with
      | none => s
      | some (ar, l) =>
        let ctx := grpCtx s g
        let r := l.idxOf (nodeId s)
        let sl := s.fld F.COL_GRP_CTL_SLICE g
        let room := (partSizes (s.reg .VAT_PART sl).toNat).2.1
        if l.all (nodeValid s) && distinct l && r < l.length && ctxExists s ctx && s.flag F.FAB_CTX_DOM_EN ctx &&
            stagingUsed s sl + staging ar l.length r (grpSlots s g) ≤ room then
          let s := s.setFld F.COL_GRP_CTL_EN g 1
          let s := s.setReg .COL_GRP_STAT g (wN (csReady + bitsN (s.reg .COL_GRP_STAT g).toNat 8 8 * 256 + r * 65536))
          let s := s.setFld F.COL_GRP_EPOCH_EPOCH g 0
          s.modGrp g (fun k => { ColGrp.reset with
            older := k.staged.toList ++ k.older
            list := l, arity := ar, staged := some (sl, staging ar l.length r (grpSlots s g)) })
        else s

end Sys2Proof.Machine
end

