-- ==== Sys2Proof/Machine/CpMem.lean ====
section
/-! DEFINITION. Memory accesses of a control processor (R137, R141, R142, R167, Table 8.10): where the bytes of one access
lie, the exception of one that fails, and reading and storing located bytes. -/

namespace Sys2Proof.Machine

/-! ## Memory accesses: R137, R141, R142, R167, Table 8.10 -/

def accessCause : Acs → Nat
  | .x => 1 | .r => 5 | _ => 7
def pageCause : Acs → Nat
  | .x => 12 | .r => 13 | _ => 15

/-- Where one byte of an access lies. -/
inductive ByteAt where
  | phys (a : Nat)
  | host (a : Nat)
  | exc (cause : Nat)
  | walkPoison (a : Nat)
  | held
deriving DecidableEq, Repr

def byteAt (s : State) (c ctx va : Nat) (k : Acs) : ByteAt :=
  if 2 ^ 48 ≤ va then .exc (accessCause k)
  else if inWindow va then
    if k == .x || winBase + spSize ≤ va then .exc (accessCause k) else .phys (padAddr c (va - winBase))
  else match xlate s ctx va k with
    | .fault => .exc (pageCause k)
    | .poison a => .walkPoison a
    | .host a => if k == .rw then .exc (accessCause k) else .host a
    | .held => .held
    | .ok a _ => .phys a

/-- The outcome of locating an access: its bytes' places, an exception, or a stop by a contained error. -/
inductive Where where
  | at (l : List ByteAt)
  | exc (cause : Nat) (tval : Nat) (s : State)
deriving DecidableEq, Repr

def physOf : ByteAt → Option Nat
  | .phys a => some a
  | _ => none

/-- R167: the parts of the Vat, and the rest of memory, that an access reaches: none when it stays outside the Vat. -/
def vatPart (s : State) : ByteAt → Option (Nat × Part)
  | .phys a => match region s a with
    | .vat b p => some (b, p)
    | _ => none
  | _ => none

/-- A located byte that is held. -/
def byteHeld (s : State) : ByteAt → Bool
  | .held => true
  | .phys a => anyHold s && heldAt s a
  | _ => false

/-- Locate the n bytes of one access at va. An access that needs memory that is held waits. The first byte that fails decides; its
address is in stval. The partition rule covers the access as a whole, and comes after what single bytes meet: a write or AMO that
straddles SYNC and SCRATCH takes the page fault of its SYNC bytes, not the access fault of two partitions (DESIGN CHOICE,
assumption 177). -/
def locateCp (c ctx va n : Nat) (k : Acs) (s : State) : Where :=
  let l := (List.range n).map (fun i => byteAt s c ctx ((va + i) % 2 ^ 64) k)
  let bad := (l.zipIdx).find? (fun x => match x.1 with | .exc _ => true | .walkPoison _ => true | _ => false)
  if l.any (byteHeld s) then .exc (accessCause k) va { s with stall := true }
  else match bad with
  | some (.exc cause, i) => .exc cause ((va + i) % 2 ^ 64) s
  | some (.walkPoison a, i) => .exc (accessCause k) ((va + i) % 2 ^ 64) (consumed (some ctx) a s)
  | _ =>
    let parts := l.map (vatPart s)
    let hole := l.zipIdx.find? (fun x => match x.1 with | .phys a => !(backed s a) | _ => false)
    match hole with
    | some (_, i) => .exc (accessCause k) ((va + i) % 2 ^ 64) s
    | none =>
      if parts.any (fun p => match p with | some (_, .col) => true | some (_, .link) => true | some (_, .membuf) => true | _ => false)
      then .exc (accessCause k) va s
      else if k != .r && parts.any (fun p => match p with | some (_, .sync) => true | _ => false) then .exc (pageCause k) va s
      else if parts.any (fun p => p != parts.headD none) then .exc (accessCause k) va s
      else .at l

/-- Note the accesses that the bytes of an access at va and its walk make (R380): a piece of a line, or of two. -/
def noteAt (ctx va : Nat) (l : List ByteAt) (s : State) : State :=
  let p := l.filterMap physOf
  ([p.head?, p.getLast?].filterMap id).foldl (fun s a => touch a s) (if inWindow va then s else noteWalk ctx va s)

/-- Whether a byte is a scratchpad byte: its poison is a contained error (Table 18.2, class 1). -/
def isPad (s : State) (a : Nat) : Bool := match region s a with | .pad _ _ => true | _ => false

/-- What a poisoned byte does to a read or fetch by a control processor. -/
inductive Poi where
  | clean
  | fault (s : State)
  | stop (s : State)
deriving DecidableEq, Repr

def readPoison (c ctx : Nat) (l : List ByteAt) (s : State) : Poi :=
  match (l.filterMap physOf).find? (fun a => poisonAt s a) with
  | none => .clean
  | some a => if isPad s a then .stop (contained (some ctx) 0 c 1 a 0 s) else .fault (consumed (some ctx) a s)

/-- Read located bytes; bytes of a HOST page come from the host's answer, in order. -/
def readAt (s : State) : List ByteAt → List Byte → List Byte
  | [], _ => []
  | .phys a :: l, h => rd8 s a :: readAt s l h
  | .host _ :: l, h => h.headD 0 :: readAt s l (h.drop 1)
  | _ :: l, h => 0 :: readAt s l h

def anyHost (l : List ByteAt) : Bool := l.any (fun b => match b with | .host _ => true | _ => false)

/-- Runs of consecutive addresses of one kind: host or not, first address, bytes. -/
def runsOf : List (ByteAt × Byte) → List (Bool × Nat × List Byte)
  | [] => []
  | (b, v) :: l =>
    let (h, a) : Bool × Nat := match b with | .phys a => (false, a) | .host a => (true, a) | _ => (false, 0)
    match runsOf l with
    | (h', a', vs) :: r => if h == h' && a' = a + 1 then (h, a, v :: vs) :: r else (h, a, [v]) :: (h', a', vs) :: r
    | [] => [(h, a, [v])]

/-- Issue the host reads that located bytes need, in order. -/
def askHostAt (ctx : Nat) (l : List ByteAt) (s : State) : State :=
  (runsOf (l.map (fun b => (b, (0 : Byte))))).foldl (fun s r =>
    if r.1 then emit (.hostRead ctx r.2.1 r.2.2.length) s else s) s

/-- Store bytes to located places. -/
def storeAt (ctx : Nat) (l : List ByteAt) (bs : List Byte) (s : State) : State :=
  (runsOf (l.zip bs)).foldl (fun s r =>
    if r.1 then emit (.hostWrite ctx r.2.1 r.2.2 false) s else store ctx r.2.1 r.2.2 false s) s

end Sys2Proof.Machine
end

