-- ==== Sys2Proof/Machine/Held.lean ====
section
/-! DEFINITION. Accesses from outside the engines to device-physical memory (R176, R180, R194), and their wait while the memory they
name is held (R168, R183, R190, R356). -/

namespace Sys2Proof.Machine

/-- An access waits behind those that already do if its memory is held. -/
def holdAcc (x : HeldAcc) (s : State) : State := s.modMem (fun m => { m with held := m.held ++ [x] })

/-- First byte and length of what an access names. -/
def HeldAcc.range : HeldAcc → Nat × Nat
  | .line l _ => (64 * l, 64)
  | .write _ a d _ => (a, d.length)
  | .bar4 a n => (a, n)

/-- A host read through BAR4 that is served (R194): what the engines keep in COL, LINK and MEMBUF is theirs, and its bytes are
free values. Unsupported request if any byte is unbacked. -/
def bar4Read (a n : Nat) (s : State) : State :=
  if !(allBytes (backed s) a n) then emit (.completion false [] false) s
  else
    let p := poisoned s a n
    let s := if p then consumed (some 0) (firstPoison s a n) s else s
    let (i, s) := (touchRange a n s).fresh
    let byte (x : Nat) : Byte := match region s x with
      | .vat _ .col => Config.freeByte i x
      | .vat _ .link => Config.freeByte i x
      | .vat _ .membuf => Config.freeByte i x
      | _ => rd8 s x
    emit (.completion true ((List.range n).map (fun k => byte (a + k))) p) s

/-- Perform an access. -/
def HeldAcc.perform (x : HeldAcc) (s : State) : State :=
  match x with
  | .line l found => lineRead (64 * l) found false s
  | .write ctx a d poison => store ctx a d poison s
  | .bar4 a n => bar4Read a n s

/-- Perform an access, or let it wait. -/
def access (x : HeldAcc) (s : State) : State :=
  if heldRange s x.range.1 x.range.2 then holdAcc x s else x.perform s

/-- Perform the accesses that wait and whose memory is served again, oldest first. -/
def serveHeld (s : State) : State :=
  s.mem.held.foldl (fun s x => access x s) (s.modMem (fun m => { m with held := [] }))

end Sys2Proof.Machine
end

