-- ==== Sys2Proof/Machine/Context.lean ====
section
/-! DEFINITION. The function-level reset of a context (R216), and what a contained error does (R368). -/

namespace Sys2Proof.Machine

/-- Rings of a context that are not OFF. -/
def ctxRings (s : State) (n : Nat) : List Nat :=
  (s.fe.rings.filter (fun kv => kv.2.st != rsOff && ringCtx s kv.1 == n)).map (·.1)

/-- R216: the monitor ends one core's part of a launch: as TEXIT with status 0x8000_0200 with every queue FLUSHed. A core
that has been switched out of the launch is recorded at once, and is IDLE if the context still owns it: no restore then brings
it back into the launch. -/
def endLaunchCore (r seq c : Nat) (s : State) : State :=
  if (s.core c).launch = some (r, seq) && (s.core c).launched then
    match (s.core c).park with
    | some (.texit _ _ _) => s.modCore c (fun k => { k with mq := flushQ k.mq, vq := flushQ k.vq, lq := flushQ k.lq, dq := flushQ k.dq })
    | _ => beginExit c (wN 0x80000200) true (s.setFld F.CORE_CTX_STAT_STATE c csRunning)
  else
    match s.fe.launches.find? (fun l => l.ring == r && l.seq == seq) with
    | some l =>
      if smGet 0 l.exited c != 0 then s
      else
        let st := coreState s c
        let s := if (st = csSaved || st = csRestoring) && s.fld F.CORE_OWNER_CTX c = l.ctx then
          s.setFld F.CORE_CTX_STAT_STATE c csIdle else s
        exitLaunch r seq c 0x80000200 (s.modCore c (fun k =>
          { k with launch := if k.launch = some (r, seq) then none else k.launch }))
    | none => s

/-- Ports return credit again (R249). -/
def dropHolds (s : State) : State :=
  (List.range 16).foldl (fun s p => s.modPort p (fun k => { k with hold := false, heldCr := [] })) s

/-- The dirty shadows, and their number in TXN_STAT.DIRTY (R416). -/
def setShadows (l : SMap Word) (s : State) : State :=
  (s.modTxn (fun t => { t with shadows := l })).setFld F.TXN_STAT_DIRTY 0 l.length

/-- R420: an abort of the configuration transaction: holds are released, nothing is applied, shadows go. -/
def txnDrop (s : State) : State :=
  let st := s.fld F.TXN_STAT_STATE
  if st = 0 then s
  else
    let s := (s.setFld F.TXN_STAT_STATE 0 0).setFld F.TXN_STAT_RESULT 0 4
    let s := dropHolds (setShadows [] s)
    if st = 2 then setProg 2 { (s.prog 2) with st := 3 } s else s

/-- R216. A reset of the PF also aborts the transaction (R422). -/
def flr (n : Nat) (s : State) : State :=
  let s := if n = 0 then txnDrop s else s
  let s := (ctxRings s n).foldl (fun s r => abortRing r s) s
  let s := (s.fe.launches.filter (fun l => l.ctx == n && l.started)).foldl (fun s l =>
    (coresOf l.mask).foldl (fun s c => endLaunchCore l.ring l.seq c s) s) s
  let s := s.modFe (fun f => { f with events := f.events.filter (fun e => e.1 / 1024 != n) })
  leaveGroups n s

/-- R368. -/
def killCtx (n : Nat) (s : State) : State :=
  flr n (s.setReg .DEV_ERR_CTX 0 (s.reg .DEV_ERR_CTX 0 ||| wN (2 ^ n)))

/-- End the contexts that contained errors name, and those their ends name in turn. -/
def settleKills : Nat → State → State
  | 0, s => { s with kills := [] }
  | n + 1, s =>
    match s.kills with
    | [] => s
    | c :: l => settleKills n (killCtx c { s with kills := l })

/-- R358: every function. -/
def flrAll (s : State) : State := (List.range 64).foldl (fun s n => if ctxExists s n then flr n s else s) s

end Sys2Proof.Machine
end

