-- ==== Sys2Proof/Machine/Frost.lean ====
section
/-! DEFINITION. Frost (R372 to R378): entry, the local cut, rounds and the cut, the start of a dump, and Thaw. -/

namespace Sys2Proof.Machine

def fsRUN : Nat := 0
def fsSTOPPING : Nat := 1
def fsLOCAL : Nat := 2
def fsCUT : Nat := 3

def frostState (s : State) : Nat := s.fld F.DEV_FROST_STAT_STATE
def fgen (s : State) : Nat := s.fld F.DEV_FROST_STAT_FGEN

/-- Entry sources (Table 18.5). -/
def fsrcDESC : Nat := 1
def fsrcPIN : Nat := 2
def fsrcMARKER : Nat := 3
def fsrcPOLICY : Nat := 4
def fsrcREG : Nat := 5
def fsrcMGMT : Nat := 6

def activePorts (s : State) : List Nat := (List.range 16).filter (portActive s)

/-- Table 18.6. -/
def markerBody (kind gen round origin : Nat) : List Byte :=
  natLe 1 3 ++ natLe 1 kind ++ natLe 2 gen ++ natLe 1 round ++ natLe 2 origin

/-- Send a marker of an origin on every ACTIVE port. -/
def sendMarkerOf (origin kind round : Nat) (s : State) : State :=
  (activePorts s).foldl (fun s p => sendCtrl p (markerBody kind (fgen s) round origin) s) s

/-- Send a marker of the Frost in progress on every ACTIVE port. -/
def sendMarker (kind round : Nat) (s : State) : State := sendMarkerOf s.frost.origin kind round s

/-- Forward a THAW that is due, once (R378). -/
def forwardThaw (s : State) : State :=
  if s.frost.thawFwd then (sendMarkerOf s.frost.thawBy 3 0 s).modFrost (fun f => { f with thawFwd := false, thawSent := true }) else s

/-- Progress of the dump (Table 9.18, slot 3). -/
def dumpProg (n st : Nat) (s : State) : State := setProg 3 ⟨n, 196, st, 0, 0⟩ s

def startDump (s : State) : State := dumpProg 0 1 (s.modFrost (fun f => { f with dumping := true }))

/-- Whether the device drives FROST_N low: from entry until its Thaw begins, with PIN_OUT = 1. -/
def drivesFrostN (s : State) : Bool := s.flag F.DEV_FROST_CTL_PIN_OUT && frozen s

/-- R378: leave Frost at T0 = now. Timers go on where they stopped, and each compute slot resumes in its Thaw wave. -/
def leaveFrost (s : State) : State :=
  let dt := s.now - s.frost.since
  let t := s.now
  -- the pin that the device drove is high again (R428)
  let s := if drivesFrostN s then s.modRst (fun r => { r with frostHigh := t }) else s
  let s := forwardThaw s
  let s := s.setFld F.DEV_FROST_STAT_STATE 0 fsRUN
  let s := s.modFrost (fun f => { f with thawDue := false, rounds := [], desc := none })
  let s := if s.fld F.TXN_STAT_STATE = 2 then s.modTxn (fun t => { t with deadline := t.deadline + dt }) else s
  let s := s.modFe (fun fe => { fe with rings := fe.rings.map (fun kv => (kv.1, { kv.2 with
    wdogFrom := if kv.2.wdogFrom = 0 then 0 else kv.2.wdogFrom + dt
    descs := kv.2.descs.map (fun d => if d.phase == .running then { d with started := d.started + dt } else d) })) })
  let s : State := { s with col := s.col.map (fun kv => (kv.1, { kv.2 with
    segs := kv.2.segs.map (fun e => { e with sentAt := e.sentAt + dt }) })) }
  let s := s.modFrost (fun f => { f with thawing := f.thawing.map (fun t => { t with t0 := t.t0 + dt }) })
  let w := s.fld F.PWR_THAW_W
  (beginThaw true s).modFrost (fun f => { f with held := if w = 0 then 0 else f.held })

/-- The released instructions of a slot retire, those that nothing holds back (R235, R378). -/
def retireSlot (slot : Nat) (s : State) : State :=
  (List.range 16).foldl (fun s j =>
    let c := 16 * slot + j
    match (s.core c).retire with
    | some (rd, v, id) => if mayRetire s c id then retireCore c rd v s else s
    | none => s) s

/-- A Thaw that is due takes effect once the cut is reached and no dump runs. A HOLD Frost stays until a reset (R369), and the
THAW is forwarded all the same. -/
def tryThaw (s : State) : State :=
  if s.frost.thawDue && frostState s = fsCUT && !s.frost.dumping then
    if s.fld F.DEV_FROST_STAT_SRC = fsrcPOLICY then
      (forwardThaw s).modFrost (fun f => { f with thawDue := false })
    else
    let s := leaveFrost s
    if s.frost.held = 0 then (List.range 12).foldl (fun s i => retireSlot i s) s else s
  else s

/-- The cut is reached (R375): a FROST descriptor completes and a dump starts. -/
def reachCut (s : State) : State :=
  let t := s.timebase
  let s := (s.setFld F.DEV_FROST_STAT_STATE 0 fsCUT).modFrost (fun f => { f with cutAt := t })
  let s := match s.frost.desc with
    | some (r, seq) => finishDesc r seq 0 0 false 0 (s.modFrost (fun f => { f with desc := none }))
    | none => s
  let s := if s.flag F.DEV_FROST_CTL_DUMP || s.fld F.DEV_FROST_STAT_SRC = fsrcPOLICY then startDump s else s
  tryThaw s

/-- Rounds reached from the present one (R375). -/
def frostRounds : Nat → State → State
  | 0, s => s
  | n + 1, s =>
    if frostState s != fsLOCAL then s
    else
      let r := s.fld F.DEV_FROST_STAT_ROUND
      if s.frost.scope = 0 || s.fld F.DEV_FROST_CTL_ROUNDS ≤ r then reachCut s
      else if (activePorts s).all (fun p => smGet false s.frost.rounds (r * 16 + p)) then
        frostRounds n (sendMarker 2 (r + 1) (s.setFld F.DEV_FROST_STAT_ROUND 0 (r + 1)))
      else s

def frostAdvance (s : State) : State := frostRounds 66 s

/-- R374: engines are at their boundaries at every point between commands, but for a matrix group in progress. Every D2D
retrain has ended and the frames dealt again have been delivered (R318). -/
def atLocalCut (s : State) : Bool :=
  s.d2d.mods.all (fun m => m.2.retrain.isNone) && s.d2d.paths.all (fun p => p.2.redeal.isEmpty && p.2.again.isEmpty) && s.fab.outst.isEmpty && s.col.all (fun kv => !(kv.2.segs.any (fun e => e.kind == 1 && e.sends != 0))) &&
  s.cores.all (fun kv => kv.2.inReset || match kv.2.mop with | some o => o.pp.isEmpty | none => true)

/-- LOCAL_CUT: round 0 is reached. -/
def localCut (s : State) : State :=
  if frostState s = fsSTOPPING && atLocalCut s then
    let s := (s.setFld F.DEV_FROST_STAT_STATE 0 fsLOCAL).setFld F.DEV_FROST_STAT_ROUND 0 0
    let s := if s.frost.scope = 1 then sendMarker 2 0 s else s
    frostAdvance s
  else s

/-- Enter Frost from a source (R372), with the generation and origin of a marker when one brought it. -/
def enterFrost (src scope gen origin : Nat) (desc : Option (Nat × Nat)) (s : State) : State :=
  if frostState s != fsRUN then s.incSat F.DEV_FROST_STAT_ENTRIES
  else
    let e := s.fld F.DEV_FROST_STAT_ENTRIES
    let s := s.setReg .DEV_FROST_STAT 0 (wN (fsSTOPPING + src * 16 + gen % 65536 * 65536 + e * 2 ^ 32))
    let s := s.modFrost (fun f => { f with
      scope := scope, rounds := [], thawDue := false, thawFwd := false, thawSent := false, dumping := false, held := 0xFFF
      origin := origin, since := s.now, desc := desc, thawing := f.thawing.filter (fun t => !t.restart) })
    if scope = 1 then sendMarker 1 0 s else s

/-- An entry of this device: FGEN is the previous value plus 1. -/
def enterLocal (src scope : Nat) (desc : Option (Nat × Nat)) (s : State) : State :=
  enterFrost src scope (fgen s + 1) (nodeId s) desc s

/-- A STOP marker of generation `gen`. -/
def takeStop (gen origin : Nat) (s : State) : State :=
  if gen < fgen s then s
  else if frostState s = fsRUN then enterFrost fsrcMARKER 1 gen origin none s
  else if fgen s < gen then
    let s := (s.setFld F.DEV_FROST_STAT_FGEN 0 gen).setFld F.DEV_FROST_STAT_ROUND 0 0
    let s := s.modFrost (fun f => { f with scope := 1, rounds := [], origin := origin, thawSent := false })
    let s := sendMarker 1 0 s
    -- a device at its local cut or beyond starts its rounds again from round 0
    if fsLOCAL ≤ frostState s then frostAdvance (sendMarker 2 0 (s.setFld F.DEV_FROST_STAT_STATE 0 fsLOCAL)) else s
  else s.incSat F.DEV_FROST_STAT_ENTRIES

/-- A ROUND marker of value r on a port. -/
def takeRound (p gen r : Nat) (s : State) : State :=
  if gen = fgen s && frostState s != fsRUN then
    frostAdvance (s.modFrost (fun f => { f with rounds := smSet false (r * 16 + p) true f.rounds }))
  else s

/-- A THAW request of a node; `fwd` says whether it is forwarded, once in a Frost. The markers carry the node whose THAW was the first to be
forwarded. -/
def askThawOf (fwd : Bool) (origin : Nat) (s : State) : State :=
  if frostState s = fsRUN then s
  else tryThaw (s.modFrost (fun f => { f with
    thawDue := true, thawFwd := f.thawFwd || (fwd && !f.thawSent)
    thawBy := if fwd && !f.thawFwd && !f.thawSent then origin else f.thawBy }))

/-- A THAW request of this device. -/
def askThaw (fwd : Bool) (s : State) : State := askThawOf fwd (nodeId s) s

/-- When wave w of a Thaw begins: T0 + w W / 12. -/
def waveTime (t : ThawSt) (w : Nat) : Nat := t.t0 + w * t.w * 1000 / 12

/-- The slots whose wave w of a Thaw has not begun. -/
def waveSlots (t : ThawSt) (w : Nat) : List Nat := (t.waves.filter (fun e => e.2 == w + 1)).map (·.1)

/-- The Thaw whose wave w begins next: the earliest of those with slots left in it. -/
def nextThaw (w : Nat) : List ThawSt → Option ThawSt
  | [] => none
  | t :: l =>
    if (waveSlots t w).isEmpty then nextThaw w l
    else match nextThaw w l with
      | some u => some (if waveTime u w < waveTime t w then u else t)
      | none => some t

/-- THAW_WAVE: wave w of a Thaw begins, and its slots go on. -/
def opThawWave (w : Nat) (s : State) : State :=
  match nextThaw w s.frost.thawing with
  | none => s
  | some t =>
    if frozen s then s
    else
      let slots := waveSlots t w
      let s := passTo (waveTime t w) s
      let s := trace 0x41 none 0 w (t.t0 - s.tbase) 0 s
      let s := s.modFrost (fun f => { f with
        thawing := (f.thawing.map (fun x => if x.id = t.id then { x with waves := x.waves.filter (fun e => e.2 != w + 1) } else x)).filter
          (fun x => !x.waves.isEmpty)
        held := if t.restart then slots.foldl (fun h i => if bitN h i then h - 2 ^ i else h) f.held else f.held })
      slots.foldl (fun s i => retireSlot i s) s

end Sys2Proof.Machine
end

