-- ==== Sys2Proof/Machine/TraceOps.lean ====
section
/-! DEFINITION. The trace writers (R384 to R386): which slice takes a record, the budget of a 10 µs window, lines of two
records, LOST records, and the directed bridge paths that a transfer between base dies crosses (R12). -/

namespace Sys2Proof.Machine

/-- R12: directed bridge paths of Table 15.9 from base die a to base die b. -/
def bridgeRoute : Nat → Nat → List Nat
  | 0, 1 => [0] | 1, 0 => [1] | 2, 3 => [2] | 3, 2 => [3]
  | 0, 2 => [4] | 2, 0 => [5] | 1, 3 => [6] | 3, 1 => [7]
  | 0, 3 => [0, 6] | 3, 0 => [3, 5] | 1, 2 => [1, 4] | 2, 1 => [2, 7]
  | _, _ => []

/-- The slice whose writer takes a record (R384). -/
def recSlice (s : State) (t : TraceRec) : Nat :=
  if 1 ≤ t.typ && t.typ ≤ 5 then t.unit / 48
  else if t.typ = 0x30 then t.unit / 4
  else if t.typ = 0x20 || t.typ = 0x21 then s.fld F.COL_GRP_CTL_SLICE t.unit
  else 0

/-- Table 19.5. -/
def recBytes (t : TraceRec) : List Byte :=
  natLe 8 t.time ++ natLe 1 t.typ ++ natLe 1 (match t.ctx with | some c => c + 128 | none => 0) ++ natLe 2 t.unit ++
  natLe 4 t.a ++ natLe 8 t.b ++ natLe 8 t.c

/-- Bytes of trace that a slice (b below 4) or a bridge path (16 + q) may take in a window: BUDGET × 0.1 % of 32 TB/s or
4,096 GB/s over 10 µs, unless the window found another value (a base-die rail away from its nominal setting). -/
def traceLimit (s : State) (u : Nat) : Nat :=
  let o := smGet 0 s.dbg.left (64 + u)
  if o != 0 then o - 1 else bitsN s.dbg.ctl 2 6 * (if u < 16 then 320000 else 40960)

def traceUsed (s : State) (u : Nat) : Nat := smGet 0 s.dbg.left u
def useTrace (n u : Nat) (s : State) : State :=
  s.modDbg (fun d => { d with left := smSet 0 u (smGet 0 d.left u + n) d.left })

def bufRecs (s : State) (b : Nat) : Nat := 2 ^ (s.fld F.DBG_TRC_BASE_LOG2SZ b - 5)

/-- Units whose budget a record of slice b takes: the slice, and the paths its line crosses to HBM. -/
def recUnits (s : State) (b : Nat) : List Nat :=
  let k := s.fld F.DBG_TRC_STAT_REC b
  let a := s.fld F.DBG_TRC_BASE_ADDR b * 4096 + 32 * (k % bufRecs s b)
  b :: (bridgeRoute b ((hbmChan (localIlv s) a).1 / 160)).map (· + 16)

/-- Write one record of slice b: a line goes out whole, and waits while its memory is held. -/
def putRec (b : Nat) (bytes : List Byte) (s : State) : State :=
  let k := s.fld F.DBG_TRC_STAT_REC b
  let a := s.fld F.DBG_TRC_BASE_ADDR b * 4096 + 32 * (k % bufRecs s b)
  let s := (recUnits s b).foldl (fun s u => useTrace 32 u s) (s.setFld F.DBG_TRC_STAT_REC b (k + 1))
  let l := smGet [] s.dbg.part b ++ bytes
  if l.length < 64 then s.modDbg (fun d => { d with part := smSet [] b l d.part })
  else
    let s := s.modDbg (fun d => { d with part := smSet [] b [] d.part })
    let g := a / 64 * 64
    if !(rangeHbm s g 64) then s
    else if heldRange s g 64 then s.modMem (fun m => { m with held := m.held ++ [.write 0 g l false] })
    else putBytes g l false s

/-- A record is dropped. -/
def dropRec (f : Fld) (b : Nat) (s : State) : State :=
  (s.incSat f b).modDbg (fun d => { d with lost := smSet 0 b (min (smGet 0 d.lost b + 1) (2 ^ 32 - 1)) d.lost })

/-- Whether a slice's buffer has no place for one more record and must not wrap. -/
def bufFull (s : State) (b : Nat) : Bool := !(s.flag F.DBG_TRC_CTL_WRAP) && bufRecs s b ≤ s.fld F.DBG_TRC_STAT_REC b

/-- Write the LOST record that follows drops (R386). -/
def putLost (b time : Nat) (s : State) : State :=
  let lost := smGet 0 s.dbg.lost b
  if lost = 0 then s
  else count 192 79 1 (putRec b (recBytes ⟨time, 0x7F, none, 0, lost, 0, 0⟩) (s.modDbg (fun d => { d with lost := smSet 0 b 0 d.lost })))

/-- Offer one record to its writer: a full buffer drops it before anything else does, and may have room for the LOST record that
is due alone. Whether the writer is busy in that instant is free. -/
def offerRec (t : TraceRec) (s : State) : State :=
  let b := recSlice s t
  let n := if smGet 0 s.dbg.lost b = 0 then 1 else 2
  if bufFull s b then dropRec F.DBG_TRC_DROP_FULL b s
  else
    let (busy, s) := s.choose
    if busy then dropRec F.DBG_TRC_DROP_BUSY b s
    else if (recUnits s b).any (fun u => traceLimit s u < traceUsed s u + 32 * n) then dropRec F.DBG_TRC_DROP_BUDGET b s
    else
      let s := putLost b t.time s
      if bufFull s b then dropRec F.DBG_TRC_DROP_FULL b s else count 192 79 1 (putRec b (recBytes t) s)

/-- The writers take the records formed by a command, in order. -/
def drainTrace (s : State) : State :=
  let l := s.dbg.formed
  l.foldl (fun s t => offerRec t s) (s.modDbg (fun d => { d with formed := [] }))

end Sys2Proof.Machine
end

