-- ==== Sys2Proof/Machine/Reset.lean ====
section
/-! DEFINITION. Resets (R347 to R357): the sources and how they join or raise a reset, what a power-on or system reset
leaves, a core reset, the boot position (R362), and the fatal-error policy (R369). -/

namespace Sys2Proof.Machine

/-! ## Sources: Table 17.8 -/

def srcVSB : Nat := 0
def srcSUPPLY : Nat := 1
def srcPWRGOOD : Nat := 2
def srcRESETN : Nat := 3
def srcPERSTN : Nat := 4
def srcMGMT : Nat := 5
def srcWDOG : Nat := 6
def srcFATAL : Nat := 7
def srcTHERMTRIP : Nat := 8

/-- Level of a source: 1 power-on, 2 system. -/
def srcLevel (k : Nat) : Nat := if k ≤ 2 then 1 else 2

/-! ## Boot position: R362 -/

def bootStep (s : State) : Nat := s.fld F.DEV_BOOT_STAT_STEP
def bootFailed (s : State) : Bool := s.flag F.DEV_BOOT_STAT_FAIL

/-- A step completes. -/
def bootTo (n : Nat) (s : State) : State :=
  setProg 0 ⟨n, 8, if n = 8 then 2 else 1, 0, 0⟩ (s.setFld F.DEV_BOOT_STAT_STEP 0 n)

/-- Every enabled port has trained or failed (Table 17.4, step 7). -/
def portsSettled (s : State) : Bool :=
  (List.range 16).all (fun p => !(s.flag F.LNK_CTL_EN p) || portState s p = psACTIVE || psDOWN ≤ portState s p)

/-- The steps of boot that no command stands for: step 1, the check of the always-on domain, is complete at once, and step 7
once the ports have settled. -/
def settleBoot (s : State) : State :=
  if bootStep s = 0 && !(bootFailed s) then bootTo 1 s
  else if bootStep s = 6 && !(bootFailed s) && portsSettled s then bootTo 7 s else s

/-- Boot stops with a code of Table 17.5. -/
def bootFail (code : Nat) (s : State) : State :=
  let s := (s.setFld F.DEV_BOOT_STAT_FAIL 0 1).setFld F.DEV_BOOT_STAT_CODE 0 code
  report mgBootFail code (setProg 0 ⟨bootStep s, 8, 3, 0, 0⟩ s)

/-! ## What a reset clears: R348, Table 17.2 -/

/-- Registers of the debug logic, and the counters that follow its rules: kept by a system reset. -/
def isDebugReg (k : Nat) : Bool :=
  match keyReg k with
  | some .DBG_SNAP_ADDR => true | some .DBG_SNAP_CMD => true | some .DBG_TRC_CTL => true | some .DBG_TRC_BASE => true
  | some .DBG_TRC_STAT => true | some .DBG_TRC_DROP => true | some .DBG_WFG_ADDR => true | some .DBG_WFG_CTL => true
  | some .PWR_THR_NS => true | some .DEV_RST_CAUSE => true | some .DEV_RST_CNT => true
  | _ => false

def isAlwaysOn (k : Nat) : Bool :=
  match keyReg k with
  | some .DEV_RST_CAUSE => true | some .DEV_RST_CNT => true
  | _ => false

/-- An image slot that an update had not activated is invalid after a reset (R406). -/
def dropUpdate (x : SecSt) : SecSt :=
  match x.update with
  | none => x
  | some u => if u.slot then { x with slotB := .erased, update := none } else { x with slotA := .erased, update := none }

/-- What is left of the state when a power-on (1) or system (2) reset takes hold. -/
def clearDevice (level : Nat) (s : State) : State :=
  let s := match s.rst.prog with
    | some (t, g, _) => spendSlot t g s
    | none => s
  let keep (k : Nat) : Bool := if level = 2 then isDebugReg k else isAlwaysOn k
  let sec := dropUpdate s.sec
  { State.reset with
    pending := s.pending
    out := s.out
    now := s.now
    tbase := s.tbase
    free := s.free
    regs := s.regs.filter (fun kv => keep kv.1)
    dbg := if level = 2 then { s.dbg with off := true } else State.reset.dbg
    mem := { State.reset.mem with repairLog := s.mem.repairLog }
    rst := { s.rst with buf := [], prog := none, progMgmt := false }
    d2d := { D2dSt.reset with guest := s.d2d.guest }
    pwr := { PwrSt.reset with trim := s.pwr.trim, coolant := s.pwr.coolant, capAt := s.now, loopAt := s.now, measAt := s.now, rampAt := s.now, eqAt := s.now, trimAt := s.now }
    sec := { SecSt.reset with slotA := sec.slotA, slotB := sec.slotB, active := sec.active, events := sec.events } }

/-- Begin a reset of a level now, caused by a source (R351, R353). -/
def beginReset (level src : Nat) (more fatalCode : Nat) (s : State) : State :=
  -- R253: the ports of a device that runs go down; the trace writers take what was formed before the reset
  let s := if s.rst.level = 0 && !s.rst.off then drainTrace ((List.range 16).foldl (fun s p => linkDown p none s) s) else s
  -- the device no longer drives FROST_N (R354)
  let s := if drivesFrostN s then s.modRst (fun r => { r with frostHigh := s.now }) else s
  let s := clearDevice level s
  let trip := s.rst.trip
  let bits := more ||| 2 ^ src ||| (if trip then 2 ^ srcTHERMTRIP else 0)
  let s := s.incSat F.DEV_RST_CNT_SYS
  let s := s.setFld F.DEV_RST_CAUSE_SRC 0 bits
  let s := s.setFld F.DEV_RST_CAUSE_LEVEL 0 (if src = srcVSB then 0 else level)
  let s := s.setFld F.DEV_RST_CAUSE_FATAL_CODE 0 fatalCode
  s.modRst (fun r => { r with level := level, start := s.now, stretched := false, off := r.off && level != 1, trip := false })

/-- A source asserts: it starts a reset, raises the level of the one in progress, or joins it. With the rails off only a
power-on source acts (R345), and it begins a reset of its own, the one that turns them on again (R426), also where the trip fell
within a power-on reset (DESIGN CHOICE, assumption 184); without standby power none acts. -/
def assertSrc (src fatalCode : Nat) (s : State) : State :=
  let l := srcLevel src
  if !s.rst.vsb || (s.rst.off && l = 2) then s
  else if s.rst.level = 0 || s.rst.off then beginReset l src 0 fatalCode s
  else if l < s.rst.level then beginReset l src (s.fld F.DEV_RST_CAUSE_SRC) (s.fld F.DEV_RST_CAUSE_FATAL_CODE) s
  else s.setFld F.DEV_RST_CAUSE_SRC 0 (s.fld F.DEV_RST_CAUSE_SRC ||| 2 ^ src)

/-- Level-sensitive sources that hold the reset in progress: those of its level or a higher one that are asserted now (R350).
RESET_N holds any reset that drove the pin (R352). -/
def holdsReset (s : State) : Bool :=
  (List.range 5).any (fun k => bitN s.rst.ext k && (srcLevel k ≤ s.rst.level || k == srcRESETN))

def setExt (k : Nat) (b : Bool) (s : State) : State :=
  s.modRst (fun r => { r with ext := setBitsN r.ext k 1 (if b then 1 else 0) })

/-! ## Core reset: R355 to R357 -/

/-- The cores of a mask of compute slots. -/
def maskCores (m : Nat) : List Nat := (List.range 192).filter (fun c => bitN m (c / 16))

/-- CORE block registers. -/
def isCoreReg (k : Nat) : Bool := (Reg.CORE_OWNER).code ≤ k / 4096

/-- A RESET of a counter bank (R381). -/
def resetBank (b : Nat) (s : State) : State :=
  let s := if b = 193 then (List.range 8).foldl (fun s k => s.setReg .PWR_THR_NS k 0) s else s
  s.modDbg (fun d => { d with
    banks := d.banks.filter (fun e => e.1 / 128 != b)
    epochs := smSet 0 b (wN (((smGet 0 d.epochs b).toNat + 1) % 2 ^ 32)) d.epochs })

/-- What a reset does to one core. -/
def resetCore (c : Nat) (s : State) : State :=
  let s := dropWaits (Waiter.isCore c) s
  let st := coreState s c
  let s := if st = csSaving || st = csRestoring then
      let a := s.fld F.CORE_CTX_SAVE_ADDR c * 65536
      undefSpan a (a + imageSize) s
    else s
  let s := s.fe.launches.foldl (fun s l =>
    if l.started && bitN l.mask c && smGet 0 l.exited c = 0 then
      recordExit c 0x80000300 (s.modCore c (fun k => { k with launch := some (l.ring, l.seq) }))
    else s) s
  let s := s.modFab (fun f => { f with queue := f.queue.filter (fun r =>
    match r.who with | .vdma k _ => k != c | _ => true) })
  let s := s.modFe (fun f => { f with pri := f.pri.filter (fun w =>
    match w.who with | .vdma k _ _ => k != c | _ => true) })
  let (i, s) := s.fresh
  let s := s.setCore c { CoreSt.reset with inReset := true, vseed := i + 1, winAt := s.timebase }
  let s := { s with regs := s.regs.filter (fun kv => !(isCoreReg kv.1 && kv.1 % 4096 == c)) }
  let s := zeroSpan (padAddr c 0) (padAddr c spSize) s
  let s := s.modMem (fun m => { m with poison := m.poison.filter (fun e => !(padAddr c 0 ≤ e.1 && e.1 < padAddr c spSize)) })
  resetBank c s

/-- Start a core reset of mask m. -/
def coreReset (m : Nat) (s : State) : State :=
  let s := s.incSat F.DEV_RST_CNT_CORE
  let s := (s.setFld F.DEV_RST_CAUSE_CORE_MASK 0 m).setFld F.DEV_CORE_RST_BUSY 0 1
  let s := flushAll s
  let s := s.modMem (fun x => { x with selfRefresh := true })
  let s := s.modRst (fun r => { r with start := s.now })
  (maskCores m).foldl (fun s c => resetCore c s) s

/-- Whether requests that the cores in reset had issued are still to be acknowledged, answered or timed out (R355). -/
def coreReqsOut (s : State) : Bool :=
  s.fab.outst.any (fun r => match r.who with | .vdma c _ => (s.core c).inReset | _ => false)

/-- Its end: no sooner than 20 µs after its start, once no level-sensitive source is asserted and the requests of its cores are
over (R350, R355). -/
def coreResetEnd (s : State) : State :=
  if !(s.flag F.DEV_CORE_RST_BUSY) || s.rst.ext % 32 != 0 || coreReqsOut s then s
  else
    let s := passTo (s.rst.start + 20000) s
    let s := s.setFld F.DEV_CORE_RST_BUSY 0 0
    let s := s.modMem (fun x => { x with selfRefresh := false })
    { s with cores := s.cores.map (fun kv => (kv.1, { kv.2 with inReset := false })) }

/-! ## Fatal errors: R369 -/

def fatalPolicy (code : Nat) (s : State) : State :=
  let s := report mgFatal code (mayFall s)
  if s.flag F.DEV_ERR_POLICY_ACT then
    enterLocal fsrcPOLICY (s.fld F.DEV_ERR_POLICY_HOLD_FABRIC) none (s.setFld F.DEV_RST_CAUSE_FATAL_CODE 0 code)
  else assertSrc srcFATAL code s

def settleFatals : List Nat → State → State
  | [], s => s
  | c :: l, s => settleFatals l (if s.rst.level = 0 then fatalPolicy c s else s)

end Sys2Proof.Machine
end

