-- ==== Sys2Proof/Machine/D2d.lean ====
section
/-! DEFINITION. Die-to-die modules and paths (R312 to R318): numbering, frames, acknowledgement and replay, delivery in
GSEQ order, module states, retraining and its reports. -/

namespace Sys2Proof.Machine

/-! ## Numbering -/

/-- The directed path of a module index (Table 15.7). -/
def d2dPath (x : Nat) : Nat :=
  if x < 12288 then 2 * (x / 1024) + x % 1024 / 512
  else if x < 14336 then 24 + (x - 12288) / 256
  else 32 + (x - 14336) / 64

/-- The other module of the pair (R312). -/
def d2dPair (x : Nat) : Nat :=
  if x < 12288 then x ^^^ 512
  else if x < 14336 then 12288 + ((x - 12288) ^^^ 256)
  else 14336 + ((x - 14336) ^^^ 64)

/-- First module index of a path and its number of modules (Table 15.2). -/
def pathMods (p : Nat) : Nat × Nat :=
  if p < 24 then (512 * p, 512) else if p < 32 then (12288 + 256 * (p - 24), 256) else (14336 + 64 * (p - 32), 64)

def State.d2dMod (s : State) (x : Nat) : D2dMod := smGet D2dMod.reset s.d2d.mods x
def State.modMod (s : State) (x : Nat) (f : D2dMod → D2dMod) : State :=
  s.modD2d (fun d => { d with mods := smSet D2dMod.reset x (f (smGet D2dMod.reset d.mods x)) d.mods })
def State.d2dPathSt (s : State) (p : Nat) : D2dPath := smGet D2dPath.reset s.d2d.paths p
def State.modPath (s : State) (p : Nat) (f : D2dPath → D2dPath) : State :=
  s.modD2d (fun d => { d with paths := smSet D2dPath.reset p (f (smGet D2dPath.reset d.paths p)) d.paths })

/-! ## Module states: R315 -/

def mNORMAL : Nat := 0
def mSPARED : Nat := 1
def mFOLD : Nat := 2
def mDEAD : Nat := 3

/-- The state that a set of bad lanes gives (bits 0 to 33 data, 34 clock, 35 valid). -/
def laneState (bad : Nat) : Nat :=
  let badIn (lo n : Nat) : Nat := ((List.range n).filter (fun i => bitN bad (lo + i))).length
  if bitN bad 34 || bitN bad 35 then mDEAD
  else if badIn 0 34 = 0 then mNORMAL
  else if badIn 0 34 ≤ 2 then mSPARED
  else if badIn 0 17 ≤ 1 || badIn 17 17 ≤ 1 then mFOLD
  else mDEAD

/-- The physical lanes that carry the logical lanes, in order: the good ones of 0 to 33, or of the half in use (R315). -/
def lanesInUse (st bad : Nat) : List Nat :=
  let good (lo n : Nat) : List Nat := ((List.range n).map (fun i => lo + i)).filter (fun l => !(bitN bad l))
  if st = mFOLD then (if 16 ≤ (good 0 17).length then (good 0 17).take 16 else (good 17 17).take 16)
  else (good 0 34).take 32

/-- Modules of a path in a state other than NORMAL. -/
def pathCount (s : State) (p st : Nat) : Nat :=
  (s.d2d.mods.filter (fun m => d2dPath m.1 == p && m.2.st == st)).length

/-- D2D_PATH_STAT of a path from its modules (Table 15.7, R318). -/
def pathStat (p : Nat) (s : State) : State :=
  let f := pathCount s p mFOLD
  let d := pathCount s p mDEAD
  s.setReg .D2D_PATH_STAT p
    (wN (pathCount s p mSPARED + f * 2 ^ 10 + d * 2 ^ 20 + ((pathMods p).2 * 16 - 8 * f - 16 * d) * 2 ^ 32))

/-- Whether a path direction has a live module. -/
def pathLive (s : State) (p : Nat) : Bool := pathCount s p mDEAD < (pathMods p).2

/-! ## Retraining: R317 -/

/-- The sender's unacknowledged frames go to the path, to be dealt to other modules with the same GSEQ. -/
def redealFrames (x : Nat) (s : State) : State :=
  let l := (s.d2dMod x).buf.map (fun f => (f.2.1, f.2.2))
  (s.modPath (d2dPath x) (fun p => { p with
    redeal := p.redeal ++ l
    again := p.again ++ ((l.map (·.1)).filter (fun g => p.sent.any (fun e => e.1 == g))) })).modMod x
    (fun m => { m with buf := [], again := 0, replays := 0 })

def startRetrain (x : Nat) (s : State) : State :=
  if (s.d2dMod x).retrain.isSome || (s.d2dMod x).st = mDEAD then s
  else redealFrames x (s.modMod x (fun m => { m with retrain := some s.now, fails := [], nak := false }))

/-- A corrected error of a path (Table 18.2, class 8): a frame that failed its CRC, a replay, a spare, a fold, a dead module. -/
def repaired (x : Nat) (s : State) : State := corrected none 4 (d2dPath x) 8 0 s

/-- Start a replay of the frames a module still holds; the fourth from one FSEQ retrains it. -/
def d2dReplay (x : Nat) (s : State) : State :=
  match (s.d2dMod x).buf with
  | [] => s
  | f :: _ =>
    let m := s.d2dMod x
    let n := if m.replayFrom = f.1 && m.replays != 0 then m.replays + 1 else 1
    let s := repaired x (s.incSat F.D2D_PATH_CNT_REPLAY (d2dPath x))
    let s := s.modMod x (fun m => { m with again := m.buf.length, replays := n, replayFrom := f.1, ackAt := s.now })
    if 4 ≤ n then startRetrain x s else s

/-! ## Frames: R312 to R314 -/

/-- Control bits [31:0] (Table 15.3). -/
def frameCtl (vld nak : Bool) (fseq ack gseq : Nat) : Nat :=
  (if vld then 1 else 0) + (if nak then 2 else 0) + fseq % 128 * 4 + ack % 128 * 512 + gseq % 65536 * 65536

def frameBytes (ctl : Nat) (data : List Byte) : List Byte :=
  data ++ natLe 4 ctl ++ natLe 4 (crc32c (data ++ natLe 4 ctl))

/-- Invert one bit of a frame: bits of the data bytes, then the control word. -/
def flipBit (l : List Byte) (i : Nat) : List Byte :=
  l.take (i / 8) ++ (match l.drop (i / 8) with
    | b :: r => (b ^^^ BitVec.ofNat 8 (2 ^ (i % 8))) :: r
    | [] => [])

/-- What the lines carry of a frame of 256 bytes and a control word: byte n lies in beat n / 4 on lanes 8 (n mod 4) and up,
control bit i on the valid line in beat i (R312). A folded module has 16 lanes and 128 beats, the control word in the first
64 (R315). -/
def wireBeats (st bad : Nat) (f : List Byte) : List (Nat × Bool) :=
  let phys := lanesInUse st bad
  let per := phys.length / 8
  let ctl := fieldLe f 256 8
  (List.range (256 / max per 1)).map (fun t =>
    ((phys.zipIdx.map (fun l => bitsN (fieldLe f (per * t + l.2 / 8) 1) (l.2 % 8) 1 * 2 ^ l.1)).foldl (· + ·) 0,
     t < 64 && bitN ctl t))

/-! ## Bridge roles: R319, R320 -/

/-- The roles of the 32 blocks of a directed bridge path. -/
def pathRoles (s : State) (q : Nat) : List Nat := (List.range 32).map (fun j => bitsN (s.reg .D2D_BR_ROLE q).toNat (2 * j) 2)

/-- The directed bridge path and the block of a module. -/
def bridgeBlock (x : Nat) : Option (Nat × Nat) :=
  if 12288 ≤ x && x < 14336 then some ((x - 12288) / 256, (x - 12288) % 256 / 8) else none

/-- Whether a commit in progress changes the role of a module's block: it takes no new frame (R320). -/
def blockHeld (s : State) (x : Nat) : Bool :=
  match bridgeBlock x with
  | none => false
  | some (q, j) =>
    s.fld F.TXN_STAT_STATE == 2 &&
      bitsN (s.reg .D2D_BR_ROLE q).toNat (2 * j) 2 !=
        bitsN (smGet (s.reg .D2D_BR_ROLE q) s.txn.shadows (regKey .D2D_BR_ROLE q)).toNat (2 * j) 2

/-- Frames of a role that a path's receiver has buffers for. -/
def roleCredits (role : Nat) : Nat := 1 + Config.roleExtra role

/-- Whether a role has credit for one more frame on a path. -/
def roleRoom (k : D2dPath) (role : Nat) : Bool := (k.sent.filter (fun e => e.2 == role)).length < roleCredits role

/-- The roles whose frames a module carries, in order: its block's own first, then VAT, COL, FAB, GUEST (R319). -/
def roleOrder (s : State) (x : Nat) : List Nat :=
  match bridgeBlock x with
  | none => []
  | some (q, j) =>
    let r := bitsN (s.reg .D2D_BR_ROLE q).toNat (2 * j) 2
    r :: [0, 1, 2, 3].filter (· != r)

/-- A frame that a module may take: whether it is dealt again, its role, its number and its bytes. -/
structure FramePick where
  redealt : Bool
  role : Nat
  gseq : Nat
  data : List Byte
deriving DecidableEq, Repr

/-- The frame that is dealt again, of those of a role where one is given, and the oldest new one. A frame that has been delivered
counts for any role. -/
def redealtOf (k : D2dPath) (role : Option Nat) : Option FramePick :=
  (k.redeal.find? (fun e => match role, k.sent.find? (fun x => x.1 == e.1) with | some r, some x => x.2 == r | _, _ => true)).map
    (fun e => ⟨true, smGet 0 k.sent e.1, e.1, e.2⟩)
def waitingOf (k : D2dPath) (role : Option Nat) : Option FramePick :=
  (k.waiting.find? (fun w => match role with | some r => w.1 == r | none => true)).map (fun w => ⟨false, w.1, w.2.1, w.2.2⟩)

/-- The frame that a module takes next: of each role in its order a frame dealt again, then a new one that the role has credit for
(R319). Compute-to-base and guest paths have no roles. -/
def pickFrame (s : State) (x : Nat) : Option FramePick :=
  let k := s.d2dPathSt (d2dPath x)
  if blockHeld s x then none
  else if (bridgeBlock x).isNone then redealtOf k none <|> waitingOf k none
  else (roleOrder s x).findSome? (fun r => redealtOf k (some r) <|> (if roleRoom k r then waitingOf k (some r) else none))

/-- GSEQs of the frames of a path that no acknowledgement has covered. -/
def pathOutst (s : State) (p : Nat) : List Nat :=
  (s.d2d.mods.filter (fun m => d2dPath m.1 == p)).flatMap (fun m => m.2.buf.map (fun f => f.2.1)) ++
  (s.d2dPathSt p).redeal.map (·.1)

/-- Whether a new frame keeps the frames of a path that are outstanding, and their numbers, within 32,768 (R314). -/
def gseqOpen (s : State) (p g : Nat) : Bool :=
  (pathOutst s p).length < 32768 &&
    (pathOutst s p ++ (s.d2dPathSt p).waiting.map (·.2.1)).all (fun o => g < o + 32768)

/-- The frame that a module sends next, and the sender after it: a replayed frame, a frame dealt again, a new one, or
VLD = 0. -/
def nextFrame (x : Nat) (s : State) : List Byte × State :=
  let p := d2dPath x
  let m := s.d2dMod x
  let y := s.d2dMod (d2dPair x)
  let s := s.modMod (d2dPair x) (fun m => { m with nak := false })
  let idle : List Byte × State := (frameBytes (frameCtl false y.nak m.tx y.rx 0) (List.replicate 256 0), s)
  let fresh (gseq : Nat) (data : List Byte) (s : State) : List Byte × State :=
    (frameBytes (frameCtl true y.nak m.tx y.rx gseq) data,
     s.modMod x (fun m => { m with
       tx := (m.tx + 1) % 128, buf := m.buf ++ [(m.tx, gseq, data)]
       ackAt := if m.buf.isEmpty then s.now else m.ackAt }))
  if m.again != 0 then
    match m.buf.drop (m.buf.length - m.again) with
    | f :: _ => (frameBytes (frameCtl true y.nak f.1 y.rx f.2.1) f.2.2, s.modMod x (fun m => { m with again := m.again - 1 }))
    | [] => idle
  else if 32 ≤ m.buf.length then idle
  else
    match pickFrame s x with
    | none => idle
    | some f =>
      if f.redealt then fresh f.gseq f.data (s.modPath p (fun q => { q with redeal := q.redeal.erase (f.gseq, f.data) }))
      else if gseqOpen s p f.gseq then
        fresh f.gseq f.data (s.modPath p (fun q => { q with
          waiting := q.waiting.erase (f.role, f.gseq, f.data), sent := smPut f.gseq f.role q.sent }))
      else idle

/-- Frames that have become next go to the path's sink. -/
def deliverFrames : Nat → Nat → State → State
  | 0, _, s => s
  | n + 1, p, s =>
    let q := s.d2dPathSt p
    match q.early.find? (fun e => e.1 == q.want) with
    | none => s
    | some (g, d) =>
      deliverFrames n p (emit (.frame p (smGet 0 q.sent g) (g % 65536) d)
        (s.modPath p (fun q => { q with
          want := g + 1, early := smErase g q.early, sent := smErase g q.sent
          again := q.again.filter (· != g) })))

/-- A frame in FSEQ order reaches its path: one already delivered is discarded. -/
def takeFrame (p gseq : Nat) (data : List Byte) (s : State) : State :=
  let q := s.d2dPathSt p
  let ahead := (gseq + 65536 - q.want % 65536) % 65536
  if 32768 ≤ ahead then s
  else
    let s := s.modPath p (fun q => { q with early := smPut (q.want + ahead) data q.early })
    deliverFrames (s.d2dPathSt p).early.length p s

/-- R250: ask for a replay once for each error; again after a frame has been accepted, or the timeout has passed. -/
def d2dAsk (x : Nat) (s : State) : State :=
  let m := s.d2dMod x
  if m.nakHeld && s.now < m.nakAt + Config.d2dTimeout then s
  else s.modMod x (fun m => { m with nak := true, nakHeld := true, nakAt := s.now })

/-- The receiver of module x takes a frame. Its acknowledgement belongs to the paired module. -/
def receiveFrame (x : Nat) (f : List Byte) (s : State) : State :=
  let data := f.take 256
  let ctl := fieldLe f 256 4
  if crc32c (data ++ natLe 4 ctl) != fieldLe f 260 4 then
    let s := repaired x (s.incSat F.D2D_PATH_CNT_CRC (d2dPath x))
    let s := s.modMod x (fun m => { m with fails := m.fails.filter (fun t => s.now < t + 1000000) ++ [s.now] })
    if 16 < (s.d2dMod x).fails.length then startRetrain x s else d2dAsk x s
  else
    let y := d2dPair x
    let b := (s.d2dMod y).buf
    let n := match b with | [] => 0 | g :: _ => (bitsN ctl 9 7 + 128 - g.1) % 128
    let s := if 0 < n && n ≤ b.length then
        s.modMod y (fun m => { m with buf := m.buf.drop n, again := min m.again (b.length - n), replays := 0, ackAt := s.now })
      else s
    let s := if bitN ctl 1 then d2dReplay y s else s
    if !(bitN ctl 0) then s
    else if bitsN ctl 2 7 = (s.d2dMod x).rx then
      takeFrame (d2dPath x) (bitsN ctl 16 16) data
        (s.modMod x (fun m => { m with rx := (m.rx + 1) % 128, nakHeld := false }))
    else d2dAsk x s

/-- Whether a module carries frames. -/
def modUp (s : State) (x : Nat) : Bool := (s.d2dMod x).st != mDEAD && (s.d2dMod x).retrain.isNone

/-- Whether a path's dies are there: the guest path needs a guest die. -/
def pathFitted (s : State) (p : Nat) : Bool := p < 32 || s.d2d.guest

/-- D2D_FRAME: the path's source may offer a frame of a role, and module x sends one frame, which its receiver takes with
the given bits inverted. -/
def opFrame (x : Nat) (offer : Option Nat) (data : List Byte) (flips : List Nat) (s : State) : State :=
  if !(pathFitted s (d2dPath x)) then s
  else
    let s := match offer with
      | some role => s.modPath (d2dPath x) (fun q => { q with
          waiting := q.waiting ++ [(role, q.next, slice data 0 256)], next := q.next + 1 })
      | none => s
    if !(modUp s x) then s
    else
      let (f, s) := nextFrame x s
      receiveFrame x (flips.foldl flipBit f) (emit (.beats x (wireBeats (s.d2dMod x).st (s.d2dMod x).bad f)) s)

/-- D2D_REPLAY_TIMEOUT: ACK has not advanced for the timeout while the buffer holds frames. The spec gives the D2D
timeout no number. -/
def opD2dTimeout (x : Nat) (s : State) : State :=
  if !(modUp s x) || (s.d2dMod x).buf.isEmpty then s
  else d2dReplay x (passTo ((s.d2dMod x).ackAt + Config.d2dTimeout) s)

/-! ## The guest windows' buckets: R323 -/

/-- Bytes missing from a window's bucket at a time: it refills at RATE bytes a ns (R323). -/
def gwMissing (s : State) (w t : Nat) : Nat :=
  let (n, at_) := smGet (0, 0) s.d2d.spent w
  n - (t - at_) * s.fld F.D2D_GW_CTL_RATE w

/-! ## Entering FOLD or DEAD: R318 -/

/-- Report a unit whose module entered FOLD or DEAD at run time. -/
def foldReport (cause p : Nat) (s : State) : State :=
  if p < 24 then outlier cause 0 (p / 2) 0 s else if p < 32 then outlier cause 2 (p - 24) 0 s else s

/-- A module takes a new state at run time. -/
def newModState (x st : Nat) (s : State) : State :=
  let m := s.d2dMod x
  let s := s.modMod x (fun m => { m with st := st })
  let s := pathStat (d2dPath x) s
  if st = m.st then s
  else if st = mFOLD then foldReport 2 (d2dPath x) (s.setFld F.D2D_EVT_FOLD 0 1)
  else if st = mDEAD then
    let s := foldReport 3 (d2dPath x) (s.setFld F.D2D_EVT_DEAD 0 1)
    redealFrames x s
  else s

/-- A path direction with no live module is fatal. -/
def checkPath (p : Nat) (s : State) : State := if pathLive s p then s else fatal 4 p 2 0 s

/-- MODULE_RETRAIN_COMPLETE: after the 2 µs test, with the lanes it finds bad. -/
def opRetrained (x bad : Nat) (s : State) : State :=
  match (s.d2dMod x).retrain with
  | none => s
  | some t =>
    let s := passTo (t + 2000) s
    let all := (s.d2dMod x).bad ||| bad
    let st := max (laneState all) (s.d2dMod x).st
    let s := if all != (s.d2dMod x).bad then repaired x s else s
    let s := if st = mSPARED && all != (s.d2dMod x).bad then s.setFld F.D2D_EVT_SPARE 0 1 else s
    let s := newModState x st (s.modMod x (fun m => { m with bad := all, retrain := none, tx := 0, rx := 0, fails := [] }))
    if st = mDEAD then
      let y := d2dPair x
      let s := newModState y mDEAD (s.modMod y (fun m => { m with retrain := none }))
      checkPath (d2dPath y) (checkPath (d2dPath x) s)
    else s

end Sys2Proof.Machine
end

