-- ==== Sys2Proof/Machine/TxnUnits.lean ====
section
/-! DEFINITION. What a commit affects (R417, Table 21.6): the values after it, and the quiescence of each affected unit (Table
8.3). -/

namespace Sys2Proof.Machine

def txIDLE : Nat := 0
def txOPEN : Nat := 1
def txCOMMITTING : Nat := 2
def txState (s : State) : Nat := s.fld F.TXN_STAT_STATE

def txDONE : Nat := 1
def txREJECTED : Nat := 2
def txQUIESCE : Nat := 3

/-! ## The values after the commit -/

def isDirty (s : State) (r : Reg) (i : Nat) : Bool := s.txn.shadows.any (fun kv => kv.1 == regKey r i)

/-- Every dirty shadow as the committed value. Routes that software has never changed follow the new coordinates (R258). -/
def withShadows (s : State) : State :=
  let l := s.txn.shadows
  let set := (List.range 4).foldl (fun m d => if isDirty s .FAB_RT d then m ||| 2 ^ d else m) s.txn.rtSet
  let s := l.foldl (fun s kv => match keyReg kv.1 with | some r => s.setReg r (kv.1 % 4096) kv.2 | none => s) s
  let s := s.modTxn (fun t => { t with rtSet := set })
  (List.range 4).foldl (fun s d => if bitN set d then s else setDefaultRt d s) s

def portCredits (s : State) (p : Nat) : List Nat := (List.range 9).map (fun v => s.fld F.LNK_VC_CRED_FLITS (p * 9 + v))

def gwDirty (s : State) (w : Nat) : Bool := isDirty s .D2D_GW_BASE w || isDirty s .D2D_GW_TGT w || isDirty s .D2D_GW_CTL w

/-! ## Affected units and their quiescence: Tables 8.3 and 21.6 -/

/-- SYNC of slice b is in use: a word translated by a context's table, an enabled task queue, or a parked waiter. -/
def syncInUse (s : State) (b : Nat) : Bool :=
  (List.range 64).any (fun ctx => s.flag F.SYNC_CTX_TBL_EN ctx &&
    (List.range (s.fld F.SYNC_CTX_LIM_LIMIT ctx)).any (fun sid =>
      let a := s.fld F.SYNC_CTX_TBL_ADDR ctx * 4096 + 4 * sid
      let e := rdNat s a 4
      rangeHbm s a 4 && bitsN e 20 2 == 1 && !(bitN e 19) && bitsN e 17 2 == b)) ||
  (List.range 1024).any (fun q => s.flag F.FE_TQ_CTL_EN q && (tqBase s q - vatBase) / sliceSize == b) ||
  s.sync.waits.any (fun w => match region s w.addr with | .vat k _ => k == b | _ => false)

/-- Destinations reserved for data of GETs that are on their way (R269): accesses in flight. -/
def dueData (s : State) : List (Nat × Nat) :=
  (s.fab.outst.flatMap (·.ret)).filterMap (fun p => if p.1 then none else some p.2)

/-- An access to HBM is in flight at a channel that `sel` picks: a row being copied, a test, data on its way. -/
def hbmInFlight (s : State) (sel : Nat → Bool) : Bool :=
  s.mem.remapping.any (fun r => sel r.1) || s.mem.tg.any (fun t => sel t.ch) ||
  (dueData s).any (fun p => p.1 < hbmEnd && (List.range (p.2 / 256 + 2)).any (fun i =>
    256 * (p.1 / 256 + i) < p.1 + p.2 && sel (hbmChan (localIlv s) (256 * (p.1 / 256 + i))).1))

/-- An access is in flight to a byte of slice b whose partition changes. -/
def scratchInFlight (s t : State) (b : Nat) : Bool :=
  (dueData s).any (fun p => (List.range (p.2 / 64 + 2)).any (fun i =>
    let a := min (p.1 + 64 * i) (p.1 + p.2 - 1)
    match region s a, region t a with
    | .vat k x, .vat _ y => k == b && x != y
    | _, _ => false))

/-- A group uses staging slots: an operation that has started, segments kept until a GRANT covers them, or what is still on its
way once the group is disabled (R287, R303). -/
def stagingBusy (s : State) (g : Nat) (k : ColGrp) : Bool :=
  !(s.flag F.COL_GRP_CTL_EN g) || k.ops.any (·.started) || !k.segs.isEmpty || !k.held.isEmpty

/-- Table 8.3 but for its LINK row, which the ports of the slice answer for. -/
def sliceQuiet (s t : State) (b : Nat) : Bool :=
  (!(partMoves s t b .sync) || !(syncInUse s b)) &&
  (!(partMoves s t b .scratch) || !(scratchInFlight s t b)) &&
  (!(partMoves s t b .membuf) || !(hbmInFlight s (fun ch => ch / 160 == b))) &&
  (!(partMoves s t b .col) || s.col.all (fun kv =>
    (!(kv.2.staged.any (fun x => x.1 == b)) || !(stagingBusy s kv.1 kv.2)) && !(kv.2.older.any (fun x => x.1 == b))))

/-- Whether the share of LINK that a port has differs, and whether LINK moves. -/
def linkDiffers (s t : State) (p : Nat) : Bool := lnkShare s p != lnkShare t p
def linkMoves (s t : State) (p : Nat) : Bool := partMoves s t (portDie p) .link
def credDiffers (s t : State) (p : Nat) : Bool := portCredits s p != portCredits t p
def portDirty (s : State) (p : Nat) : Bool := (List.range 9).any (fun v => isDirty s .LNK_VC_CRED (p * 9 + v))

/-- R249, and the LINK row of Table 8.3. -/
def portQuiet (s t : State) (p : Nat) : Bool :=
  let k := s.port p
  let link := linkMoves s t p
  !(link || credDiffers s t p) ||
    (k.ingress.isEmpty && k.rx.isEmpty && k.held.isEmpty &&
     s.fab.inbox.all (fun i => !(i.src.any (fun x => x.1 == p))) &&
     (List.range 9).all (fun v => smGet 0 k.sent v % 4096 == smGet 0 k.cr v % 4096) &&
     (!link || (k.replay.isEmpty && k.egress.isEmpty)))

/-- R320: each block that changes carries no frame, and the buffers of its old role on the path are empty. -/
def pathQuiet (s t : State) (q : Nat) : Bool :=
  let (m, _) := pathMods (24 + q)
  let k := s.d2dPathSt (24 + q)
  (List.range 32).all (fun j =>
    let old := bitsN (s.reg .D2D_BR_ROLE q).toNat (2 * j) 2
    old == bitsN (t.reg .D2D_BR_ROLE q).toNat (2 * j) 2 ||
      ((List.range 8).all (fun i => (s.d2dMod (m + 8 * j + i)).buf.isEmpty) && k.sent.all (fun e => e.2 != old)))

/-- The affected units, and whether each is quiescent. -/
def commitUnits (s t : State) : List Bool :=
  ((List.range 4).filter (isDirty s .VAT_PART)).map (sliceQuiet s t) ++
  (if isDirty s .MEM_ILV_CTL 0 then [localIlv s == localIlv t || !(hbmInFlight s (fun _ => true))] else []) ++
  ((List.range 16).filter (fun p => portDirty s p || linkMoves s t p)).map (portQuiet s t) ++
  (if isDirty s .FAB_NODE 0 || (List.range 4).any (fun d => isDirty s .FAB_DIM_CFG d || isDirty s .FAB_RT d) then [quietNow s] else []) ++
  ((List.range 8).filter (isDirty s .D2D_BR_ROLE)).map (pathQuiet s t) ++
  (if (List.range 16).any (gwDirty s) then [s.d2d.held.all (fun h => h.late || !(gwDirty s h.window))] else [])

/-- Slot 2 of Table 9.18 (R418). -/
def txnProg (n total st : Nat) (s : State) : State := setProg 2 ⟨n, total, st, 0, 0⟩ s

/-- Affected units that have reached quiescence since the commit began, with those that are quiescent now. -/
def reached (s : State) (u : List Bool) : Nat :=
  u.zipIdx.foldl (fun m x => if x.1 then m ||| 2 ^ x.2 else m) s.txn.quiet

/-- R418: one unit is counted as each affected unit reaches quiescence, and stays counted. -/
def noteQuiet (u : List Bool) (st : Nat) (s : State) : State :=
  let m := reached s u
  txnProg (1 + (setBits m u.length).length) (u.length + 2) st (s.modTxn (fun t => { t with quiet := m }))

def settleTxn (s : State) : State :=
  if txState s != txCOMMITTING then s
  else
    let u := commitUnits s (withShadows s)
    if reached s u = s.txn.quiet then s else noteQuiet u 1 s

end Sys2Proof.Machine
end

