-- ==== Sys2Proof/Machine/Finish.lean ====
section
/-! DEFINITION. How every meaning ends: what the command raised and made possible is settled, and the machine goes on. -/

namespace Sys2Proof.Machine

/-- Engines of the fabric and the collectives go on: accesses that were held and are no longer, barriers that are complete, collective steps that can be taken,
requests whose windows have room, and flits that ports can send. -/
def settleFlow (s : State) : State :=
  let s := if s.mem.held.isEmpty then s else serveHeld s
  let s := colPumpAll (settleBars s)
  let s := pumpReqs (pumpOut s)
  let s := pumpBridges s
  let s := settleBoot ((List.range 16).foldl (fun s p => pumpPort p s) s)
  let s := settleTxn (if quietNow s then s else noise s)
  if frostState s = fsLOCAL then frostAdvance s else s

/-- Errors are logged (R371), contained errors end their contexts (R368) and a fatal error meets its policy (R369); what follows may raise more. -/
def settleLoop : Nat → State → State
  | 0, s => s
  | n + 1, s =>
    let s := flushErrs (settleKills 64 (flushErrs s))
    let f := s.fatals
    let s := settleFatals f { s with fatals := [] }
    if s.rst.level != 0 then s
    else
      let s := settleFlow s
      if s.kills.isEmpty && s.fatals.isEmpty then s else settleLoop n s

/-- Settle a state: nothing raised is left over, and the trace records formed have been taken. -/
def settle (s : State) : State :=
  { drainTrace (flushErrs (settleLoop 8 s)) with kills := [], fatals := [], errs := [], stall := false }

abbrev Answer := Host.Outcome State Fault Refusal

/-- Whether the device runs: not in a power-on or system reset, and its rails on (R345, R347). -/
def running (s : State) : Bool := s.rst.level == 0 && !s.rst.off

/-- A command that ran on `s` with the effect `t` is over: what it raised is settled, and the commands that wait, wait on.
One that met memory that is held has not happened: it happens once the memory is served again (R183, R190, R356, R168). -/
def endOf (s t : State) : State := if t.stall then s else { settle t with pending := s.pending }

/-- The end of every meaning but those of resets and power: `t` is the effect on `s`. A device in reset, or without its
rails, takes no command. -/
def run (s t : State) : Answer := .next (if running s then endOf s t else s)

/-- The end of a host access that is served only from host ready on (R361). -/
def runHost (s t : State) : Answer := run s (if ready s then t else s)

/-- The end of a command that the device takes in any state: a reset source, a step of a reset, power. -/
def always (s t : State) : Answer :=
  .next (if running t then endOf s { t with stall := false }
    else { t with kills := [], fatals := [], errs := [], stall := false, pending := s.pending })

end Sys2Proof.Machine
end

