-- ==== Sys2Proof/Machine/Flags.lean ====
section
/-! DEFINITION. Where exception flags go (Table 3.17, R61, R125, R152): the flag word of an operation, a queue's flag
byte, and CORE_VEC_FLAGS. -/

namespace Sys2Proof.Machine

/-- The OR of flag words. -/
def orFlags (l : List Nat) : Nat := l.foldl (fun a b => a ||| b) 0

/-- R125: OR a flag word into CORE_VEC_FLAGS; hardware sets win over clears (R7). -/
def raiseVecFlags (c f : Nat) (s : State) : State :=
  s.setReg .CORE_VEC_FLAGS c (wN ((s.reg .CORE_VEC_FLAGS c).toNat ||| (f % 64)))

/-- R152: read and clear a queue's flag byte in one action. -/
def takeFlags (u : QueueSt) : Nat × QueueSt := (u.flags, { u with flags := 0 })

end Sys2Proof.Machine
end

