-- ==== Sys2Proof/Machine/Move.lean ====
section
/-! DEFINITION. Moving bytes for the DMA engines of cores and of the front end (R153 to R156, R181, R197, R206, R272):
one loop over chunks, each within one line, between the scratchpad, context virtual addresses, host memory and the
fabric. -/

namespace Sys2Proof.Machine

/-- Where one side of a move lies. -/
inductive Sp where
  /-- Scratchpad offsets of a core (local DMA). -/
  | pad (core : Nat)
  | va
  | host
  | fab (node : Nat)
  /-- A FILL's 8-byte pattern. -/
  | pat (bytes : List Byte)
deriving DecidableEq, Repr

/-- A move: context, the core whose window the engine sees, the two spaces, bytes in all, what owns its requests, their
flow, and whether poison is carried (front end) or stops the move (DMA block). -/
structure Mv where
  ctx : Nat
  core : Option Nat
  src : Sp
  dst : Sp
  total : Nat
  who : ReqWho
  flow : Nat
  carry : Bool
deriving DecidableEq, Repr

/-- How a move ends: everything issued, a failure, or a wait for a page request with the byte reached. -/
inductive MvEnd where
  | done
  | fail (code addr : Nat)
  | page (addr pos : Nat)
deriving DecidableEq, Repr

/-- What a move has done: chunks read and written by line, requests issued, poison carried, the host's bytes left, and the host
accesses made. -/
structure MvSt where
  rd : Nat
  wr : Nat
  reqs : Nat
  poi : Bool
  host : List Byte
  accs : Nat
deriving DecidableEq, Repr

/-- Locate [a, a + n) of a space, where the access goes on to a + span. -/
def locSp (m : Mv) (sp : Sp) (a : Int) (n span : Nat) (acs : Acs) (s : State) : Option (Nat × Nat) × List Piece × State :=
  match sp with
  | .pad c => (none, [⟨false, padAddr c a.toNat, n⟩], s)
  | .host => (none, [⟨true, (a % 2 ^ 64).toNat, n⟩], s)
  | .va =>
    if a < 0 || 2 ^ 48 < a + n then (some (cACCESS, (a % 2 ^ 64).toNat), [], s)
    else pieces (n / 64 + 2) m.ctx m.core a.toNat n span acs s
  | _ => (none, [], s)

/-- The address within a line, for cutting a chunk. -/
def cut (sp : Sp) (a : Int) (n : Nat) : Nat :=
  match sp with
  | .fab _ => min n 4096
  | .pat _ => n
  | _ => min n (64 - (a % 64).toNat)

def isFab : Sp → Bool
  | .fab _ => true
  | _ => false

/-- Pattern bytes [L, L + n). -/
def patBytes (b : List Byte) (L n : Nat) : List Byte := (List.range n).map (fun i => (b[(L + i) % 8]?).getD 0)

/-- A request packet of a move. -/
def mvReq (m : Mv) (opc node flags : Nat) (addr : Nat) (arg0 arg1 arg2 sig : Nat) (payload : List Byte)
    (ret : List (Bool × Nat × Nat)) (s : State) : State :=
  request ⟨m.flow, 0, mkPacket { Hdr.zero with
    opc := opc, flags := flags, dst := node, dom := ctxDom s m.ctx, flow := m.flow, sig := sig, addr := addr,
    arg0 := arg0, arg1 := arg1, arg2 := arg2 } payload, m.who, m.ctx, 0, 0, false, ret⟩ s

/-- The target address of a fabric access: 48 bits. Strides that carry it beyond them wrap, and the node stays that of SRC or DST
(DESIGN CHOICE, assumption 175). -/
def fabAddr (a : Int) : Nat := (a % 2 ^ 48).toNat

/-- Accesses of up to 64 bytes that pieces take: lines of Table 19.2. -/
def pieceLines (l : List Piece) : Nat := (l.map (fun p => (p.addr % 64 + p.len + 63) / 64)).sum

/-- Whether the host denies the access that a move makes now. -/
def denies (h : HostAns) (t : MvSt) : Bool := h.denied && h.after ≤ t.accs

/-- What a denied host access leads to (R197). -/
def denied (m : Mv) (addr pos : Nat) (s : State) : MvEnd :=
  if s.flag F.FE_CTX_CFG_FAULTABLE m.ctx then .page addr pos else .fail cXLATE addr

def hostAddr (l : List Piece) : Nat := ((l.find? (fun p => p.host)).map (·.addr)).getD 0

/-! ## Overlap: R155, R206 -/

/-- Where a move's bytes lie, cut at lines: pieces of its source and of its destination. -/
def mvPieces (m : Mv) (place : Nat → Int × Int × Nat) (s : State) : Nat → Nat → List Piece × List Piece
  | 0, _ => ([], [])
  | k + 1, L =>
    if m.total ≤ L then ([], [])
    else
      let (sa, da, rem) := place L
      let n := max 1 (min (cut m.src sa rem) (cut m.dst da rem))
      let (a, b) := mvPieces m place s k (L + n)
      ((locSp m m.src sa n n .r s).2.1 ++ a, (locSp m m.dst da n n .w s).2.1 ++ b)

/-- The bytes that two pieces share. -/
def shared (x y : Piece) : Option Piece :=
  let lo := max x.addr y.addr
  let hi := min (x.addr + x.len) (y.addr + y.len)
  if x.host == y.host && lo < hi then some ⟨x.host, lo, hi - lo⟩ else none

/-- Destination bytes of a COPY that are source bytes as well. -/
def mvOverlap (m : Mv) (place : Nat → Int × Int × Nat) (s : State) : List Piece :=
  match m.src, m.dst with
  | .pat _, _ => []
  | .fab _, _ => []
  | _, .fab _ => []
  | _, _ =>
    let (a, b) := mvPieces m place s m.total 0
    b.flatMap (fun y => a.filterMap (fun x => shared x y))

/-- Overlapped destination bytes are unpredictable: free values by the event and the address. -/
def blur (ov : List Piece) (seed : Nat) : List Piece → List Byte → List Byte
  | [], bs => bs
  | p :: l, bs =>
    (bs.take p.len).zipIdx.map (fun x =>
      if ov.any (fun r => r.host == p.host && r.addr ≤ p.addr + x.2 && p.addr + x.2 < r.addr + r.len) then
        Config.freeByte seed (p.addr + x.2)
      else x.1) ++ blur ov seed l (bs.drop p.len)

/-- One chunk of n bytes from byte L of the move, at addresses sa and da, in a row with `rem` bytes left; `ov` are the
overlapped bytes. -/
def mvChunk (m : Mv) (h : HostAns) (ov : List Piece) (seed : Nat) (L n rem : Nat) (sa da : Int) (t : MvSt) (s : State) : Option MvEnd × MvSt × State :=
  match m.src with
  | .fab node =>
    match locSp m m.dst da n rem .w s with
    | (some (c, a), _, s) => (some (.fail c a), t, s)
    | (none, l, s) =>
      if anyHostPiece l && denies h t then (some (denied m (hostAddr l) L s), t, s)
      else
        let s := mvReq m 2 node 0 (fabAddr sa) (fabAddr da) n 0 0 [] (l.map (fun p => (p.host, p.addr, p.len))) s
        (none, { t with wr := t.wr + pieceLines l, reqs := t.reqs + 1, accs := t.accs + if anyHostPiece l then 1 else 0 }, s)
  | _ =>
    let (e, ls, s) : Option (Nat × Nat) × List Piece × State :=
      match m.src with | .pat _ => (none, [], s) | _ => locSp m m.src sa n rem .r s
    match e with
    | some (c, a) => (some (.fail c a), t, s)
    | none =>
      if anyHostPiece ls && denies h t then (some (denied m (hostAddr ls) L s), t, s)
      else
        let s := askHost m.ctx ls s
        let bad := piecePoison s ls
        let hp := anyHostPiece ls && h.poisoned
        let poi := bad.isSome || hp
        let s := if poi && !(t.poi && m.carry) then
            match bad with
            | some a => consumed (some m.ctx) a s
            | none => deferred (some m.ctx) 6 0 14 0 0 s
          else s
        if poi && !m.carry then
          (some (.fail cPOISON (match bad with | some a => a | none => hostAddr ls)), t, s)
        else
          let bs := match m.src with | .pat b => patBytes b L n | _ => readPieces s ls t.host
          let used := (ls.filter (fun p => p.host)).foldl (fun k p => k + p.len) 0
          let t := { t with rd := t.rd + pieceLines ls, poi := t.poi || poi, host := t.host.drop used,
                            accs := t.accs + if anyHostPiece ls then 1 else 0 }
          match m.dst with
          | .fab node =>
            let s := mvReq m 1 node (if poi then 1 else 0) (fabAddr da) 0 0 0 0 bs [] s
            (none, { t with reqs := t.reqs + 1 }, s)
          | _ =>
            match locSp m m.dst da n rem .w s with
            | (some (c, a), _, s) => (some (.fail c a), t, s)
            | (none, ld, s) =>
              if anyHostPiece ld && denies h t then (some (denied m (hostAddr ld) L s), t, s)
              else (none, { t with wr := t.wr + pieceLines ld, accs := t.accs + if anyHostPiece ld then 1 else 0 }, writePieces m.ctx ld (if ov.isEmpty then bs else blur ov seed ld bs) poi s)

/-- Bytes of the next chunk: at most the rest of the row, within one line on each side; poisoned source lines go in
8-byte steps, so that poison lands where it lay. -/
def chunkLen (m : Mv) (rem : Nat) (sa da : Int) (s : State) : Nat :=
  let n := if isFab m.src || isFab m.dst then min rem 4096 else min (cut m.src sa rem) (cut m.dst da rem)
  match m.src with
  | .pad c => if poisoned s (padAddr c sa.toNat) (min n 64) && m.carry then min n (8 - (sa % 8).toNat) else n
  | _ => n

/-- Move from byte L on. `at` gives the source and destination of a byte and the bytes left in its row. -/
def mvLoop (m : Mv) (h : HostAns) (ov : List Piece) (seed : Nat) (place : Nat → Int × Int × Nat) : Nat → Nat → MvSt → State → MvEnd × MvSt × State
  | 0, _, t, s => (.done, t, s)
  | k + 1, L, t, s =>
    if m.total ≤ L then (.done, t, s)
    else
      let (sa, da, rem) := place L
      let n := max 1 (chunkLen m rem sa da s)
      match mvChunk m h ov seed L n (max n rem) sa da t s with
      | (some e, t, s) => (e, t, s)
      | (none, t, s) => mvLoop m h ov seed place k (L + n) t s

/-- Run a move from byte `pos`. -/
def runMove (m : Mv) (h : HostAns) (place : Nat → Int × Int × Nat) (pos : Nat) (s : State) : MvEnd × MvSt × State :=
  let ov := mvOverlap m place s
  let (i, s) := if ov.isEmpty then (0, s) else s.fresh
  mvLoop m h ov (i + 1) place (m.total - pos) pos ⟨0, 0, 0, false, h.data, 0⟩ s

/-- Issue a page request for an access that waits (R197). At most 32 of a context are outstanding. -/
def askPage (w : PriWait) (s : State) : State :=
  let s := s.modFe (fun f => { f with pri := f.pri ++ [w] })
  if (s.fe.pri.filter (fun x => x.ctx == w.ctx)).length ≤ 32 then emit (.pageRequest w.ctx w.addr) s else s

end Sys2Proof.Machine
end

