-- ==== Sys2Proof/Machine/Dma.lean ====
section
/-! DEFINITION. The DMA queues of a core (R153 to R156, R226, R272). -/

namespace Sys2Proof.Machine

/-- Table 7.13. -/
structure DBlk where
  op : Nat
  sigEn : Bool
  sfab : Bool
  dfab : Bool
  sigRemote : Bool
  rsv : Nat
  sigId : Nat
  sigAdd : Nat
  src : Nat
  dst : Nat
  len0 : Nat
  cnt1 : Nat
  cnt2 : Nat
  sstr1 : Int
  dstr1 : Int
  sstr2 : Int
  dstr2 : Int
  cmp : Nat
  ret : Nat
  aop : Nat
  high : Nat
deriving DecidableEq, Repr

def DBlk.of (b : List Byte) : DBlk :=
  let v := fieldLe b 0 64
  { op := bitsN v 0 8, sigEn := bitN v 8, sfab := bitN v 9, dfab := bitN v 10, sigRemote := bitN v 11,
    rsv := bitsN v 12 4 + bitsN v 36 12, sigId := bitsN v 16 20, sigAdd := bitsN v 48 16, src := bitsN v 64 64,
    dst := bitsN v 128 64, len0 := bitsN v 192 32, cnt1 := bitsN v 224 16, cnt2 := bitsN v 240 16,
    sstr1 := toSigned 48 (bitsN v 256 48), dstr1 := toSigned 48 (bitsN v 304 48),
    sstr2 := toSigned 48 (bitsN v 352 48), dstr2 := toSigned 48 (bitsN v 400 48), cmp := bitsN v 192 64,
    ret := bitsN v 256 24, aop := bitsN v 280 8, high := v / 2 ^ 288 }

def DBlk.total (b : DBlk) : Nat := b.len0 * b.cnt1 * b.cnt2

/-- R153: source and destination of byte L, and the bytes left in its row. -/
def DBlk.place (b : DBlk) (sbase dbase : Int) (L : Nat) : Int × Int × Nat :=
  let row := L / b.len0
  let i1 := row % b.cnt1
  let i2 := row / b.cnt1
  let x := L % b.len0
  (sbase + i2 * b.sstr2 + i1 * b.sstr1 + x, dbase + i2 * b.dstr2 + i1 * b.dstr1 + x, b.len0 - x)

/-- Lowest and highest offset that one side of a block reaches; addresses are linear in i1 and i2. -/
def reach (base st1 st2 : Int) (b : DBlk) : Int × Int :=
  let e1 := st1 * (b.cnt1 - 1)
  let e2 := st2 * (b.cnt2 - 1)
  (base + min 0 e1 + min 0 e2, base + max 0 e1 + max 0 e2 + (b.len0 - 1))

def inPad (r : Int × Int) : Bool := 0 ≤ r.1 && r.2 < (spSize : Int)

/-- R154 for COPY and FILL. -/
def DBlk.ok (b : DBlk) (vat : Bool) : Bool :=
  (b.op == 1 || b.op == 2) && b.rsv == 0 && (b.high / 2 ^ (448 - 288)) == 0 && !(b.sfab && b.dfab) &&
  !(b.sigRemote && !b.dfab) &&
  (vat ||
    (!b.sfab && !b.dfab && b.dst < 2 ^ 24 && (b.op == 2 || b.src < 2 ^ 24) &&
     (b.total == 0 || (inPad (reach b.dst b.dstr1 b.dstr2 b) && (b.op == 2 || inPad (reach b.src b.sstr1 b.sstr2 b))))))

/-- R156, but for the mode of the context. -/
def DBlk.atomOk (b : DBlk) : Bool :=
  b.rsv == 0 && !b.sfab && !(b.sigRemote && !b.dfab) && b.high == 0 && b.ret % 8 == 0 && b.ret ≤ 0x5FFFF8 &&
  (match aopBytes b.aop with
    | some n => (if b.dfab then bitsN b.dst 0 48 else b.dst) % n == 0
    | none => false)

/-- The word a block's own signal goes to: translated at its check (R225, R226). -/
def blockSig (ctx : Nat) (b : DBlk) (s : State) : Option (Option (Nat × Word)) × State :=
  if !b.sigEn || b.sigRemote then (some none, s)
  else match xlateSid ctx b.sigId .signal s with
    | (.word a, s) => (some (some (a, wN b.sigAdd)), s)
    | (_, s) => (none, s)

def qOf (vat : Bool) : Nat := if vat then 3 else 2

/-- The move that a COPY or FILL block makes. -/
def DBlk.mv (b : DBlk) (c ctx ticket : Nat) (vat : Bool) : Mv :=
  let side (fab : Bool) (a : Nat) : Sp := if !vat then .pad c else if fab then .fab (bitsN a 48 16) else .va
  { ctx := ctx, core := some c, src := if b.op = 2 then .pat (natLe 8 b.src) else side b.sfab b.src,
    dst := side b.dfab b.dst, total := b.total, who := .vdma c ticket, flow := c, carry := false }

/-- A fabric address takes part with its low 48 bits. -/
def fabBase (fab : Bool) (a : Nat) : Int := if fab then bitsN a 0 48 else a

/-- Count lines moved (Table 19.2). Lines of the device itself and of host memory count, and what a PUT or GET reads or writes at
the other node does not (DESIGN CHOICE, assumption 189). -/
def countLines (c : Nat) (vat : Bool) (t : MvSt) (s : State) : State :=
  if vat then count c 14 t.wr (count c 13 t.rd s) else count c 12 t.wr s

/-- The signal a remote block sends once every PUT is acknowledged (R272). -/
def sendRemoteSig (c ctx ticket : Nat) (b : DBlk) (s : State) : State :=
  let m := b.mv c ctx ticket true
  mvReq m 4 (bitsN b.dst 48 16) 0 0 0 b.sigAdd 0 b.sigId [] [] s

/-- Once nothing of a block is outstanding, its remote signal goes out; then the block only waits to be counted. -/
def settleBlock (c q ticket : Nat) (s : State) : State :=
  match ((s.core c).queue q).run.find? (fun r => r.ticket == ticket) with
  | none => s
  | some r =>
    let b := DBlk.of r.bytes
    if r.outst = 0 && r.failed = 0 && !r.executed then
      if b.sigEn && b.sigRemote && r.flags = 0 then
        let s := modRun c q ticket (fun r => { r with outst := 1, flags := 1 }) s
        sendRemoteSig c (blkCtx s c) ticket b s
      else modRun c q ticket (fun r => { r with executed := true }) s
    else s

/-- Run a COPY or FILL block from byte `pos`. A block that has failed makes no further access (R274). -/
def runBlock (c ticket : Nat) (vat : Bool) (h : HostAns) (pos : Nat) (s : State) : State :=
  let q := qOf vat
  match ((s.core c).queue q).run.find? (fun r => r.ticket == ticket) with
  | none => s
  | some r =>
    if r.failed != 0 then s else
    let b := DBlk.of r.bytes
    let ctx := blkCtx s c
    let m := b.mv c ctx ticket vat
    let (e, t, s) := runMove m h (b.place (fabBase b.sfab b.src) (fabBase b.dfab b.dst)) pos s
    let s := countLines c vat t s
    let s := modRun c q ticket (fun r => { r with outst := r.outst + t.reqs }) s
    match e with
    | .done => settleBlock c q ticket s
    | .fail code _ => failBlock c q ticket code s
    | .page a p =>
      askPage ⟨ctx, a, .vdma c ticket p⟩ (modRun c q ticket (fun r => { r with outst := r.outst + 1 }) s)

/-- DMA_COPY and DMA_FILL: the checks at the head, then the move (R150, R154, R155). -/
def opDma (mine : DBlk → Bool) (c : Nat) (vat : Bool) (h : HostAns) (s : State) : State :=
  let q := qOf vat
  match headReady s c q with
  | none => s
  | some blk =>
    let b := DBlk.of blk.bytes
    if !(mine b) then s
    else if !(b.ok vat) then haltQueue c q 1 s
    else match blockSig (blkCtx s c) b s with
      | (none, s) => haltQueue c q 1 s
      | (some sig, s) => runBlock c blk.ticket vat h 0 (startBlock c q blk sig s)

/-- DMA_ATOMIC (R156). -/
def opDmaAtomic (c : Nat) (s : State) : State :=
  match headReady s c 3 with
  | none => s
  | some blk =>
    let b := DBlk.of blk.bytes
    if b.op != 3 then s
    else
      let ctx := blkCtx s c
      if b.aop = 0x10 && bitN (s.reg .DEV_REPRO_CTL 0).toNat ctx then
        contained (some ctx) 0 c 12 0 (3 + 16 * 1) (haltQueue c 3 1 s)
      else if !b.atomOk then haltQueue c 3 1 s
      else match blockSig ctx b s with
        | (none, s) => haltQueue c 3 1 s
        | (some sig, s) =>
          let s := startBlock c 3 blk sig s
          let m := b.mv c ctx blk.ticket true
          if b.dfab then
            let s := mvReq m 3 (bitsN b.dst 48 16) 0 (bitsN b.dst 0 48) b.src b.cmp b.aop 0 []
              [(false, padAddr c b.ret, 8)] s
            modRun c 3 blk.ticket (fun r => { r with outst := 1 }) (count c 14 1 s)
          else
            let n := (aopBytes b.aop).getD 8
            match locSp m .va b.dst n n .rw s with
            | (some (code, _), _, s) => failBlock c 3 blk.ticket code s
            | (none, ⟨false, a, _⟩ :: _, s) =>
              if poisoned s a n then failBlock c 3 blk.ticket cPOISON (consumed (some ctx) a s)
              else
                let (old, s) := atomicAt ctx a b.aop b.src b.cmp s
                settleBlock c 3 blk.ticket (store ctx (padAddr c b.ret) (natLe 8 old) false (count c 14 2 (count c 13 1 s)))
            | (none, _, s) => failBlock c 3 blk.ticket cACCESS s

/-- DMA_BLOCK_COMPLETE: the oldest started block with every write acknowledged raises its signal and is counted
(Table 7.10, R155, R226). -/
def opDmaComplete (c : Nat) (vat : Bool) (s : State) : State :=
  let q := qOf vat
  match ((s.core c).queue q).run.find? (fun r => r.executed && r.failed = 0) with
  | none => s
  | some r => completeBlock c q r.ticket 0 (raiseSig (blkCtx s c) r.sig s)

/-- A response to a request of a Vat-DMA block (R269, R274): STATUS OK and POISON complete it, others fail the block. -/
def vdmaAnswer (c ticket st : Nat) (s : State) : State :=
  let s := modRun c 3 ticket (fun r => { r with outst := r.outst - 1 }) s
  if st = 0 || st = stPOISON then settleBlock c 3 ticket s
  else if ((s.core c).dq.run.any (fun r => r.ticket == ticket && r.failed == 0)) then
    failBlock c 3 ticket (if st = stLOCAL then cACCESS else cREMOTE) (dropQueued (.vdma c ticket) s)
  else s

/-- The answer to a block's page request (R197): it goes on from the byte it had reached, or fails with XLATE. -/
def vdmaPage (c ticket pos : Nat) (h : HostAns) (s : State) : State :=
  let s := modRun c 3 ticket (fun r => { r with outst := r.outst - 1 }) s
  if s.core c |>.dq.run.any (fun r => r.ticket == ticket && r.failed != 0) then s
  else if h.denied && h.after = 0 then failBlock c 3 ticket cXLATE s
  else runBlock c ticket true h pos s

/-- DMA_COPY. A block whose OP is reserved is rejected here, as the first DMA row; so is an ATOMIC of the local queue. -/
def execDmaCopy (c : CoreId) (vat : Bool) (h : HostAns) (s : State) : Answer :=
  run s (opDma (fun b => b.op != 2 && !(vat && b.op == 3)) c vat h s)
def execDmaFill (c : CoreId) (vat : Bool) (h : HostAns) (s : State) : Answer := run s (opDma (fun b => b.op == 2) c vat h s)
def execDmaAtomic (c : CoreId) (s : State) : Answer := run s (opDmaAtomic c s)
def execDmaBlockComplete (c : CoreId) (vat : Bool) (s : State) : Answer := run s (opDmaComplete c vat s)

end Sys2Proof.Machine
end

