-- ==== Sys2Proof/Machine/FrontEnd.lean ====
section
/-! DEFINITION. The front end at work (chapter 09): nudges, polls and fetches (R195, R201, R202), dispatch and its checks
(R203, R204), every descriptor but the collectives, records (R207), ARM, ABORT and the watchdog (R213 to R215), page
requests (R197), progress mirrors (R211) and the start of a launch (R157, R433). -/

namespace Sys2Proof.Machine

/-! ## Fetching: R195, R201 to R203 -/

/-- Issue a read of TAIL. -/
def readTail (r : Nat) (s : State) : State :=
  emit (.hostRead (ringCtx s r) (ringHdr s r) 4) (s.modRing r (fun k =>
    { k with tailOut := true, tailMore := if k.tailOut then k.tailMore + 1 else 0 }))

/-- The oldest read of TAIL has its answer. -/
def tailCame (k : RingSt) : RingSt := { k with tailOut := 0 < k.tailMore, tailMore := k.tailMore - 1 }

/-- R201: leave IDLE. NEED_NUDGE = 0 and STATE = ACTIVE are written, then TAIL is read. -/
def leaveIdle (r : Nat) (s : State) : State :=
  let s := s.modRing r (fun k => { k with st := rsActive, needNudge := false, lastCheck := false })
  let (ok1, s) := hdrTry r 0x0C 0 s
  let (ok2, s) := hdrTry r 0x10 rsActive s
  if ok1 && ok2 then readTail r s
  else ringFault r 2 0 (s.ring r).head (ringHdr s r + (if ok1 then 0x10 else 0x0C)) 0 [] true s

/-- NUDGE: a write of the word at offset 0 of a function's nudge page (R195). -/
def opNudge (fn word : Nat) (s : State) : State :=
  let r := word % 4096
  if s.flag F.FE_RING_CTL_EN r && ringCtx s r = fn && (s.ring r).st = rsIdle then leaveIdle r s else s

/-- A write of a function's nudge page at an offset: only the word at 0 is one. No row of the table writes another. -/
def nudgeWrite (fn off word : Nat) (s : State) : State := if off = 0 then opNudge fn word s else s

/-- A read of n bytes of the nudge page returns zero (R195). No row of the table reads it. -/
def nudgeRead (n : Nat) (s : State) : State := emit (.completion true (List.replicate n 0) false) s

/-- RING_POLL: the next poll interval of an IDLE or ACTIVE ring ends, and TAIL is read, also while an earlier read of it is
outstanding. -/
def opPoll (r : Nat) (s : State) : State :=
  let k := s.ring r
  if k.st = rsIdle || k.st = rsActive then
    let s := passTo (k.pollAt + s.fld F.FE_POLL_CTL_INTERVAL * 1000) s
    readTail r (s.modRing r (fun k => { k with pollAt := s.now }))
  else s

/-- Nothing of the ring is in flight, and everything it has fetched is recorded. -/
def ringQuiet (k : RingSt) : Bool := k.descs.isEmpty && k.fetched == k.head

/-- R202: NEED_NUDGE = 1 is written and TAIL read again, once the ring has nothing in flight. -/
def goIdle (r : Nat) (s : State) : State :=
  let k := s.ring r
  if k.st = rsActive && ringQuiet k && k.tail = k.head && !k.needNudge then
    let (ok, s) := hdrTry r 0x0C 1 (s.modRing r (fun k => { k with needNudge := true, lastCheck := true }))
    if ok then readTail r s else ringFault r 2 0 k.head (ringHdr s r + 0x0C) 0 [] true s
  else s

/-- TAIL has been read: the checks of R198 and R202 on an ACTIVE ring. -/
def gotTail (r t : Nat) (s : State) : State :=
  let k := s.ring r
  if ringN s r < (t + 2 ^ 32 - k.head) % 2 ^ 32 then ringFault r 3 0 k.fetched 0 0 [] true s
  else
    let s := s.modRing r (fun k => { (tailCame k) with tail := t })
    if k.lastCheck && k.tailMore = 0 then
      if t = k.head && ringQuiet k then
        let (ok, s) := hdrTry r 0x10 rsIdle (s.modRing r (fun k => { k with st := rsIdle, lastCheck := false }))
        if ok then s else ringFault r 2 0 k.head (ringHdr s r + 0x10) 0 [] true s
      else
        let (ok, s) := hdrTry r 0x0C 0 (s.modRing r (fun k => { k with needNudge := false, lastCheck := false }))
        if ok then s else ringFault r 2 0 k.head (ringHdr s r + 0x0C) 0 [] true s
    else goIdle r s

/-- R213: TAIL has been read again, and the ring is ACTIVE. For the WDOG cause the watchdog restarts. -/
def armed (r t : Nat) (s : State) : State :=
  let k := s.ring r
  if ringN s r < (t + 2 ^ 32 - k.head) % 2 ^ 32 then ringFault r 3 0 k.fetched 0 0 [] true s
  else
    let now := timerFrom s
    let s := s.modRing r (fun k => { (tailCame k) with
      st := rsActive, needNudge := false, lastCheck := false, arming := false, tail := t
      wdogFrom := if k.cause = 4 then now else k.wdogFrom })
    let (ok1, s) := hdrTry r 0x0C 0 s
    let (ok2, s) := hdrTry r 0x10 rsActive s
    if ok1 && ok2 then s else ringFault r 2 0 (s.ring r).head (ringHdr s r + (if ok1 then 0x10 else 0x0C)) 0 [] true s

/-- TAIL_READ (R201, R202). -/
def opTailRead (r : Nat) (h : HostAns) (s : State) : State :=
  let k := s.ring r
  if !k.tailOut then s
  else if h.denied || h.poisoned then
    ringFault r 1 0 k.fetched (ringHdr s r) 0 [] true s
  else
    let t := fieldLe h.data 0 4
    if k.st = rsIdle then
      if t = k.head then s.modRing r tailCame else leaveIdle r (s.modRing r tailCame)
    else if k.st = rsActive then gotTail r t s
    else if k.arming then armed r t s
    else s.modRing r tailCame

/-- DESCRIPTOR_FETCH: the next descriptor arrives and waits for dispatch. Fetching stays within TAIL. -/
def opFetch (r : Nat) (h : HostAns) (s : State) : State :=
  let k := s.ring r
  if k.st != rsActive || k.fetched = k.tail then s
  else
    let a := ringBase s r + 64 * (k.fetched % ringN s r)
    if h.denied || h.poisoned then ringFault r 1 0 k.fetched a 0 [] true s
    else
      s.modRing r (fun k => { k with
        fetched := (k.fetched + 1) % 2 ^ 32
        descs := k.descs ++ [⟨k.fetched, slice h.data 0 64, .fetched, 0, none, 0, false, 0, 0, 0, false, 64, 0, false, false⟩] })

/-! ## Dispatch: R203 -/

/-- Bits that each opcode defines, as (lsb, width); the header's first (Tables 9.11, 9.13). -/
def bodyBits : Nat → Option (List (Nat × Nat))
  | 0x00 => some []
  | 0x01 => some [(64, 128), (192, 48), (256, 4), (288, 20), (319, 1), (320, 64)]
  | 0x02 => some [(64, 128), (192, 48), (256, 4), (288, 20), (319, 1), (320, 64)]
  | 0x08 => some [(64, 192), (256, 128), (384, 32)]
  | 0x09 => some [(64, 10), (128, 64), (192, 2)]
  | 0x10 => some [(64, 10)]
  | 0x11 => some [(64, 10), (128, 64)]
  | 0x18 => some [(64, 20), (128, 64)]
  | 0x19 => some [(64, 20), (96, 1), (128, 64)]
  | 0x20 => some [(64, 12), (80, 16), (128, 256), (384, 20), (415, 1), (448, 64)]
  | 0x21 => some [(64, 12), (96, 96), (384, 20), (415, 1), (448, 64)]
  | 0x28 => some [(64, 80)]
  | 0x30 => some [(64, 66), (132, 1)]
  | 0x38 => some [(64, 1)]
  | _ => none

def maskOf (l : List (Nat × Nat)) : Nat := l.foldl (fun m p => m ||| ((2 ^ p.2 - 1) * 2 ^ p.1)) 0

/-- R203: a known opcode, and every reserved bit zero. -/
def formOk (d : List Byte) : Bool :=
  match bodyBits (dOpcode d) with
  | none => false
  | some l => let m := maskOf ([(0, 10), (32, 32)] ++ l); fieldLe d 0 64 &&& m == fieldLe d 0 64

/-- Take the descriptor that may be dispatched if it is of an opcode that the row covers. One of bad form is rejected. -/
def atDispatch (r : Nat) (mine : Nat → Bool) (f : DescSt → State → State) (s : State) : State :=
  match nextDesc s r with
  | none => s
  | some d =>
    if !(mine (dOpcode d.bytes)) then s
    else
      let s := startDesc r d.seq s
      if formOk d.bytes then f d s else rejectDesc r d.seq s

/-- The signal of a descriptor: none, one that its check translates, or a rejection. -/
def descSig (ctx : Nat) (d : List Byte) (idOff addOff : Nat) (s : State) : Option (Option (Nat × Word)) × State :=
  if !(bitN (fieldLe d idOff 4) 31) then (some none, s)
  else match xlateSid ctx (bitsN (fieldLe d idOff 4) 0 20) .signal s with
    | (.word a, s) => (some (some (a, wN (fieldLe d addOff 8))), s)
    | (_, s) => (none, s)

def okDesc (r seq : Nat) (v : Word) (sig : Bool) (s : State) : State := finishDesc r seq 0 v sig 0 s

/-- NOP, and a descriptor whose opcode is reserved, which is rejected. -/
def opNop (r : Nat) (s : State) : State :=
  atDispatch r (fun o => o == 0 || (bodyBits o).isNone) (fun d s => okDesc r d.seq 0 false s) s

/-! ### COPY and FILL: R206, R209, R272 -/

def spaceOf (sp a : Nat) : Sp := if sp = 0 then .va else if sp = 1 then .host else .fab (bitsN a 48 16)
def spaceAddr (sp a : Nat) : Int := if sp = 2 then bitsN a 0 48 else a

/-- The move of a COPY or FILL descriptor, with its engine's flow. -/
def feMove (ctx r seq eng : Nat) (d : List Byte) : Mv :=
  let sp := fieldLe d 32 1
  { ctx := ctx, core := none, src := if dOpcode d = 2 then .pat (slice d 8 8) else spaceOf (bitsN sp 0 2) (fieldLe d 8 8),
    dst := spaceOf (bitsN sp 2 2) (fieldLe d 16 8), total := fieldLe d 24 8, who := .fe r seq, flow := 0xC0 + eng,
    carry := true }

def copyOk (d : List Byte) : Bool :=
  let sp := fieldLe d 32 1
  let a := bitsN sp 0 2
  let b := bitsN sp 2 2
  a != 3 && b != 3 && (if dOpcode d = 2 then a == 0 else !(a == b && (a == 1 || a == 2)))

/-- Whether the descriptor's signal goes to the destination node (R272). -/
def remoteSig (d : List Byte) : Bool := bitN (fieldLe d 36 4) 31 && bitsN (fieldLe d 32 1) 2 2 == 2

/-- Run a COPY or FILL from byte `pos`. What fails is stored, and no access is made from then on (R206, R274); the descriptor
completes once its answers are in. -/
def runFe (r seq : Nat) (h : HostAns) (pos : Nat) (s : State) : State :=
  match (s.ring r).find seq with
  | none => s
  | some d =>
    if d.status != 0 then s else
    let ctx := ringCtx s r
    let sp := fieldLe d.bytes 32 1
    let m := feMove ctx r seq d.engine d.bytes
    let sa := spaceAddr (bitsN sp 0 2) (fieldLe d.bytes 8 8)
    let da := spaceAddr (bitsN sp 2 2) (fieldLe d.bytes 16 8)
    let (e, t, s) := runMove m h (fun L => (sa + L, da + L, m.total - L)) pos s
    let s := modDesc r seq (fun d => { d with outst := d.outst + t.reqs, poi := d.poi || t.poi }) s
    match e with
    | .done => s
    | .fail code a => modDesc r seq (fun d => { d with status := code, faddr := a }) s
    | .page a p => askPage ⟨ctx, a, .fe r seq p⟩ (modDesc r seq (fun d => { d with outst := d.outst + 1 }) s)

/-- The SIGNAL that a descriptor sends to its destination node (R272). -/
def sendFeSig (m : Mv) (d : List Byte) (s : State) : State :=
  mvReq m 4 (fieldLe d 22 2) 0 0 0 (fieldLe d 40 8) 0 (bitsN (fieldLe d 36 4) 0 20) [] [] s

/-- The lowest front-end DMA engine that is free. -/
def freeEngine (s : State) : Option Nat := (List.range 64).find? (fun e => !(bitN (busyEngines s) e))

/-- COPY and FILL. A descriptor waits, not dispatched, while all 64 engines are busy. -/
def opFeDma (op r : Nat) (h : HostAns) (s : State) : State :=
  match freeEngine s with
  | none => s
  | some e => atDispatch r (· == op) (fun d s =>
    if !(copyOk d.bytes) then rejectDesc r d.seq s
    else
      let (g, s) := if remoteSig d.bytes then (some none, s) else descSig (ringCtx s r) d.bytes 36 40 s
      match g with
      | none => rejectDesc r d.seq s
      | some g =>
        let s := modDesc r d.seq (fun x => { x with sig := g, engine := e }) s
        if fieldLe d.bytes 24 8 = 0 then
          -- R209: complete at dispatch. The answer to a signal sent to another node is nobody's: no ring has number 4096 + r
          let s := okDesc r d.seq 0 true s
          if remoteSig d.bytes then sendFeSig { (feMove (ringCtx s r) r d.seq e d.bytes) with who := .fe (4096 + r) d.seq } d.bytes s else s
        else lateKills r d.seq (runFe r d.seq h 0) s) s

/-- FE_DMA_COMPLETE: every write of a COPY or FILL has been acknowledged. A fabric signal is sent then, and the
descriptor waits for its ACK; any other is raised. -/
def opFeComplete (r seq : Nat) (s : State) : State :=
  match (s.ring r).find seq with
  | none => s
  | some d =>
    let op := dOpcode d.bytes
    if d.phase != .running || d.outst != 0 || !(op == 1 || op == 2) then s
    else if d.status != 0 then finishDesc r seq d.status 0 false d.faddr s
    else if remoteSig d.bytes && d.value = 0 then
      let m := feMove (ringCtx s r) r seq d.engine d.bytes
      let s := modDesc r seq (fun d => { d with outst := 1, value := 1 }) s
      sendFeSig m d.bytes s
    else finishDesc r seq (if d.poi then cPOISON else 0) 0 true d.faddr s

/-- A response to a request of a front-end engine (R269, R274): POISON is carried, any other failure is REMOTE. -/
def feAnswer (r seq st : Nat) (s : State) : State :=
  let s := modDesc r seq (fun d => { d with outst := d.outst - 1 }) s
  if st = 0 then s
  else if st = stPOISON then modDesc r seq (fun d => { d with poi := true }) s
  else modDesc r seq (fun d => { d with status := if d.status = 0 then (if st = stLOCAL then cACCESS else cREMOTE) else d.status }) (dropQueued (.fe r seq) s)

/-! ### Launches: R157, R433 -/

def maskOwned (s : State) (ctx mask : Nat) : Bool := (coresOf mask).all (fun c => coreCtx s c == some ctx)

def opLaunch (r : Nat) (s : State) : State :=
  atDispatch r (· == 8) (fun d s =>
    let ctx := ringCtx s r
    let mask := fieldLe d.bytes 8 24
    let entry := fieldLe d.bytes 32 8
    let pre := fieldLe d.bytes 48 4
    if !(maskOwned s ctx mask) || 65536 < pre || 2 ^ 48 ≤ entry then rejectDesc r d.seq s
    else if mask = 0 then okDesc r d.seq 0 false s
    else s.modFe (fun f => { f with launches := f.launches ++
      [⟨r, d.seq, ctx, mask, wN entry, wN (fieldLe d.bytes 40 8), pre, false, []⟩] })) s

/-- Lines of a preload of n bytes at va that can be read: those that a fetch may reach, that lie in the device's memory and
that hold no poison. -/
def preloadLines (s : State) (c ctx va n : Nat) : List (Nat × List Byte) :=
  if n = 0 then []
  else
    ((List.range (ceilDiv (va % 64 + n) 64)).filterMap (fun i =>
      let l := va / 64 + i
      match locateCp c ctx (64 * l) 64 .x s with
      | .at w => if anyHost w || w.any (fun b => match b with | .phys a => poisonAt s a | _ => true) then none
                 else some (l, readAt s w [])
      | .exc _ _ _ => none)).reverse

/-- Note the accesses of a preload (R380). -/
def notePreload (c ctx va n : Nat) (s : State) : State :=
  (List.range (if n = 0 then 0 else ceilDiv (va % 64 + n) 64)).foldl (fun s i =>
    match locateCp c ctx (64 * (va / 64 + i)) 64 .x s with
    | .at w => noteAt ctx (64 * (va / 64 + i)) w s
    | .exc _ _ _ => s) s

/-- R157: what the monitor does at the start of a launch, on the core of a given rank. -/
def startCore (l : Launch) (total rank c : Nat) (s : State) : State :=
  let ic := preloadLines s c l.ctx l.entry.toNat l.preload
  let s := notePreload c l.ctx l.entry.toNat l.preload s
  let s := stampWait (coreWait s c) c <| s.modCore c (fun k =>
    { k with
      pc := l.entry
      x := smSet 0 12 (wN total) (smSet 0 11 (wN rank) (smSet 0 10 l.arg []))
      mq := QueueSt.reset
      vq := QueueSt.reset
      lq := QueueSt.reset
      dq := QueueSt.reset
      order := 0
      mop := none
      sstatus := wN (setBitsN k.sstatus.toNat 1 1 0)
      icache := ic
      park := none
      retire := none
      resv := none
      rank := rank
      launch := some (l.ring, l.seq)
      launched := true
      -- what a later switch of contexts makes undefined is this launch's own now (R162)
      stale := false })
  let s := s.setReg .CORE_VEC_FLAGS c 0
  s.setFld F.CORE_CTX_STAT_STATE c csRunning

/-- Whether a launch may start: every masked core IDLE, and no core in reset or held by Frost. -/
def canStart (s : State) (l : Launch) : Bool :=
  !l.started && (coresOf l.mask).all (fun c =>
    coreState s c == csIdle && !((s.core c).inReset) && !((s.core c).launched && (s.core c).launch.isSome) && !(slotHeld s (c / 16)))

/-- LAUNCH_START: the oldest launch of the ring that can start. R433 checks ownership again in the same action. -/
def opLaunchStart (r : Nat) (s : State) : State :=
  match s.fe.launches.find? (fun l => l.ring == r && canStart s l) with
  | none => s
  | some l =>
    if !(maskOwned s l.ctx l.mask) then
      rejectDesc l.ring l.seq (s.modFe (fun f => { f with
        launches := f.launches.filter (fun x => !(x.ring == l.ring && x.seq == l.seq)) }))
    else
      let s := modLaunch l.ring l.seq (fun x => { x with started := true }) s
      let cs := coresOf l.mask
      (cs.zipIdx).foldl (fun s p => startCore l cs.length p.2 p.1 s) s

/-! ### TASKQ_PUSH: R160, R161 -/

/-- The bytes of a host or context-virtual source, for a descriptor: failure, a page to wait for, or bytes with
poison. -/
inductive Src64 where
  | fail (code addr : Nat)
  | page (addr : Nat)
  | got (data : List Byte) (poi : Bool)

def readSrc (ctx : Nat) (host : Bool) (a n : Nat) (h : HostAns) (s : State) : Src64 × State :=
  let m : Mv := ⟨ctx, none, if host then .host else .va, .pat [], n, .fe 0 0, 0, true⟩
  match locSp m m.src a n n .r s with
  | (some (c, a), _, s) => (.fail c a, s)
  | (none, l, s) =>
    if anyHostPiece l && h.denied then
      ((if s.flag F.FE_CTX_CFG_FAULTABLE ctx then .page (hostAddr l) else .fail cXLATE (hostAddr l)), s)
    else
      let s := askHost ctx l s
      let bad := piecePoison s l
      let hp := anyHostPiece l && h.poisoned
      let s := match bad with
        | some a => consumed (some ctx) a s
        | none => if hp then deferred (some ctx) 6 0 14 0 0 s else s
      (.got (readPieces s l h.data) (bad.isSome || hp), s)

def tqRefused (r seq : Nat) (s : State) : State := finishDesc r seq 7 (wN (2 ^ 64 - 1)) false 0 s

/-- Read the entry of a TASKQ_PUSH and take SPACE. -/
def runTq (r seq : Nat) (h : HostAns) (s : State) : State :=
  match (s.ring r).find seq with
  | none => s
  | some d =>
    let q := fieldLe d.bytes 8 2
    let ctx := ringCtx s r
    if smGet 0 s.fe.tqGen q != d.value.toNat || !(s.flag F.FE_TQ_CTL_EN q) then tqRefused r seq s
    else match readSrc ctx (fieldLe d.bytes 24 1 == 1) (fieldLe d.bytes 16 8) 64 h s with
      | (.fail c a, s) => finishDesc r seq c 0 false a s
      | (.page a, s) => askPage ⟨ctx, a, .fe r seq 0⟩ (modDesc r seq (fun d => { d with outst := 1 }) s)
      | (.got bs poi, s) =>
        let a := if poi then fieldLe d.bytes 16 8 else 0
        let w := tqBase s q + 8
        let s := needs (tqBase s q) 64 s
        if poisonAt s w then rejectDesc r seq (contained (some ctx) 8 0 13 w (addrPword s w) s)
        else
        parkWait ctx ⟨tqBase s q + 8, 1, true, .tqRing r seq q bs poi⟩ (modDesc r seq (fun d => { d with faddr := a }) s)

def opTaskq (r : Nat) (h : HostAns) (s : State) : State :=
  atDispatch r (· == 9) (fun d s =>
    let q := fieldLe d.bytes 8 2
    if !(s.flag F.FE_TQ_CTL_EN q) || tqCtx s q != ringCtx s r || 1 < fieldLe d.bytes 24 1 ||
        fieldLe d.bytes 16 8 % 64 != 0 then rejectDesc r d.seq s
    else
      let g := smGet 0 s.fe.tqGen q
      lateKills r d.seq (runTq r d.seq h) (modDesc r d.seq (fun x => { x with value := wN g }) s)) s

/-! ### Events, signals, waits, TIMESTAMP, HINT, FROST -/

def eventKey (ctx n : Nat) : Nat := ctx * 1024 + n

/-- EVENT_RECORD, and the EVENT_WAITs of the context that it releases. -/
def opEventRecord (r : Nat) (s : State) : State :=
  atDispatch r (· == 0x10) (fun d s =>
    let ctx := ringCtx s r
    let e := eventKey ctx (fieldLe d.bytes 8 2)
    let v := smGet 0 s.fe.events e + 1
    let s := okDesc r d.seq v false (s.modFe (fun f => { f with events := smSet 0 e v f.events }))
    s.fe.rings.foldl (fun s kv =>
      if ringCtx s kv.1 = ctx then
        kv.2.descs.foldl (fun s w =>
          if w.phase == .running && dOpcode w.bytes = 0x11 && eventKey ctx (fieldLe w.bytes 8 2) = e &&
              fieldLe w.bytes 16 8 ≤ v.toNat
          then okDesc kv.1 w.seq 0 false s else s) s
      else s) s) s

def opEventWait (r : Nat) (s : State) : State :=
  atDispatch r (· == 0x11) (fun d s =>
    let v := smGet 0 s.fe.events (eventKey (ringCtx s r) (fieldLe d.bytes 8 2))
    if fieldLe d.bytes 16 8 ≤ v.toNat then okDesc r d.seq 0 false s else s) s

def opSignalDesc (r : Nat) (s : State) : State :=
  atDispatch r (· == 0x18) (fun d s =>
    let ctx := ringCtx s r
    match xlateSid ctx (bitsN (fieldLe d.bytes 8 4) 0 20) .signal s with
    | (.word a, s) => lateKills r d.seq (fun s => okDesc r d.seq 0 false (signal ctx a (fieldLe d.bytes 16 8) s)) s
    | (_, s) => rejectDesc r d.seq s) s

/-- WAIT of a kind: 0 look, 1 take. -/
def opWaitDesc (kind r : Nat) (s : State) : State :=
  match nextDesc s r with
  | none => s
  | some d =>
    if dOpcode d.bytes = 0x19 && fieldLe d.bytes 12 1 % 2 != kind then s
    else atDispatch r (· == 0x19) (fun d s =>
      let ctx := ringCtx s r
      match xlateSid ctx (bitsN (fieldLe d.bytes 8 4) 0 20) .wait s with
      | (.word a, s) => parkWait ctx ⟨a, wN (fieldLe d.bytes 16 8), kind == 1, .ring r d.seq⟩ s
      | (_, s) => rejectDesc r d.seq s) s

/-- The 8-byte write of a TIMESTAMP. -/
def runStamp (r seq : Nat) (h : HostAns) (s : State) : State :=
  match (s.ring r).find seq with
  | none => s
  | some d =>
    let ctx := ringCtx s r
    let a := fieldLe d.bytes 8 8
    let m : Mv := ⟨ctx, none, .va, if bitsN (fieldLe d.bytes 16 1) 0 2 = 1 then .host else .va, 8, .fe r seq, 0, true⟩
    match locSp m m.dst a 8 8 .w s with
    | (some (c, a), _, s) => finishDesc r seq c d.value false a s
    | (none, l, s) =>
      if anyHostPiece l && h.denied then
        if s.flag F.FE_CTX_CFG_FAULTABLE ctx then
          askPage ⟨ctx, hostAddr l, .fe r seq 0⟩ (modDesc r seq (fun d => { d with outst := 1 }) s)
        else finishDesc r seq cXLATE d.value false (hostAddr l) s
      else okDesc r seq d.value false (writePieces ctx l (natLe 8 d.value.toNat) false s)

def opTimestamp (r : Nat) (h : HostAns) (s : State) : State :=
  atDispatch r (· == 0x30) (fun d s =>
    let w := fieldLe d.bytes 16 1
    if 1 < bitsN w 0 2 || fieldLe d.bytes 8 8 % 8 != 0 then rejectDesc r d.seq s
    else
      let t := wN s.timebase
      let s := trace 0x12 (some (ringCtx s r)) r 0 d.seq (dTag d.bytes) (modDesc r d.seq (fun x => { x with value := t }) s)
      if bitN w 4 then lateKills r d.seq (runStamp r d.seq h) s else okDesc r d.seq t false s) s

def opFrostDesc (r : Nat) (s : State) : State :=
  atDispatch r (· == 0x38) (fun d s =>
    if r != 0 then rejectDesc r d.seq s
    else if frozen s then s
    else enterLocal fsrcDESC (fieldLe d.bytes 8 1 % 2) (some (r, d.seq)) s) s

/-! ## Records: R207, R208 -/

/-- HEAD passes a record, and the contained error of its descriptor takes effect (R368). -/
def passRecord (r : Nat) (d : DescSt) (s : State) : State :=
  let s := s.modRing r (fun k => { k with descs := k.descs.drop 1, head := (d.seq + 1) % 2 ^ 32 })
  let s := count 192 77 1 s
  if d.kill then { s with kills := s.kills ++ [ringCtx s r] } else s

/-- The record goes to host memory; its interrupt waits for HEAD (R208). -/
def writeRecord (r : Nat) (d : DescSt) (s : State) : State :=
  let s := emit (.hostWrite (ringCtx s r) (recordAddr s r d.seq) (recordBytes s r d) false) s
  if dIrq d.bytes then s.modRing r (fun k => { k with irqs := k.irqs + 1 }) else s

/-- R208: HEAD is written, so the interrupts of the records before it go. -/
def sendIrqs (r : Nat) (s : State) : State :=
  (List.range (s.ring r).irqs).foldl (fun s _ => msix (ringCtx s r) (s.fld F.FE_RING_CTL_VEC r) s)
    (s.modRing r (fun k => { k with irqs := 0 }))

/-- COMPLETION_RECORD_WRITE: the record, then HEAD, then the interrupt and the read of TAIL (R201). -/
def opRecord (r : Nat) (recOk hdrOk : Bool) (s : State) : State :=
  let k := s.ring r
  match oldestDone k with
  | none => s
  | some d =>
    if k.st != rsActive then s
    else if !recOk then ringFault r 2 0 d.seq (recordAddr s r d.seq) 0 d.bytes true s
    else
      let s := passRecord r d (writeRecord r d s)
      if !hdrOk then ringFault r 2 0 d.seq (ringHdr s r + 8) 0 d.bytes true s
      else
        let s := sendIrqs r (hdrWrite r 0x08 (s.ring r).head true s)
        readTail r s

/-! ## FE_RING_CTL, ARM, ABORT, watchdog -/

/-- FE_RING_CTL (R199, Table 9.8). -/
def opRingCtl (r v : Nat) (hdrOk : Bool) (s : State) : State :=
  let old := (s.reg .FE_RING_CTL r).toNat
  let en := bitN old 13
  let want := bitN v 13
  -- fields that an enabled ring keeps
  let v := if en then setBitsN (setBitsN v 0 6 (bitsN old 0 6)) 8 5 (bitsN old 8 5) else v
  let v := if r = 0 then setBitsN v 0 6 0 else v
  let s := s.regWrite .FE_RING_CTL r (setBitsN v 13 1 (bitsN old 13 1))
  let st := (s.ring r).st
  if want && !en then
    let lg := s.fld F.FE_RING_CTL_LOG2N r
    let ctx := ringCtx s r
    if 4 ≤ lg && lg ≤ 16 && ringBase s r % 4096 = 0 && ringCq s r % 4096 = 0 && ctxExists s ctx && st = rsOff &&
        !(bitN (s.reg .DEV_ERR_CTX 0).toNat ctx) then
      let s := s.setFld F.FE_RING_CTL_EN r 1
      let s := s.modRing r (fun k => { RingSt.reset with st := rsIdle, needNudge := true, cause := k.cause, pollAt := s.now })
      if hdrOk then hdrWrite r 0x10 rsIdle true (hdrWrite r 0x0C 1 true (hdrWrite r 0x08 0 true s))
      else ringFault r 2 0 0 (ringHdr s r + 8) 0 [] false s
    else s
  else if !want && en && (st = rsOff || st = rsIdle) then
    (s.setFld F.FE_RING_CTL_EN r 0).modRing r (fun k => { RingSt.reset with cause := k.cause })
  else s

/-- Write the records of a run of completed descriptors; `oks` answers for each, then for HEAD. -/
def armRecords (r : Nat) : Nat → List Bool → State → Bool × List Bool × State
  | 0, oks, s => (true, oks, s)
  | n + 1, oks, s =>
    match oldestDone (s.ring r) with
    | none => (true, oks, s)
    | some d =>
      if oks.headD true then armRecords r n (oks.drop 1) (passRecord r d (writeRecord r d s)) else (false, oks.drop 1, s)

/-- ARM: the parked records, HEAD, and the read of TAIL that the ring waits for before it is ACTIVE (R213). -/
def opArm (r : Nat) (oks : List Bool) (s : State) : State :=
  let k := s.ring r
  if k.st != rsFaulted || k.arming then s
  else
    match armRecords r k.descs.length oks s with
    | (false, _, s) =>
      let d := oldestDone (s.ring r)
      let seq := match d with | some d => d.seq | none => 0
      ringFault r 2 0 seq (recordAddr s r seq) 0 (match d with | some d => d.bytes | none => []) true s
    | (true, oks, s) =>
      if oks.headD true then
        let s := sendIrqs r (hdrWrite r 0x08 (s.ring r).head true s)
        readTail r (s.modRing r (fun k => { k with arming := true }))
      else ringFault r 2 0 (s.ring r).head (ringHdr s r + 8) 0 [] true s

/-- ABORT: only of a ring that is not OFF. -/
def opAbort (r : Nat) (s : State) : State := abortRing r s

/-- R215 steps 4 and 5 once every descriptor is complete: records that cannot be written are discarded and counted. -/
def abortRecords (r : Nat) : Nat → List Bool → State → List Bool × State
  | 0, oks, s => (oks, s)
  | n + 1, oks, s =>
    match oldestDone (s.ring r) with
    | none => (oks, s)
    | some d =>
      let s := if oks.headD true then writeRecord r d s else s.incSat F.FE_FLT_STAT_LOST
      abortRecords r n (oks.drop 1) (passRecord r d s)

/-- R192: the contexts that leave cease to exist once their rings are OFF: VF Enable and NumVFs are then as written. -/
def vfOver (s : State) : State :=
  match s.fe.vfGoing with
  | none => s
  | some (leave, en, num) =>
    if leave.all (fun n => (ctxRings s n).isEmpty) then
      s.modFe (fun f => { f with vfGoing := none, vfEnable := en, numVfs := num
                                 events := f.events.filter (fun e => !(leave.contains (e.1 / 1024))) })
    else s

def opAbortComplete (r : Nat) (oks : List Bool) (s : State) : State :=
  let k := s.ring r
  if k.st != rsAborting || k.descs.any (fun d => d.phase != .done) then s
  else
    let (oks, s) := abortRecords r k.descs.length oks s
    let s := sendIrqs r (hdrWrite r 0x08 (s.ring r).head (oks.headD true) s)
    let s := hdrWrite r 0x10 rsOff ((oks.drop 1).headD true) s
    let s := (s.setFld F.FE_RING_CTL_EN r 0).setFld F.FE_RING_CMD_ABORT r 0
    vfOver (s.modRing r (fun k => { RingSt.reset with cause := k.cause }))

/-- Table 9.20, INFO: what a descriptor is engaged with. -/
def wdogInfo (s : State) (r : Nat) (d : DescSt) : Nat :=
  let b := d.bytes
  let p (k v : Nat) : Nat := k + v * 2 ^ 32
  match dOpcode b with
  | 0x01 => p 0 (d.engine % 64)
  | 0x02 => p 0 (d.engine % 64)
  | 0x08 =>
    let ex := match s.fe.launches.find? (fun l => l.ring == r && l.seq == d.seq) with | some l => l.exited | none => []
    p 1 (((coresOf (fieldLe b 8 24)).find? (fun c => smGet 0 ex c == 0)).getD 0)
  | 0x09 => p 2 (fieldLe b 8 2)
  | 0x10 => p 3 (fieldLe b 8 2)
  | 0x11 => p 3 (fieldLe b 8 2)
  | 0x18 => p 4 (bitsN (fieldLe b 8 4) 0 20)
  | 0x19 => p 4 (bitsN (fieldLe b 8 4) 0 20)
  | 0x20 => p 5 (fieldLe b 8 2)
  | 0x21 => p 5 (fieldLe b 8 2)
  | 0x38 => p 6 0
  | _ => 0

/-- WATCHDOG_EXPIRY (R214): time reaches the limit of the oldest incomplete descriptor that has been dispatched. -/
def opWatchdog (r : Nat) (s : State) : State :=
  let k := s.ring r
  let w := s.fld F.FE_RING_CTL_WDOG r
  match k.descs.find? (fun d => d.phase == .running) with
  | none => s
  | some d =>
    if k.st != rsActive || w = 0 || frozen s then s
    else
      let s := passTo (max d.started k.wdogFrom + 2 ^ w * 1000) s
      ringFault r 4 0 d.seq 0 (wdogInfo s r d) d.bytes true s

/-! ## Functions: R192, R216, R358 -/

/-- The rings of a context whose descriptors are all complete end OFF; one with an operation that has started ends OFF
when that has run to completion (ABORT_COMPLETE). -/
def ringsOff (n : Nat) (s : State) : State := (ctxRings s n).foldl (fun s r => opAbortComplete r [] s) s

/-- VF_DISABLE: VF Enable and NumVFs as written. A VF that goes is reset first and takes no work and no set-up from then on; its
context ceases to exist once its rings are OFF, which is at once but for operations that have started (DESIGN CHOICE,
assumption 186). -/
def opVf (enable : Bool) (num : Nat) (s : State) : State :=
  let gone := (List.range 64).filter (fun n => n != 0 && ctxExists s n && !(enable && n ≤ num))
  let s := gone.foldl (fun s n => ringsOff n (flr n s)) s
  let old := match s.fe.vfGoing with | some (l, _) => l | none => []
  vfOver (s.modFe (fun f => { f with vfGoing := some (old ++ gone, enable, num) }))

/-! ## Page requests: R197 -/

/-- Go on with an access whose page request has been answered. -/
def resumePage (w : PriWait) (h : HostAns) (s : State) : State :=
  match w.who with
  | .vdma c t pos => vdmaPage c t pos h s
  | .fe r seq pos =>
    match (s.ring r).find seq with
    | none => s
    | some d =>
      let s := modDesc r seq (fun d => { d with outst := d.outst - 1 }) s
      match dOpcode d.bytes with
      | 0x09 =>
        if h.denied then finishDesc r seq cXLATE 0 false w.addr s
        else
          let s := lateKills r seq (runTq r seq h) s
          -- under an abort a push that finds its queue full does not wait (R215)
          match (s.ring r).find seq with
          | some d => if (s.ring r).st = rsAborting && d.phase == .running && d.outst = 0 then abortDesc r d s else s
          | none => s
      | 0x30 => if h.denied then finishDesc r seq cXLATE d.value false w.addr s else lateKills r seq (runStamp r seq h) s
      | _ =>
        if d.status != 0 then s
        else if h.denied && h.after = 0 then modDesc r seq (fun d => { d with status := cXLATE, faddr := w.addr }) s
        else lateKills r seq (runFe r seq h pos) s
  | .pkt b =>
    -- the request, which has waited in the ingress, is taken with the host's answer
    let s := frontPkt b s
    if h.denied && h.after = 0 then refusePkt s
    else
      let h := { h with after := h.after - 1 }
      match fieldLe b 0 1 with
      | 1 => opPut h s
      | 2 => opGet h s
      | 5 => opGetf h s
      | _ => opFwd h s

/-- Whether the access that waits for a page may be issued: under Frost a packet received is still served, and nothing
started issues a new access (R373). -/
def mayResume (s : State) (w : PriWait) : Bool := !(frozen s) || (match w.who with | .pkt _ => true | _ => false)

/-- PRI_RESPONSE: the oldest page request of the context is answered, and a request that waited is issued. -/
def opPri (ctx : Nat) (h : HostAns) (s : State) : State :=
  match s.fe.pri.find? (fun w => w.ctx == ctx) with
  | none => s
  | some w =>
    if !(mayResume s w) then s else
    let s := s.modFe (fun f => { f with pri := f.pri.erase w })
    let next := (s.fe.pri.filter (fun x => x.ctx == ctx))[31]?
    let s := match next with | some n => emit (.pageRequest ctx n.addr) s | none => s
    resumePage w h s

/-! ## Progress mirrors: R211 -/

/-- A mirror write is due: a change not written, 10 µs since the last, or at once when done or failed. -/
def opMirror (n : Nat) (ok : Bool) (s : State) : State :=
  let p := s.prog n
  if !(smGet false s.fe.mirrorDue n) || smGet false s.fe.mirrorStop n || !(s.flag F.FE_PROG_MIRROR_EN n) then s
  else
    let s := if p.st = 2 || p.st = 3 then s else passTo (smGet 0 s.fe.mirrorAt n + 10000) s
    let s := s.modFe (fun f => { f with mirrorDue := smSet false n false f.mirrorDue, mirrorAt := smSet 0 n s.now f.mirrorAt })
    if ok then
      emit (.hostWrite (if 8 ≤ n then n - 8 else 0) (s.fld F.FE_PROG_MIRROR_ADDR n * 32) (progBytes n p) false) s
    else (s.incSat F.FE_FLT_STAT_LOST).modFe (fun f => { f with mirrorStop := smSet false n true f.mirrorStop })

/-- FE_FLT_CTL (Table 9.21). A write of EN = 1 with a LOG2N outside 4 to 12 leaves the log disabled also where EN was 1 before it: the
write takes LOG2N, clears FAIL, and EN reads 0 (DESIGN CHOICE, assumption 178). -/
def opFltCtl (v : Nat) (s : State) : State :=
  let s := s.regWrite .FE_FLT_CTL 0 (setBitsN v 4 1 (s.fld F.FE_FLT_CTL_EN))
  let lg := s.fld F.FE_FLT_CTL_LOG2N
  if bitN v 4 then
    ((s.setFld F.FE_FLT_STAT_FAIL 0 0).setFld F.FE_FLT_CTL_EN 0 (if 4 ≤ lg && lg ≤ 12 then 1 else 0)).modFe
      (fun f => { f with fltStop := false })
  else s.setFld F.FE_FLT_CTL_EN 0 0

/-! ## BAR4: R194 -/

def bar4Addr (s : State) (off : Nat) : Nat := s.fld F.FE_BAR4_OFFSET_ADDR * 2 ^ 30 + off

/-- BAR4_READ. -/
def opBar4Read (off n : Nat) (s : State) : State := access (.bar4 (bar4Addr s off) n) s

/-- BAR4_WRITE: discarded whole if a byte is unbacked or lies in a SYNC, COL, LINK or MEMBUF partition. -/
def opBar4Write (off : Nat) (data : List Byte) (s : State) : State :=
  let a := bar4Addr s off
  let ok (x : Nat) : Bool := match region s x with
    | .unbacked => false
    | .vat _ .scratch => true
    | .vat _ _ => false
    | _ => true
  if allBytes ok a data.length then access (.write 0 a data false) s else s

/-! ## The rows -/

def execNudge (fn : CtxId) (w : BitVec 32) (s : State) : Answer := runHost s (nudgeWrite fn 0 w.toNat s)
def execRingPoll (r : RingId) (s : State) : Answer := run s (opPoll r s)
def execTailRead (r : RingId) (h : HostAns) (s : State) : Answer := run s (opTailRead r h s)
def execDescriptorFetch (r : RingId) (h : HostAns) (s : State) : Answer := run s (opFetch r h s)
def execNopDesc (r : RingId) (s : State) : Answer := run s (opNop r s)
def execCopyDesc (r : RingId) (h : HostAns) (s : State) : Answer := run s (opFeDma 1 r h s)
def execFillDesc (r : RingId) (h : HostAns) (s : State) : Answer := run s (opFeDma 2 r h s)
def execLaunchDesc (r : RingId) (s : State) : Answer := run s (opLaunch r s)
def execLaunchStart (r : RingId) (s : State) : Answer := run s (opLaunchStart r s)
def execTaskqPush (r : RingId) (h : HostAns) (s : State) : Answer := run s (opTaskq r h s)
def execEventRecord (r : RingId) (s : State) : Answer := run s (opEventRecord r s)
def execEventWait (r : RingId) (s : State) : Answer := run s (opEventWait r s)
def execSignalDesc (r : RingId) (s : State) : Answer := run s (opSignalDesc r s)
def execWaitLook (r : RingId) (s : State) : Answer := run s (opWaitDesc 0 r s)
def execWaitTake (r : RingId) (s : State) : Answer := run s (opWaitDesc 1 r s)
def execTimestamp (r : RingId) (h : HostAns) (s : State) : Answer := run s (opTimestamp r h s)
def execFrost (r : RingId) (s : State) : Answer := run s (opFrostDesc r s)
def execFeDmaComplete (r : RingId) (seq : BitVec 32) (s : State) : Answer := run s (opFeComplete r seq.toNat s)
def execCompletionRecordWrite (r : RingId) (recOk hdrOk : Bool) (s : State) : Answer := run s (opRecord r recOk hdrOk s)
def execFeRingCtl (r : RingId) (v : BitVec 32) (hdrOk : Bool) (s : State) : Answer := runHost s (opRingCtl r v.toNat hdrOk s)
def execArm (r : RingId) (oks : List Bool) (s : State) : Answer := runHost s (opArm r oks s)
def execAbort (r : RingId) (s : State) : Answer := runHost s (opAbort r s)
def execAbortComplete (r : RingId) (oks : List Bool) (s : State) : Answer := run s (opAbortComplete r oks s)
def execWatchdogExpiry (r : RingId) (s : State) : Answer := run s (opWatchdog r s)
def execVfDisable (en : Bool) (num : CtxId) (s : State) : Answer := run s (opVf en num s)
/-- VF_ENABLE (R192): VF Enable is set and NumVFs raised; the contexts that come into existence have their event counters
at 0. While contexts leave, it waits for them. -/
def execVfEnable (num : CtxId) (s : State) : Answer :=
  run s (match s.fe.vfGoing with
    | some (leave, en, n) => if en && num.val < n then s else s.modFe (fun f => { f with vfGoing := some (leave, true, num) })
    | none => if s.fe.vfEnable && num.val < s.fe.numVfs then s
    else
      let old := s
      let s := s.modFe (fun f => { f with vfEnable := true, numVfs := num })
      s.modFe (fun f => { f with events := f.events.filter (fun e => ctxExists old (e.1 / 1024)) }))
def execPriResponse (c : CtxId) (h : HostAns) (s : State) : Answer := run s (opPri c h s)
def execProgressMirrorWrite (n : Fin 72) (ok : Bool) (s : State) : Answer := run s (opMirror n ok s)
def execFeFltCtl (v : BitVec 32) (s : State) : Answer := runHost s (opFltCtl v.toNat s)
def execBar4Read (off : Fin 0x1000000000) (n : Fin 4097) (s : State) : Answer :=
  run s (if ready s then opBar4Read off n s else emit (.completion false [] false) s)
def execBar4Write (off : Fin 0x1000000000) (data : List Byte) (s : State) : Answer := runHost s (opBar4Write off data s)

end Sys2Proof.Machine
end

