-- ==== Sys2Proof/Machine/CollectiveCmds.lean ====
section
/-! DEFINITION. The rows of collectives: dispatch of COLLECTIVE and RESHARD descriptors (R283, R286, R296, R297), starts,
arrivals, GRANT timeouts, and COL_GRP_CTL. -/

namespace Sys2Proof.Machine

/-- R283: the checks of a COLLECTIVE's fields. -/
def colFieldsOk (op dtype redop count : Nat) : Bool :=
  1 ≤ op && op ≤ 9 && dtype ≤ 9 && redop ≤ 3 && count < 2 ^ 32 &&
  (if isReducing op then redop != 0 && dtype != 9 else redop == 0) &&
  (op != coBARRIER || (count == 0 && dtype == 0))

/-- The group of a descriptor is the ring's own and enabled. -/
def grpOwned (s : State) (ctx g : Nat) : Bool := grpOn s g && grpCtx s g == ctx

/-- R296: DST of a RINGPASS maps wholly to Vat SCRATCH, and AUX names a FREE word. -/
def ringDstOk (s : State) (ctx dst n : Nat) : Bool :=
  n == 0 || (List.range (ceilDiv (dst % 64 + n) 64)).all (fun i =>
    let va := max dst (dst / 64 * 64 + 64 * i)
    match xlate s ctx va .w with
    | .ok a _ => (match region s a with | .vat _ .scratch => true | _ => false)
    | _ => false)

/-- The check needs page tables that are held. -/
def ringDstHeld (s : State) (ctx dst n : Nat) : Bool :=
  anyHold s && n != 0 && (List.range (ceilDiv (dst % 64 + n) 64)).any (fun i =>
    match xlate s ctx (max dst (dst / 64 * 64 + 64 * i)) .w with | .held => true | _ => false)

/-- Note the walks of the check (R380). -/
def noteRingDst (ctx dst n : Nat) (s : State) : State :=
  (List.range (if n = 0 then 0 else ceilDiv (dst % 64 + n) 64)).foldl
    (fun s i => noteWalk ctx (max dst (dst / 64 * 64 + 64 * i)) s) s

/-- Give a checked operation its place in the group's sequence. -/
def issueCol (r : Nat) (d : DescSt) (g : Nat) (o : ColOp) (s : State) : State :=
  match descSig (ringCtx s r) d.bytes 48 56 s with
  | (none, s) => rejectDesc r d.seq s
  | (some sig, s) => lateKills r d.seq (fun s => dispatchCol g { o with sig := sig, ring := some (r, d.seq) } s) s

/-- A COLLECTIVE whose OP the row covers is dispatched. -/
def opCollective (mine : Nat → Bool) (r : Nat) (s : State) : State :=
  match nextDesc s r with
  | none => s
  | some d =>
    if dOpcode d.bytes = 0x20 && !(mine (fieldLe d.bytes 10 1)) then s
    else atDispatch r (· == 0x20) (fun d s =>
      let ctx := ringCtx s r
      let g := fieldLe d.bytes 8 2 % 4096
      let op := fieldLe d.bytes 10 1
      let dt := fieldLe d.bytes 11 1 % 16
      let ro := fieldLe d.bytes 11 1 / 16
      let n := fieldLe d.bytes 16 8
      let dst := fieldLe d.bytes 32 8
      let aux := fieldLe d.bytes 40 8
      if !(colFieldsOk op dt ro n) || !(grpOwned s ctx g) then rejectDesc r d.seq s
      else
        let (ok, s) : Bool × State :=
          if op = coRINGPASS then
            match xlateSid ctx (bitsN aux 0 20) .wait s with
            | (.word _, s) =>
              (ringDstOk s ctx dst (2 * n),
                if ringDstHeld s ctx dst (2 * n) then { s with stall := true } else noteRingDst ctx dst (2 * n) s)
            | (_, s) => (false, s)
          else (true, s)
        if !ok then rejectDesc r d.seq s
        else issueCol r d g { ColOp.blank with
          op := op, dtype := dt, redop := ro, count := n, src := fieldLe d.bytes 24 8, dst := dst, aux := aux } s) s

/-- RESHARD (R297): EPOCH follows that of the group's last RESHARD. -/
def opReshard (r : Nat) (s : State) : State :=
  atDispatch r (· == 0x21) (fun d s =>
    let g := fieldLe d.bytes 8 2 % 4096
    let e := fieldLe d.bytes 12 4
    if !(grpOwned s (ringCtx s r) g) || e != (s.grp g).resh + 1 then rejectDesc r d.seq s
    else
      let old := (s.ring r).find d.seq
      let s := issueCol r d g { ColOp.blank with op := coPERMUTE, src := fieldLe d.bytes 16 8, aux := e } s
      -- a rejected one leaves the group's last EPOCH as it was
      match old, (s.ring r).find d.seq with
      | some _, some x => if x.status = 1 then s else s.modGrp g (fun k => { k with resh := e })
      | _, _ => s) s

def execAllreduce (r : RingId) (s : State) : Answer := run s (opCollective (fun o => o == coALLREDUCE || o == 0 || 10 ≤ o) r s)
def execReduceCol (r : RingId) (s : State) : Answer := run s (opCollective (· == coREDUCE) r s)
def execBroadcast (r : RingId) (s : State) : Answer := run s (opCollective (· == coBROADCAST) r s)
def execAllgather (r : RingId) (s : State) : Answer := run s (opCollective (· == coALLGATHER) r s)
def execReduceScatter (r : RingId) (s : State) : Answer := run s (opCollective (· == coREDUCESCATTER) r s)
def execAlltoall (r : RingId) (s : State) : Answer := run s (opCollective (· == coALLTOALL) r s)
def execAlltoallv (r : RingId) (s : State) : Answer := run s (opCollective (· == coALLTOALLV) r s)
def execBarrierCol (r : RingId) (s : State) : Answer := run s (opCollective (· == coBARRIER) r s)
def execRingpass (r : RingId) (s : State) : Answer := run s (opCollective (· == coRINGPASS) r s)
def execReshard (r : RingId) (s : State) : Answer := run s (opReshard r s)
def execCollectiveStart (g : GroupId) (s : State) : Answer := run s (startCol g s)
def execUp (s : State) : Answer := run s (opCol (fun n => n == subUP || subOther n) s)
def execDown (s : State) : Answer := run s (opCol (· == subDOWN) s)
def execWmark (s : State) : Answer := run s (opCol (· == subWMARK) s)
def execGrant (s : State) : Answer := run s (opCol (· == subGRANT) s)
def execReady (s : State) : Answer := run s (opCol (· == subREADY) s)
def execDone (s : State) : Answer := run s (opCol (· == subDONE) s)
def execRingBlock (s : State) : Answer := run s (opCol (· == subRING) s)
def execColAbort (s : State) : Answer := run s (opCol (· == subABORT) s)
def execSegmentTimeout (g : GroupId) (peer : Fin 65536) (kind : Fin 3) (num : BitVec 32) (s : State) : Answer :=
  run s (segTimeout g peer kind num.toNat s)
def execColGrpCtl (g : GroupId) (v : BitVec 32) (s : State) : Answer := runHost s (grpCtl g v.toNat s)

end Sys2Proof.Machine
end

