-- ==== Sys2Proof/Machine/Limits.lean ====
section
/-! DEFINITION. The Calender's limits (chapter 16): the cap in force, rails, throttle reasons, control of the rails, and
iso-rate pacing. -/

namespace Sys2Proof.Machine

/-! ## The cap in force: R326 -/

/-- The value, in mW, that PWR_CAP.CAP has reached by now: a lowering moves at PWR_RAMP_DN.RATE. -/
def capReached (s : State) : Nat :=
  let goal := s.fld F.PWR_CAP_CAP * 1000
  if s.pwr.cap ≤ goal then goal
  else max goal (s.pwr.cap - s.fld F.PWR_RAMP_DN_RATE * (s.now - s.pwr.capAt) / 1000)

/-- The value, in mW, that PWR_EXT_CAP.CAP has reached: CAP_EFF follows the register at once (R326), and the limit that it
sets on power moves down at PWR_RAMP_DN.RATE, since R331 has no exception for it. -/
def extReached (s : State) : Nat :=
  let goal := if s.flag F.PWR_EXT_CAP_EN then s.fld F.PWR_EXT_CAP_CAP * 1000 else 4095000
  if s.pwr.ext ≤ goal then goal
  else max goal (s.pwr.ext - s.fld F.PWR_RAMP_DN_RATE * (s.now - s.pwr.capAt) / 1000)

/-- CAP_EFF in W. -/
def capEff (s : State) : Nat :=
  let c := capReached s / 1000
  if s.flag F.PWR_EXT_CAP_EN then min c (s.fld F.PWR_EXT_CAP_CAP) else c

/-- The ramp of the cap goes on to now, and CAP_EFF is shown. -/
def moveCap (s : State) : State :=
  let c := capReached s
  let x := extReached s
  let t := s.now
  let s := s.modPwr (fun p => { p with cap := c, ext := x, capAt := t })
  s.setFld F.PWR_MEAS_CAP_EFF 0 (capEff s)

/-- PWR_CAP: a raise takes effect at once, a lowering ramps down unless IMMED is set. -/
def opPwrCap (v : Nat) (s : State) : State :=
  let s := (moveCap s).regWrite .PWR_CAP 0 v
  let goal := s.fld F.PWR_CAP_CAP * 1000
  let s := if s.pwr.cap ≤ goal || s.flag F.PWR_CAP_IMMED then s.modPwr (fun p => { p with cap := goal }) else s
  let e := capEff s
  let s := if s.flag F.PWR_CAP_IMMED then mayFall (s.modPwr (fun p => { p with force := min p.force e })) else s
  s.setFld F.PWR_MEAS_CAP_EFF 0 e

/-- Write PWR_EXT_CAP through management (R326, Tables 20.6 and 20.7). A cap of 0xFFF or less fits the field. -/
def setExtCap (cap : Nat) (en : Bool) (s : State) : State :=
  let s := (moveCap s).modPwr (fun p => { p with ext := min p.ext p.cap })
  let s := s.setReg .PWR_EXT_CAP 0 (wN (cap % 4096 + (if en then 4096 else 0)))
  s.setFld F.PWR_MEAS_CAP_EFF 0 (capEff s)

/-! ## Rails: R324, R328, in steps of 2.5 mV -/

/-- The range of R21: 0.55 V to 0.90 V. -/
def railMin : Nat := 220
def railMax : Nat := 360

/-- The voltage with no limit active: VMAX, in whole steps, or 0.75 V for a base die. -/
def railTop (s : State) (d : Nat) : Nat := if d < 12 then s.fld F.PWR_RAIL_CTL_VMAX * 2 / 5 else 300

/-- Steps by which limits, or THERM of that die, hold a rail down. -/
def railHeld (s : State) (d : Nat) : Nat := max s.pwr.drop (smGet 0 s.pwr.cool d)

/-- The voltage that the limits allow when they hold the rails `k` steps down. -/
def allowedAt (s : State) (d k : Nat) : Nat := max railMin (railTop s d - max k (smGet 0 s.pwr.cool d))

/-- The voltage that the limits allow. -/
def railAllowed (s : State) (d : Nat) : Nat := allowedAt s d s.pwr.drop

def isoOn (s : State) : Bool := s.flag F.PWR_ISO_CTL_ACTIVE

/-- R343: the lowest rail at which the replica rate is at least 1.48 G steps/s, within what the limits leave. -/
def isoRail (s : State) (d : Nat) : Nat :=
  let top := if railHeld s d = 0 then railMax else railAllowed s d
  (((List.range (top - railMin + 1)).map (railMin + ·)).find? (fun u => 1480 ≤ Config.rateAt s.now d u)).getD top

/-- R328: what the limits allow plus trim and offset, before the clamp. -/
def railWish (s : State) (d : Nat) : Nat := railAllowed s d + smGet 0 s.pwr.trim d + smGet 0 s.pwr.eq d

/-- The setpoint of a rail. -/
def railSet (s : State) (d : Nat) : Nat := if isoOn s && d < 12 then isoRail s d else min railMax (railWish s d)

/-- A die's rail is at the 0.90 V clamp. -/
def railClamped (s : State) (d : Nat) : Bool := if isoOn s && d < 12 then isoRail s d == railMax else railMax ≤ railWish s d

/-- Every core rail is at 0.55 V, but for trim and offset. -/
def railsLow (s : State) : Bool := (List.range 16).all (fun d => railAllowed s d == railMin)

/-- Show trims and offsets. -/
def showDie (d : Nat) (s : State) : State :=
  (s.setFld F.PWR_DIE_EQ d (smGet 0 s.pwr.eq d * 5 / 2)).setFld F.PWR_DIE_TRIM d (smGet 0 s.pwr.trim d * 5 / 2)

/-- Set and show the rails. -/
def showRails (s : State) : State := (List.range 16).foldl (fun s d => s.setFld F.PWR_DIE_VSET d (railSet s d * 5 / 2)) s

/-! ## Limits and reasons: R329, R330, Table 16.1 -/

def measOnly (s : State) : Bool := s.flag F.PWR_THR_STAT_MEASONLY

/-- Limits below which no other condition stands: CAP, RAMP, CURRENT, EXT. In measurement-only control each power limit
is lower by the guard band of R337, of which `guard` is in force. -/
def plainLimits (s : State) : List (Nat × Nat) :=
  let cap := capReached s / 1000
  let guard := s.pwr.guard
  let ramp := if ready s then [(1, s.pwr.force - guard)] else []
  let cur := match s.pwr.current with | some l => [(3, l - guard)] | none => []
  let ext := if s.flag F.PWR_EXT_CAP_EN && s.fld F.PWR_EXT_CAP_CAP < cap then [(5, extReached s / 1000 - guard)] else []
  (0, cap - guard) :: ramp ++ cur ++ ext

def lowest (l : List (Nat × Nat)) : Nat := l.foldl (fun m e => min m e.2) 1000000

/-- Every limit that stands: VOLT cuts the target by 10 % of CAP_EFF, the guard of R337 is a limit of ESTIMATE, and the
limits of THERM, ISO and a regulator at its own limit, which the spec gives no number, are free below the demand. -/
def allLimits (s : State) : List (Nat × Nat) × State :=
  let l := plainLimits s
  let below (s : State) : Nat × State := let (i, s) := s.fresh; (Config.freeNat i % (s.pwr.demand + 1) - 1, s)
  let (c, s) := if s.pwr.regLimit && s.pwr.current.isNone then let (x, s) := below s; ([(3, x)], s) else ([], s)
  let l := l ++ c
  let l := if s.pwr.low || s.pwr.droop || s.pwr.under then l ++ [(4, lowest l - capEff s / 10)] else l
  let l := if measOnly s then l ++ [(6, lowest l)] else l
  let (t, s) := if s.pwr.hot != 0 || s.pwr.hotStacks != 0 || s.pwr.airHot then let (x, s) := below s; ([(2, x)], s) else ([], s)
  let (i, s) := if isoOn s && !s.pwr.isoHeld.isEmpty then let (x, s) := below s; ([(7, x)], s) else ([], s)
  (l ++ t ++ i, s)

/-- The reason with the lowest limit; of equal limits the lower value. -/
def binding (l : List (Nat × Nat)) : Nat :=
  match l with
  | [] => 15
  | _ => let m := lowest l; (l.filter (fun e => e.2 == m)).foldl (fun b e => min b e.1) 15

/-- The reasons that are active: those whose limit is below the demand, THERM and ISO while they hold, and VOLT for a rail
below 0.50 V, which R22 reports at any demand. -/
def activeLimits (l : List (Nat × Nat)) (s : State) : List (Nat × Nat) :=
  l.filter (fun e => e.2 < s.pwr.demand || e.1 = 2 || e.1 = 7 || (e.1 = 4 && s.pwr.under))

/-- The limits that lower every rail and pace: THERM lowers the rail of its die alone, and ISO paces by itself. -/
def wideLimits (l : List (Nat × Nat)) : List (Nat × Nat) := l.filter (fun e => e.1 != 2 && e.1 != 7)

/-- CURRENT and VOLT cut the power in force at once, so what they take comes back under R331. -/
def cutForce (on : List (Nat × Nat)) (s : State) : State :=
  match on.filter (fun e => e.1 = 3 || e.1 = 4) with
  | [] => s
  | l => mayFall (s.modPwr (fun p => { p with force := min p.force (lowest l) }))

/-- Evaluate the reasons against the demand, show them, and form a THROTTLE record when they change (Table 19.6). With no
limit active no rail is held down. The limits that lower every rail. -/
def evalLimits (s : State) : List (Nat × Nat) × State :=
  let (l, s) := allLimits s
  let on := activeLimits l s
  let act := (List.range 8).foldl (fun a k => if on.any (fun e => e.1 == k) then a + 2 ^ k else a) 0
  let b := binding on
  let old := (s.fld F.PWR_THR_STAT_ACTIVE, s.fld F.PWR_THR_STAT_BIND)
  let s := (s.setFld F.PWR_THR_STAT_ACTIVE 0 act).setFld F.PWR_THR_STAT_BIND 0 b
  let s := if old = (act, b) then s else trace 0x40 none 0 (act + 256 * b) 0 0 s
  let s := cutForce on s
  (wideLimits on, if (wideLimits on).isEmpty then s.modPwr (fun p => { p with drop := 0 }) else s)

def throttle (s : State) : State := showRails (evalLimits s).2

/-- The power that control compares with the target: the sum of the estimates as the last measurement corrects it, or in
measurement-only control the measurement (R325, R337). -/
def powerNow (s : State) : Nat :=
  if measOnly s then s.fld F.PWR_MEAS_P_MEAS else (Int.ofNat (s.fld F.PWR_MEAS_P_EST) + s.pwr.corr).toNat

/-- The activity that the Calender sees in a die: its estimate, or in measurement-only control, which uses no estimate (R337),
what the module draws. -/
def dieLoad (s : State) (d : Nat) : Nat := if measOnly s then s.fld F.PWR_MEAS_P_MEAS else smGet 0 s.pwr.est d

/-- The power that all rails save by going down one step more than `k`. -/
def stepAll (s : State) (k : Nat) : Nat :=
  (List.range 16).foldl (fun w d =>
    if allowedAt s d (k + 1) = allowedAt s d k then w else w + Config.stepWatts d (allowedAt s d k) (dieLoad s d)) 0

/-- R331: the power below which this ms does not fall. -/
def rampFloor (s : State) : Nat :=
  if ready s && s.pwr.msFree = 0 then
    match s.pwr.msPrev with
    | some q => q / 100 - s.fld F.PWR_RAMP_DN_RATE
    | none => 0
  else 0

/-- Lower the rails by steps, at most as many as the fuel, until power x meets the target, and not past the ramp's floor. -/
def lowerRails (s : State) (tgt : Nat) : Nat → Nat → Nat → Nat
  | 0, k, _ => k
  | n + 1, k, x =>
    if x ≤ tgt || x < rampFloor s + stepAll s k then k else lowerRails s tgt n (k + 1) (x - stepAll s k)

/-- Let the rails up by steps, at most as many as the fuel, while power x stays within the target. -/
def raiseRails (s : State) (tgt : Nat) : Nat → Nat → Nat → Nat
  | 0, k, _ => k
  | _ + 1, 0, _ => 0
  | n + 1, k + 1, x => if tgt < x + stepAll s k then k + 1 else raiseRails s tgt n k (x + stepAll s k)

/-- R329: lower every rail until the power meets the target, and let them up again while it does. How many steps one pass of
the loop takes at most is free. -/
def control (s : State) : State :=
  let (on, s) := evalLimits s
  if on.isEmpty then showRails s
  else
    let (i, s) := s.fresh
    let k := Config.freeNat i
    let d := s.pwr.drop
    let full := railMax - railMin
    let d := if lowest on < powerNow s then min full (lowerRails s (lowest on) (1 + k % full) d (powerNow s))
      else raiseRails s (lowest on) (k % (d + 1)) d (powerNow s)
    showRails (s.modPwr (fun p => { p with drop := d }))

/-! ## Iso-rate pacing: R343 -/

/-- `n` steps of a core's array, or of its vector engine, are issued. In iso-rate mode each of the two issues at most 1.45 G
steps in a second: one that would come too early is held back until it is due, and while an array is, ISO is active. -/
def isoSteps (vec : Bool) (c n : Nat) (s : State) : State :=
  if !(isoOn s) then s
  else
    let key := if vec then 192 + c else c
    let due := smGet 0 s.pwr.isoNext key
    let at_ := max due (s.now * 145)
    let s := if due ≤ s.now * 145 then s
      else if vec then passTo (ceilDiv due 145) s
      else
        let s := throttle (s.modPwr (fun p => { p with isoHeld := c :: p.isoHeld }))
        let s := passTo (ceilDiv due 145) s
        throttle (s.modPwr (fun p => { p with isoHeld := p.isoHeld.filter (· != c) }))
    s.modPwr (fun p => { p with isoNext := smSet 0 key (at_ + 100 * n) p.isoNext })

/-- A step of core c's array (R343). -/
def isoToken (c : Nat) (s : State) : State := isoSteps false c 1 s

end Sys2Proof.Machine
end

