-- ==== Sys2Proof/Machine/Rate.lean ====
section
/-! DEFINITION. The rate monitors (R23, Tables 2.3 and 2.4). Windows are accounted for when the monitor is next used: a step
is counted, a register read or written, a window's end commanded. -/

namespace Sys2Proof.Machine

/-- Length of a window in ns. -/
def winLen (win : Nat) : Nat := 1000 * 2 ^ win

/-- Account for the boundaries of the window in force up to timebase t. Only the last window that ended keeps its counts:
`n` replica steps, where they are given. With EN = 0 the register holds, and the counts of the window begun are dropped. -/
def latchWindows (c t : Nat) (n : Option Nat) (s : State) : State :=
  let k := s.core c
  let w := winLen k.win
  let m := t / w - k.winAt / w
  let s' := s.modCore c (fun k => { k with winAt := t, arraySteps := if m = 0 then k.arraySteps else 0 })
  if m = 0 || !(s.flag F.CORE_RATE_CTL_EN c) then s'
  else
    let steps := if m = 1 then k.arraySteps else 0
    let rep := n.getD (Config.replicaSteps c (s.tbase + t / w * w))
    let seq := s.fld F.CORE_RATE_CNT_WINDOW_SEQ c + m
    s'.setReg .CORE_RATE_CNT c (wN (rep % 2 ^ 24 + steps % 2 ^ 24 * 2 ^ 24 + seq % 2 ^ 16 * 2 ^ 48))

/-- The boundary, after the last one accounted for, at which a window ends or a new length takes effect. -/
def nextWindow (s : State) (c : Nat) : Nat :=
  let k := s.core c
  let w := winLen k.win
  let v := winLen (s.fld F.CORE_RATE_CTL_WIN c)
  min ((k.winAt / w + 1) * w) ((k.winAt / v + 1) * v)

/-- Account for the windows of core c up to now. A new length takes effect at the next boundary of its own, and clears
WINDOW_SEQ. -/
def windowsNow (c : Nat) (n : Option Nat) (s : State) : State :=
  let t := s.timebase
  let win := s.fld F.CORE_RATE_CTL_WIN c
  if win = (s.core c).win then latchWindows c t n s
  else
    let w := winLen win
    let sw := ((s.core c).winAt / w + 1) * w
    if t < sw then latchWindows c t n s
    else
      let s := latchWindows c sw (if t / w = sw / w then n else none) s
      let s := (s.setFld F.CORE_RATE_CNT_WINDOW_SEQ c 0).modCore c (fun k => { k with arraySteps := 0, win := win })
      latchWindows c t n s

/-- An array step of core c, made or of ballast. -/
def countStep (c : Nat) (s : State) : State :=
  let s := windowsNow c none s
  if s.flag F.CORE_RATE_CTL_EN c then s.modCore c (fun k => { k with arraySteps := k.arraySteps + 1 }) else s

end Sys2Proof.Machine
end

