-- ==== Sys2Proof/Machine/Matrix.lean ====
section
/-! DEFINITION. The matrix array (chapters 04 and 05): the operation block and its checks (R67), terms (R62, R66, R76,
R77), groups and their partials (R82 to R86, R92 to R94), promotion (R87 to R91), and the steps of the array. -/

namespace Sys2Proof.Machine

/-! ## The operation block: Table 4.4 -/

structure MBlk where
  op : Nat
  acc : Nat
  order : Nat
  grp : Nat
  fa : Fd
  fb : Fd
  m : Nat
  n : Nat
  k : Nat
  ald : Nat
  bld : Nat
  aaddr : Nat
  baddr : Nat
  asaddr : Nat
  bsaddr : Nat
  rowEn : Nat
  colEn : Nat
  rsv : Nat
deriving DecidableEq, Repr

def MBlk.of (b : List Byte) : MBlk :=
  let v := fieldLe b 0 64
  { op := bitsN v 0 8, acc := bitsN v 8 2, order := bitsN v 10 1, grp := bitsN v 11 2, fa := Fd.of (bitsN v 16 16),
    fb := Fd.of (bitsN v 32 16), m := bitsN v 48 8, n := bitsN v 56 8, k := bitsN v 64 32, ald := bitsN v 96 16,
    bld := bitsN v 112 16, aaddr := bitsN v 128 24, baddr := bitsN v 152 24, asaddr := bitsN v 192 24,
    bsaddr := bitsN v 216 24, rowEn := bitsN v 256 128, colEn := bitsN v 384 128,
    rsv := bitsN v 13 3 + bitsN v 176 16 + bitsN v 240 16 }

def opMMA : Nat := 1
def opSUBSQ : Nat := 2
def opABSDIFF : Nat := 3
def opADDMAX : Nat := 4
def opADDMIN : Nat := 5
def opANDPOPC : Nat := 6
def opXORPOPC : Nat := 7

def MBlk.popc (b : MBlk) : Bool := b.op == opANDPOPC || b.op == opXORPOPC
def MBlk.tropical (b : MBlk) : Bool := b.op == opADDMAX || b.op == opADDMIN
def MBlk.split (b : MBlk) : Bool := b.fa.fmt == 0xC || b.fa.fmt == 0xD

/-- Table 4.1. -/
def fmtP (fmt : Nat) : Nat := match fmt with | 1 => 1 | 2 => 1 | 7 => 4 | 9 => 4 | 0xC => 1 | 0xD => 1 | _ => 2

/-- R63: terms per step of the pair. -/
def MBlk.p (b : MBlk) : Nat := if b.popc then 16 else min (fmtP b.fa.fmt) (fmtP b.fb.fmt)

/-- Positions per k: passes of the split formats (Table 4.3). -/
def MBlk.passes (b : MBlk) : Nat := if b.fa.fmt = 0xC then 4 else if b.fa.fmt = 0xD then 6 else 1

/-- R65: integer accumulation. -/
def MBlk.intMode (b : MBlk) : Bool :=
  b.popc || (8 ≤ b.fa.fmt && b.fa.fmt ≤ 0xA && 8 ≤ b.fb.fmt && b.fb.fmt ≤ 0xA && b.fa.share == 0 && b.fb.share == 0)

/-- R93, Table 5.3: group size in force. -/
def MBlk.g (b : MBlk) : Nat :=
  if b.order = 1 then (match b.grp with | 0 => 4 | 1 => 8 | _ => 16)
  else if b.popc then 16 else if b.split then 4 else match b.p with | 1 => 4 | 2 => 8 | _ => 16

/-- R95, Table 5.4: largest group an integer pair permits (0: none). -/
def MBlk.maxG (b : MBlk) : Nat :=
  if !b.intMode || b.popc || b.tropical then 16
  else
    let x := b.fa.fmt
    let y := b.fb.fmt
    if b.op = opMMA then (if x = 0xA ∧ y = 0xA then 8 else 16)
    else if b.op = opSUBSQ then
      if x = y ∧ (x = 0xA ∨ x = 8) then 8
      else if (x = 0xA ∧ y = 9) ∨ (x = 9 ∧ y = 0xA) then 4
      else if (x = 0xA ∧ y = 8) ∨ (x = 8 ∧ y = 0xA) then 0 else 16
    else 16

/-- Enabled rows and columns (R75). -/
def MBlk.rows (b : MBlk) : List Nat := (List.range (min b.m 128)).filter (fun r => bitN b.rowEn r)
def MBlk.cols (b : MBlk) : List Nat := (List.range (min b.n 128)).filter (fun c => bitN b.colEn c)

/-- Whether the operation forms terms: an enabled PE and K above 0 (R71). -/
def MBlk.runs (b : MBlk) : Bool := b.k != 0 && !b.rows.isEmpty && !b.cols.isEmpty

/-- Storage bits of an operand element; popcount operands are 1-bit (R68). -/
def MBlk.bits (b : MBlk) (fmt : Nat) : Nat := if b.popc then 1 else fmtBits fmt

/-- R68: footprint of an operand inside the scratchpad, scale array included. -/
def footOk (b : MBlk) (fd : Fd) (addr ld saddr : Nat) (lines : List Nat) : Bool :=
  lines.all (fun r => addr + 32 * ld * r + ceilDiv (b.k * b.bits fd.fmt) 8 ≤ spSize) &&
  (fd.share == 0 || lines.all (fun r => saddr + fd.scaleIx r (b.k - 1) b.k < spSize))

def matFmtOk (fd : Fd) : Bool := fd.ok && fd.fmt != 0 && fd.fmt != 0xB

/-- R67: whether a block is accepted, apart from the mode bit of R73. -/
def MBlk.ok (b : MBlk) : Bool :=
  let splitA := b.fa.fmt == 0xC || b.fa.fmt == 0xD
  let splitB := b.fb.fmt == 0xC || b.fb.fmt == 0xD
  1 ≤ b.op && b.op ≤ 7 && b.acc ≤ 1 && b.grp ≤ 2 && !(b.order == 0 && b.grp != 0) && b.m ≤ 128 && b.n ≤ 128 &&
  matFmtOk b.fa && matFmtOk b.fb &&
  (if splitA || splitB then b.fa.fmt == b.fb.fmt && b.op == opMMA else true) &&
  (if b.popc then b.fa == ⟨0xA, 0, 0, 0⟩ && b.fb == ⟨0xA, 0, 0, 0⟩ && b.g == 16 else true) &&
  b.g ≤ b.maxG && b.rsv == 0 && b.aaddr % 32 == 0 && b.baddr % 32 == 0 &&
  (if b.fa.fmt == 5 || b.fa.fmt == 6 then b.ald % 3 == 0 else true) &&
  (if b.fb.fmt == 5 || b.fb.fmt == 6 then b.bld % 3 == 0 else true) &&
  (!b.runs || (footOk b b.fa b.aaddr b.ald b.asaddr b.rows && footOk b b.fb b.baddr b.bld b.bsaddr b.cols))

/-! ## Accumulator -/

def accGet (k : CoreSt) (pe : Nat) : Nat := (smGet 0 k.acc pe).toNat
def CoreSt.setAcc (k : CoreSt) (pe v : Nat) : CoreSt := { k with acc := smSet 0 pe (wN v) k.acc }

/-- The tile saturation flag: the OR of the SAT bits (R90). -/
def tileSat (k : CoreSt) : Bool := k.acc.any (fun e => bitN e.2.toNat 40)

/-- START identity (Table 4.9). -/
def identity (b : MBlk) : Nat :=
  if b.op = opADDMAX then (if b.intMode then 2 ^ 39 else fa40Inf true)
  else if b.op = opADDMIN then (if b.intMode then 2 ^ 39 - 1 else fa40Inf false) else 0

/-- An accumulator's contents as an exact value. -/
def accNum (int : Bool) (v : Nat) : Num := if int then numOfInt (toSigned 40 v) else decodeFa40 v

/-! ## Terms: Table 4.9, Table 4.10 -/

/-- An exact difference, +0 when zero (R77). -/
def numSub (a b : Num) : Num := (numAdd false a b.negate).1

/-- A distance term: the difference squared, or its magnitude. -/
def distTerm (sq : Bool) (a b : Num) : Num × Nat :=
  let fl := sigFlags [a, b]
  if a.isNaN || b.isNaN then (.nan false, fl)
  else match a, b with
    | .inf n1, .inf n2 => if n1 = n2 then (.nan false, flNV) else (.inf false, fl)
    | .inf _, _ => (.inf false, fl)
    | _, .inf _ => (.inf false, fl)
    | _, _ => match numSub a b with
      | .fin _ m e => (if sq then .fin false (m * m) (2 * e) else .fin false m e, fl)
      | _ => (.zero false, fl)

/-- A tropical term: the sum, rounded to 30 bits with RNE in floating mode. -/
def tropTerm (int : Bool) (a b : Num) : Num × Nat :=
  let (x, fl) := numAdd false a b
  if int then (x, fl) else (decodeFa40 (fa40OfNum x).1, fl)

/-- One term of an operation, with the flags it raises. -/
def term (b : MBlk) (x y : Num) : Num × Nat :=
  if b.op = opMMA then numMul x y
  else if b.op = opSUBSQ then distTerm true x y
  else if b.op = opABSDIFF then distTerm false x y
  else if b.op = opANDPOPC then (if x.isZero || y.isZero then .zero false else .fin false 1 0, 0)
  else if b.op = opXORPOPC then (if x.isZero = y.isZero then .zero false else .fin false 1 0, 0)
  else tropTerm b.intMode x y

/-! ## Groups: R82 to R86 -/

def ofInt (v : Int) (e : Int) : Num := mkFin (v < 0) v.natAbs e

/-- The integer value of an exact integer term. -/
def numToInt : Num → Int
  | .fin n m e => onGrid n m e 0
  | _ => 0

/-- Largest leading exponent among nonzero terms. -/
def leadExp : List Num → Option Int
  | [] => none
  | .fin _ m e :: l => match leadExp l with
    | none => some (expOf m e)
    | some x => some (max x (expOf m e))
  | _ :: l => leadExp l

/-- R82 step 2: the terms on the grid 2^(EG - 22), truncated, with the sticky bit. -/
def gridSum (eg : Int) : List Num → Int × Bool
  | [] => (0, false)
  | .fin n m e :: l =>
    let (q, st) := gridSum eg l
    let u := eg - 22
    if u ≤ e then (q + onGrid n m e u, st)
    else
      let d := pow2 (u - e)
      let v : Int := ((m / d : Nat) : Int)
      (q + (if n then -v else v), st || m % d != 0)
  | _ :: l => gridSum eg l

/-- R82 to R84: the partial of a floating additive group as an exact value, with the NV it raises. -/
def partialAdd (ts : List Num) : Num × Nat :=
  if ts.any Num.isNaN then (.nan false, 0)
  else
    let pi := ts.any (fun t => t == .inf false)
    let ni := ts.any (fun t => t == .inf true)
    if pi && ni then (.nan false, flNV)
    else if pi then (.inf false, 0)
    else if ni then (.inf true, 0)
    else match leadExp ts with
      | none => (.zero (ts.all Num.isNeg), 0)
      | some eg =>
        let (q, st) := gridSum eg ts
        let w := q.natAbs / 4
        let st := st || q.natAbs % 4 != 0
        let w := if st && w % 2 = 0 then w + 1 else w
        (mkFin (q < 0) w (eg - 20), 0)

/-- R86: the partial of a tropical group. -/
def partialTrop (isMin strict : Bool) : List Num → Num
  | [] => .nan false
  | [t] => t
  | t :: l => (numMaxMin isMin strict t (partialTrop isMin strict l)).1

/-- Promote a group into an accumulator value: R87 to R91. New contents (SAT in bit 40) and flags. -/
def promote (b : MBlk) (strict : Bool) (old : Nat) (ts : List Num) : Nat × Nat :=
  let sat := bitN old 40
  let v := old % 2 ^ 40
  let pack (code : Nat) (clamp : Bool) : Nat := code + (if sat || clamp then 2 ^ 40 else 0)
  if b.tropical then
    let isMin := b.op == opADDMIN
    let x := partialTrop isMin strict ts
    let (y, _) := numMaxMin isMin strict (accNum b.intMode v) x
    -- where the accumulator wins, it stays as it was (R77)
    if !y.isNaN && y == accNum b.intMode v then (old, 0)
    else if b.intMode then (pack (ofSigned 40 (numToInt y)) false, 0)
    else (pack (fa40OfNum y).1 false, 0)
  else if b.intMode then
    let (c, clamp) := fa40IntAdd (toSigned 40 v) (ts.foldl (fun a t => a + numToInt t) 0)
    (pack c clamp, if clamp then flSA else 0)
  else
    let (x, nv) := partialAdd ts
    let (c, clamp, nv2) := fa40Add (decodeFa40 v) x
    (pack c clamp, nv ||| nv2 ||| (if clamp then flSA else 0))

/-! ## Operand reads -/

/-- Element k of line r of an operand, decoded (R41, R42), with its scale. -/
def matElem (s : State) (c : Nat) (b : MBlk) (fd : Fd) (addr ld saddr r k : Nat) : Num :=
  let code := elemAt s (padAddr c (addr + 32 * ld * r)) (b.bits fd.fmt) k
  if b.popc then numOfInt code
  else
    let x := decodeCode fd.fmt false code
    if fd.share = 0 then x
    else
      let sc := (rd8 s (padAddr c (saddr + fd.scaleIx r k b.k))).toNat
      -- a signalling NaN stays signalling until its term consumes it (R42)
      if sc = 0xFF then .nan false else scaleNum ((sc : Int) - 127) x

/-- Whether the words a line's feeder reads for elements [k, k + n) are poisoned. -/
def linePoison (s : State) (c : Nat) (b : MBlk) (fd : Fd) (addr ld saddr r k n : Nat) : Bool :=
  elemsPoisoned s (padAddr c (addr + 32 * ld * r)) (b.bits fd.fmt) k n ||
  (fd.share != 0 && (List.range n).any (fun i => poisonAt s (padAddr c (saddr + fd.scaleIx r (k + i) b.k))))

/-- Table 4.3: the piece pairs of the passes, by piece number. -/
def passPair (passes i : Nat) : Nat × Nat :=
  if passes = 4 then (i / 2, i % 2)
  else match i with
    | 0 => (0, 0) | 1 => (0, 1) | 2 => (1, 0) | 3 => (0, 2) | 4 => (2, 0) | _ => (1, 1)

/-- R66: what the feeders of a split operation hold in a step: each element of k is read at the first pass over k, and held
for the others. -/
def feederHeld (s : State) (c : Nat) (b : MBlk) (o : MatOp) : SMap Num :=
  if !b.split then []
  else if o.step % b.passes = 0 then
    let k := o.step / b.passes
    let m := b.rows.foldl (fun m r => smPut r (matElem s c b b.fa b.aaddr b.ald b.asaddr r k) m) ([] : SMap Num)
    b.cols.foldl (fun m r => smPut (128 + r) (matElem s c b b.fb b.baddr b.bld b.bsaddr r k) m) m
  else o.held

/-- The terms one PE forms in one step: positions of the term sequence from step * P (R64, R66, R92). -/
def stepTerms (s : State) (c : Nat) (b : MBlk) (held : SMap Num) (step r col : Nat) : List Num × Nat :=
  let ea (k : Nat) := matElem s c b b.fa b.aaddr b.ald b.asaddr r k
  let eb (k : Nat) := matElem s c b b.fb b.baddr b.bld b.bsaddr col k
  if b.split then
    let (i, j) := passPair b.passes (step % b.passes)
    let x := smGet (.zero false) held r
    let y := smGet (.zero false) held (128 + col)
    let fl := sigFlags [x, y]
    match (splitPieces x)[i]?.join, (splitPieces y)[j]?.join with
    | some u, some v => let (t, f) := numMul u v; ([t], f ||| fl)
    | _, _ => ([], fl)
  else
    let ks := (List.range b.p).filterMap (fun i => if step * b.p + i < b.k then some (step * b.p + i) else none)
    let ts := ks.map (fun k => term b (ea k) (eb k))
    (ts.map (·.1), orFlags (ts.map (·.2)))

/-! ## The commands -/

/-- The vector blocks that read the accumulator: ACCRD, and a chain with an accumulator input that is used (R72). -/
def readsAcc (b stages : List Byte) : Bool :=
  let v := fieldLe b 0 64
  let words := (List.range (bitsN v 16 3 + 1)).map (fun i => fieldLe stages (8 * i) 8)
  let uses (i : Nat) : Bool := words.any (fun w =>
    (List.range (arity (bitsN w 0 8))).any (fun j => bitsN w (8 + 4 * j) 4 == i))
  bitsN v 0 8 == 0x04 || (bitsN v 0 8 == 0x80 && [0, 1, 2].any (fun i => bitN v (125 + 64 * i) && uses i))

/-- Undefined accumulator contents for the enabled PEs after a failed block (R151): free values. -/
def freeTile (b : MBlk) (c : Nat) (s : State) : State :=
  let n := s.free
  let pes := b.rows.flatMap (fun r => b.cols.map (fun q => 128 * r + q))
  let s := { s with free := s.free + 16386 }
  s.modCore c (fun k =>
    let k := pes.foldl (fun k pe => k.setAcc pe (Config.freeNat (n + pe) % 2 ^ 41)) k
    { k with accInt := Config.freeBool (n + 16384), accTsat := Config.freeBool (n + 16385) })

/-- Start the matrix block at the head of core c's queue if its opcode satisfies `mine`: checks of R67 and R73 at the
head (R150), then START (R71, R73, R90). -/
def startMatrix (mine : Nat → Bool) (c : Nat) (s : State) : State :=
  match headReady s c 0 with
  | none => s
  | some q =>
    let b := MBlk.of q.bytes
    if !(mine b.op) then s
    else
      let k := s.core c
      -- a START is about to start, and is checked, only once the reads before it are complete (R72, R150)
      if b.acc == 1 && !(accReadsDone readsAcc k q.order) then s
      else if !b.ok || (b.acc == 0 && b.intMode != k.accInt) then haltQueue c 0 1 s
      else
        let s := startBlock c 0 q none s
        s.modCore c (fun k =>
          let k := if b.acc = 1 then
              let pes := b.rows.flatMap (fun r => b.cols.map (fun x => 128 * r + x))
              let k := pes.foldl (fun k pe => k.setAcc pe (identity b)) k
              { k with accInt := b.intMode, accTsat := tileSat k }
            else k
          { k with mop := some ⟨q.ticket, q.bytes, 0, if b.runs then ceilDiv b.k b.p * b.passes else 0, 0, strictEff s, [], []⟩ })

/-- R151: a failed matrix block halts its queue with POISON, leaves its tile undefined, and is a contained error. -/
def failMatrix (c : Nat) (o : MatOp) (a : Nat) (s : State) : State :=
  let s := freeTile (MBlk.of o.bytes) c s
  let s := s.modCore c (fun k => { k with mop := none })
  contained (coreCtx s c) 0 c 1 a 4 (failBlock c 0 o.ticket cPOISON s)

/-- One step of every enabled PE (R64), and the promotion at a group end (R92, R94). -/
def stepPEs (s : State) (c : Nat) (b : MBlk) (o : MatOp) (k : CoreSt) : CoreSt :=
  let tps := if b.split then 1 else b.p
  let ends := (o.step + 1) * tps % b.g = 0 || o.step + 1 = o.steps
  let pes := b.rows.flatMap (fun r => b.cols.map (fun q => (r, q)))
  let held := feederHeld s c b o
  let r := pes.foldl (fun (acc : CoreSt × SMap (List Num) × Nat × Bool) pe =>
      let (k, pp, fl, clamp) := acc
      let id := 128 * pe.1 + pe.2
      let (ts, f) := stepTerms s c b held o.step pe.1 pe.2
      let all := smGet [] o.pp id ++ ts
      if ends then
        if all.isEmpty then (k, pp, fl ||| f, clamp)
        else
          let (v, pf) := promote b o.strict (accGet k id) all
          (k.setAcc id v, pp, fl ||| f ||| pf, clamp || pf &&& flSA != 0)
      else (k, smSet [] id all pp, fl ||| f, clamp))
    (k, ([] : SMap (List Num)), o.flags, false)
  { r.1 with accTsat := r.1.accTsat || r.2.2.2,
             mop := some { o with step := o.step + 1, flags := r.2.2.1, pp := r.2.1, held := held } }

/-- Whether the feeders of a step read a poisoned word. A pass over a k whose elements are held reads none (R66). -/
def stepPoison (s : State) (c : Nat) (b : MBlk) (step : Nat) : Bool :=
  if b.split && step % b.passes != 0 then false
  else
  let (k, n) := if b.split then (step / b.passes, 1) else (step * b.p, min b.p (b.k - step * b.p))
  b.rows.any (fun r => linePoison s c b b.fa b.aaddr b.ald b.asaddr r k n) ||
  b.cols.any (fun r => linePoison s c b b.fb b.baddr b.bld b.bsaddr r k n)

/-- Whether the array may step: Frost stops it after its next promotion, so a group in progress goes on (R373), and pacing
holds its tokens back (R329). -/
def arrayMayStep (s : State) (c : Nat) (o : MatOp) : Bool :=
  !((s.core c).inReset) && (!(slotHeld s (c / 16)) || !o.pp.isEmpty) && !(s.pwr.paced.contains c)

def opMatrixStep (c : Nat) (s : State) : State :=
  match (s.core c).mop with
  | none => s
  | some o =>
    let b := MBlk.of o.bytes
    if o.steps ≤ o.step || !(arrayMayStep s c o) then s
    else if stepPoison s c b o.step then failMatrix c o (padAddr c b.aaddr) s
    else count c 9 1 (countStep c (isoToken c (s.modCore c (fun k => stepPEs s c b o k))))

/-- Table 4.7: the tile is complete once every step has been made. -/
def opTileComplete (c : Nat) (s : State) : State :=
  match (s.core c).mop with
  | none => s
  | some o =>
    if o.step < o.steps || (s.core c).inReset then s
    else completeBlock c 0 o.ticket o.flags (s.modCore c (fun k => { k with mop := none }))

/-- Whether the block at the head of the matrix queue could issue its first token: its gates are open, and a START waits
for no earlier read of the accumulator (R72). -/
def headIssues (s : State) (c : Nat) : Bool :=
  let k := s.core c
  engineRuns s c && k.mq.halt == 0 &&
    (match k.mq.pend with
      | b :: _ => gatesOpen k b && ((MBlk.of b.bytes).acc != 1 || accReadsDone readsAcc k b.order)
      | [] => false)

/-- R80: whether the matrix queue holds an operation that may issue. An operation stopped in Frost issues nothing and
blocks those behind it; one that has issued its last token leaves room for the next (Table 4.7). -/
def mayIssue (s : State) (c : Nat) : Bool :=
  match (s.core c).mop with
  | some o => if o.step < o.steps then arrayMayStep s c o else headIssues s c
  | none => headIssues s c

def reservedOrMma (op : Nat) : Bool := op == opMMA || op == 0 || 7 < op

/-- MMA. A block whose OP is reserved is rejected here, as the first matrix row. -/
def execMma (c : CoreId) (s : State) : Answer := run s (startMatrix reservedOrMma c s)
def execSubsqAdd (c : CoreId) (s : State) : Answer := run s (startMatrix (· == opSUBSQ) c s)
def execAbsdiffAdd (c : CoreId) (s : State) : Answer := run s (startMatrix (· == opABSDIFF) c s)
def execAddMax (c : CoreId) (s : State) : Answer := run s (startMatrix (· == opADDMAX) c s)
def execAddMin (c : CoreId) (s : State) : Answer := run s (startMatrix (· == opADDMIN) c s)
def execAndPopc (c : CoreId) (s : State) : Answer := run s (startMatrix (· == opANDPOPC) c s)
def execXorPopc (c : CoreId) (s : State) : Answer := run s (startMatrix (· == opXORPOPC) c s)
def execMatrixStep (c : CoreId) (s : State) : Answer := run s (opMatrixStep c s)
def execTileComplete (c : CoreId) (s : State) : Answer := run s (opTileComplete c s)

end Sys2Proof.Machine
end

