-- ==== Sys2Proof/Machine/Vector.lean ====
section
/-! DEFINITION. The vector engine (chapter 06): registers and predicates (R110), access patterns (R114, R115), the
register-mode block and its checks (R111), each instruction (R118 to R124), accumulator reads (R134, R135), chains
(R126 to R131), and completion (R125). -/

namespace Sys2Proof.Machine

/-! ## Registers -/

/-- What an unlisted register byte reads as: zero, or a free value after a core reset (R110). -/
def vDflt (seed a : Nat) : Byte := if seed = 0 then 0 else Config.freeByte seed a
def vByte (k : CoreSt) (a : Nat) : Byte := smGet (vDflt k.vseed a) k.vreg a
def CoreSt.setVByte (k : CoreSt) (a : Nat) (b : Byte) : CoreSt := { k with vreg := smSet (vDflt k.vseed a) a b k.vreg }

/-- Element j of register v in a type. -/
def vGet (k : CoreSt) (v t j : Nat) : Nat :=
  leNat ((List.range (etBytes t)).map (fun i => vByte k (2048 * v + etBytes t * j + i)))
def vSet (k : CoreSt) (v t j code : Nat) : CoreSt :=
  (List.range (etBytes t)).foldl
    (fun k i => k.setVByte (2048 * v + etBytes t * j + i) (BitVec.ofNat 8 (code / 256 ^ i))) k

/-- 64-bit piece w of predicate p (0 to 15 each). -/
def pDflt (seed key : Nat) : Word :=
  if seed = 0 then 0 else wN (leNat ((List.range 8).map (fun i => Config.freeByte seed (2 ^ 40 + 8 * key + i))))
def pWord (k : CoreSt) (p w : Nat) : Nat := (smGet (pDflt k.vseed (16 * p + w)) k.preg (16 * p + w)).toNat
/-- Bit j of P[p]; P0 reads as all ones (R110). -/
def pBit (k : CoreSt) (p j : Nat) : Bool := p = 0 || bitN (pWord k p (j / 64)) (j % 64)
def pSet (k : CoreSt) (p j : Nat) (b : Bool) : CoreSt :=
  if p = 0 then k
  else
    let key := 16 * p + j / 64
    let w := pWord k p (j / 64)
    { k with preg := smSet (pDflt k.vseed key) key (wN (setBitsN w (j % 64) 1 (if b then 1 else 0))) k.preg }

/-! ## Access patterns: Table 6.3 -/

structure Pat where
  addr : Nat
  fd : Fd
  pitch : Nat
  seg : Nat
  bcast : Bool
  acc : Bool
  rsv : Nat
  raw : Nat
deriving DecidableEq, Repr

def Pat.of (v : Nat) : Pat :=
  ⟨bitsN v 0 24, Fd.of (bitsN v 24 16), bitsN v 40 16, bitsN v 56 4, bitN v 60, bitN v 61, bitsN v 62 2, v⟩

/-- Segment and place within it of element j (R114). -/
def Pat.sq (p : Pat) (j : Nat) : Nat × Nat := if p.seg = 0xF then (0, j) else (j / 2 ^ p.seg, j % 2 ^ p.seg)
/-- Scratchpad offset of segment s. -/
def Pat.segAt (p : Pat) (s : Nat) : Nat := p.addr + 32 * p.pitch * s
def Pat.segs (p : Pat) (vl : Nat) : Nat := if vl = 0 then 0 else if p.seg = 0xF then 1 else ceilDiv vl (2 ^ p.seg)
/-- Elements of segment s below vl; a broadcast segment touches its element 0 only. -/
def Pat.segLen (p : Pat) (vl s : Nat) : Nat :=
  let n := if p.seg = 0xF then vl else min (2 ^ p.seg) (vl - s * 2 ^ p.seg)
  if p.bcast then min n 1 else n
/-- Scale-array index of element j (R116). -/
def Pat.scaleIx (p : Pat) (j : Nat) : Nat :=
  let (s, q) := p.sq j
  let b := if p.bcast then 0 else q / p.fd.blk
  if p.seg = 0xF then b else s * 2 ^ p.seg / p.fd.blk + b

/-- The segment that reaches furthest: the last one, or the full one before it. -/
def Pat.reach (p : Pat) (vl : Nat) : Nat :=
  let n := p.segs vl
  let ends (s : Nat) := p.segAt s + ceilDiv (p.segLen vl s * fmtBits p.fd.fmt) 8
  if n = 0 then 0 else max (ends (n - 1)) (ends (n - 2))

/-- R115 and the pattern part of R111 and R127; `chainIn` allows nothing more here (accumulator inputs are apart). -/
def Pat.ok (p : Pat) (saddr vl : Nat) (out : Bool) : Bool :=
  let al := storeAlign p.fd.fmt
  p.fd.ok && p.rsv == 0 && !p.acc && p.fd.share != 3 && !(out && p.bcast) && (p.seg ≤ 0xA || p.seg == 0xF) &&
  p.reach vl ≤ spSize && p.addr % al == 0 && 32 * p.pitch % al == 0 &&
  (p.seg == 0xF || (if fmtBits p.fd.fmt = 4 then 1 ≤ p.seg else if fmtBits p.fd.fmt = 6 then 2 ≤ p.seg else true)) &&
  (p.fd.share == 0 ||
    ((p.seg == 0xF || p.fd.blk ≤ 2 ^ p.seg) && (vl == 0 || saddr + p.scaleIx (vl - 1) < spSize)))

/-- Table 6.1: memory formats of a type. -/
def memFmtOk (t : Nat) (fd : Fd) : Bool :=
  if t ≤ 2 then fd.fmt ≤ 0xA
  else if t = 3 || t = 4 then fd.fmt == 0 || (8 ≤ fd.fmt && fd.fmt ≤ 0xA)
  else if t = 5 then fd.fmt == 1 || fd.fmt == 2 || (8 ≤ fd.fmt && fd.fmt ≤ 0xA)
  else if t = 6 then fd.fmt == 0xB || fd.fmt ≤ 7
  else fd.fmt == 0xB || (8 ≤ fd.fmt && fd.fmt ≤ 0xA)

/-- R116: formats whose bits are copied unchanged. -/
def rawCopy (t : Nat) (fd : Fd) : Bool :=
  fd.share == 0 && ((t == 0 && fd.fmt == 0) || (t == 1 && fd.fmt == 1) || (t == 2 && fd.fmt == 2) ||
    ((t == 3 || t == 4) && fd.fmt == 0) || (t == 5 && (fd.fmt == 1 || fd.fmt == 2)) || (6 ≤ t && fd.fmt == 0xB))

/-- Code of element j in memory. -/
def patCode (s : State) (c : Nat) (p : Pat) (j : Nat) : Nat :=
  let (sg, q) := p.sq j
  elemAt s (padAddr c (p.segAt sg)) (fmtBits p.fd.fmt) (if p.bcast then 0 else q)

/-- Whether the words element j is read from are poisoned, its scale byte included. -/
def patPoison (s : State) (c : Nat) (p : Pat) (saddr j : Nat) : Bool :=
  let (sg, q) := p.sq j
  elemsPoisoned s (padAddr c (p.segAt sg)) (fmtBits p.fd.fmt) (if p.bcast then 0 else q) 1 ||
  (p.fd.share != 0 && poisonAt s (padAddr c (saddr + p.scaleIx j)))

/-- R116: load element j into a type under a control. -/
def loadElem (s : State) (c : Nat) (p : Pat) (saddr t : Nat) (ctl : Ctl) (U j : Nat) : Res :=
  let code := patCode s c p j
  if rawCopy t p.fd then ⟨if 6 ≤ t then code % 2 ^ 41 else code, 0⟩
  else
    let x := decodeCode p.fd.fmt false code
    let sc := (rd8 s (padAddr c (saddr + p.scaleIx j))).toNat
    toEt t ctl U (if p.fd.share = 0 then x else scaledElem sc x)

/-! ## Stores -/

/-- Put the code of packed element q of a row into a byte map over scratchpad offsets. -/
def putElem (s : State) (c row bits q code : Nat) (m : SMap Nat) : SMap Nat :=
  let p := q * bits
  let n := ceilDiv (p % 8 + bits) 8
  let at_ (i : Nat) : Nat := row + p / 8 + i
  let old := (List.range n).foldl
    (fun v i => v + ((smGet (256 + (rd8 s (padAddr c (at_ i))).toNat) m (at_ i)) % 256) * 256 ^ i) 0
  let new := setBitsN old (p % 8) bits code
  (List.range n).foldl (fun m i => smPut (at_ i) (new / 256 ^ i % 256) m) m

/-- Store a byte map over scratchpad offsets as runs of consecutive bytes. -/
def storeRuns (ctx c : Nat) : List (Nat × Nat) → Nat → List Byte → State → State
  | [], a, run, s => store ctx (padAddr c a) run.reverse false s
  | (k, v) :: l, a, run, s =>
    if k = a + run.length then storeRuns ctx c l a (BitVec.ofNat 8 v :: run) s
    else storeRuns ctx c l k [BitVec.ofNat 8 v] (store ctx (padAddr c a) run.reverse false s)

/-- R116, R113, R117: store element codes of a type, `vals` by element number with whether it is enabled. -/
def storeElems (s : State) (c : Nat) (p : Pat) (saddr t : Nat) (ctl : Ctl) (maskz : Bool) (rnd : Nat → Nat)
    (vl : Nat) (val : Nat → Nat) (en : Nat → Bool) : SMap Nat × Nat :=
  let bits := fmtBits p.fd.fmt
  let row (j : Nat) : Nat := p.segAt (p.sq j).1
  let js := List.range vl
  -- block scales, from enabled elements only
  let blocks := if p.fd.share = 0 then [] else (js.map p.scaleIx).eraseDups
  let scaleOf (b : Nat) : Option Nat × Nat :=
    let xs := (js.filter (fun j => p.scaleIx j == b && en j)).map (fun j => etNum t (val j))
    if xs.isEmpty then (if maskz then some 0 else none, 0)
    else (some (blockScale p.fd.fmt ctl.fit xs), if xs.any Num.isNaN then flNV else 0)
  let scales := blocks.map (fun b => (b, scaleOf b))
  let m0 : SMap Nat := scales.foldl (fun m x => match x.2.1 with | some v => smPut (saddr + x.1) v m | none => m) []
  let fl0 := orFlags (scales.map (fun x => x.2.2))
  js.foldl (fun (acc : SMap Nat × Nat) j =>
    let (m, fl) := acc
    if en j then
      let r : Res :=
        if rawCopy t p.fd then ⟨if 6 ≤ t then val j % 2 ^ 41 else val j, 0⟩
        else if p.fd.share = 0 then toCode p.fd.fmt false ctl (rnd j) (etNum t (val j))
        else match (scales.find? (fun x => x.1 == p.scaleIx j)).bind (fun x => x.2.1) with
          | some sc =>
            if sc = 0xFF then ⟨0, 0⟩
            else toCode p.fd.fmt false ctl (rnd j) (scaleNum (127 - (sc : Int)) (etNum t (val j)))
          | none => ⟨0, 0⟩
      (putElem s c (row j) bits (p.sq j).2 r.code m, fl ||| r.flags)
    else if maskz then (putElem s c (row j) bits (p.sq j).2 0 m, fl)
    else (m, fl)) (m0, fl0)

/-! ## The register-mode block: Table 6.2 -/

structure VBlk where
  opc : Nat
  mode : Nat
  et : Nat
  maskz : Bool
  pred : Nat
  vd : Nat
  vs1 : Nat
  vs2 : Nat
  vs3 : Nat
  pd : Nat
  st : Nat
  vl : Nat
  ctlb : Nat
  mem : Pat
  tid : Nat
  saddr : Nat
  arow : Nat
  ixb : Nat
  ixp : Nat
  rsv : Nat
deriving DecidableEq, Repr

def VBlk.of (b : List Byte) : VBlk :=
  let v := fieldLe b 0 64
  { opc := bitsN v 0 8, mode := bitsN v 8 1, et := bitsN v 9 3, maskz := bitN v 12, pred := bitsN v 13 3,
    vd := bitsN v 16 5, vs1 := bitsN v 21 5, vs2 := bitsN v 26 5, vs3 := bitsN v 31 5, pd := bitsN v 36 3,
    st := bitsN v 39 3, vl := bitsN v 43 11, ctlb := bitsN v 56 8, mem := Pat.of (bitsN v 64 64),
    tid := bitsN v 128 32, saddr := bitsN v 160 24, arow := bitsN v 184 7, ixb := bitsN v 192 48,
    ixp := bitsN v 240 32, rsv := bitsN v 42 1 + bitsN v 54 2 + bitsN v 191 1 + bitsN v 272 240 }

def VBlk.ctl (b : VBlk) : Ctl := Ctl.ofByte b.ctlb

def vOpKnown (op : Nat) : Bool :=
  (1 ≤ op && op ≤ 6) || (0x10 ≤ op && op ≤ 0x18) || (0x1C ≤ op && op ≤ 0x1F) || isCmp op ||
  (0x30 ≤ op && op ≤ 0x3C) || op == 0x40 || (0x48 ≤ op && op ≤ 0x4A) || op == 0x50 || (0x60 ≤ op && op ≤ 0x66)

/-- R135: an accumulator read of vl elements from row r0 in type t. -/
def accReadOk (k : CoreSt) (r0 vl t : Nat) : Bool :=
  r0 + ceilDiv vl 128 ≤ 128 && (if k.accInt then t == 7 || isIntT t || t == 0 else t == 6 || t ≤ 2)

/-- R111. -/
def VBlk.ok (k : CoreSt) (b : VBlk) : Bool :=
  let ldst := b.opc == 1 || b.opc == 2
  vOpKnown b.opc && b.mode == 0 && opTypeOk b.opc b.et && b.vl ≤ etCap b.et &&
  (if b.opc = 5 then b.vl ≤ etCap b.st && cvtOk b.st b.et else b.st == 0) &&
  ctlOk b.ctlb && (b.ctlb % 8 != 5 || b.opc == 2 || b.opc == 5) &&
  (b.mem.seg ≤ 0xA || b.mem.seg == 0xF) &&
  (if ldst then memFmtOk b.et b.mem.fd && b.mem.ok b.saddr b.vl (b.opc == 2)
   else b.mem.raw - b.mem.seg * 2 ^ 56 == 0) &&
  !(isCmp b.opc && b.pd == 0) && (b.opc != 4 || accReadOk k b.arow b.vl b.et) && b.rsv == 0

/-- R117: the random word of element j. -/
def rndWord (s : State) (c tid ixb ixp : Nat) (p : Pat) (j : Nat) : Nat :=
  let (sg, q) := p.sq j
  philoxWord (s.reg .CORE_SR_SEED c).toNat tid (ixb + sg * ixp + q)

def VBlk.enabled (k : CoreSt) (b : VBlk) (j : Nat) : Bool := pBit k b.pred j

/-- R134, R135: accumulator element j read in type t. -/
def accElem (k : CoreSt) (r0 t : Nat) (ctl : Ctl) (j : Nat) : Res :=
  let v := accGet k (128 * (r0 + j / 128) + j % 128)
  let sa := if bitN v 40 then flSA else 0
  if 6 ≤ t then ⟨v, sa⟩
  else let r := toEt t ctl 0 (accNum k.accInt (v % 2 ^ 40)); ⟨r.code, r.flags ||| sa⟩

/-- Write element results to VD: enabled elements get their code, disabled ones are kept or zeroed (R113). -/
def writeVd (k : CoreSt) (b : VBlk) (f : Nat → Res) : CoreSt × Nat :=
  let rs := (List.range b.vl).map (fun j => (j, if b.enabled k j then some (f j) else none))
  let k' := rs.foldl (fun k' x => match x.2 with
    | some r => vSet k' b.vd b.et x.1 r.code
    | none => if b.maskz then vSet k' b.vd b.et x.1 0 else k') k
  (k', orFlags (rs.map (fun x => match x.2 with | some r => r.flags | none => 0)))

/-- R124: combine the enabled elements of [a, a + 2^n). -/
def redTree (f : Nat → Nat → Res) (v : Nat → Option Nat) : Nat → Nat → Option Res
  | 0, a => (v a).map (fun x => ⟨x, 0⟩)
  | n + 1, a =>
    match redTree f v n a, redTree f v n (a + 2 ^ n) with
    | none, y => y
    | x, none => x
    | some x, some y => let r := f x.code y.code; some ⟨r.code, x.flags ||| y.flags ||| r.flags⟩

/-- The combine of a reduction. -/
def redOp (op t : Nat) (ctl : Ctl) (strict : Bool) (a b : Nat) : Res :=
  if isFloatT t then
    (if op = 0x48 then fadd2 t ctl (etNum t a) (etNum t b)
     else maxMinRes t (op == 0x4A) strict (etNum t a) (etNum t b))
  else intOp (if op = 0x48 then 0x30 else if op = 0x49 then 0x35 else 0x36) t a b

/-- Identity of a reduction (R124). -/
def redIdentity (op t : Nat) : Nat :=
  if op = 0x48 then 0
  else if isFloatT t then infCode (etFp t) (op == 0x49)
  else
    let w := etWidth t
    if t = 4 then (if op = 0x49 then 0 else 2 ^ w - 1) else (if op = 0x49 then 2 ^ (w - 1) else 2 ^ (w - 1) - 1)

def reduce (k : CoreSt) (b : VBlk) (strict : Bool) : Res :=
  let v (j : Nat) : Option Nat := if j < b.vl && b.enabled k j then some (vGet k b.vs1 b.et j) else none
  let en := (List.range b.vl).filter (fun j => b.enabled k j)
  match redTree (redOp b.opc b.et b.ctl strict) v (Nat.log2 (etCap b.et)) 0 with
  | none => ⟨redIdentity b.opc b.et, 0⟩
  | some r =>
    if en.length = 1 && isFloatT b.et then
      -- R124: a lone element is delivered under R55
      (match etNum b.et r.code with
        | .nan sg => ⟨nanCode (etFp b.et), if sg then flNV else 0⟩
        | _ => r)
    else r

/-- The whole effect of an accepted register-mode instruction on the core, with its flag word. VST is apart. -/
def runVec (s : State) (c : Nat) (b : VBlk) (k : CoreSt) (strict : Bool) : CoreSt × Nat :=
  let g (v j : Nat) : Nat := vGet k v b.et j
  if b.opc = 0x01 then writeVd k b (loadElem s c b.mem b.saddr b.et b.ctl 0)
  else if b.opc = 0x03 then writeVd k b (fun j => ⟨g b.vs1 j, 0⟩)
  else if b.opc = 0x04 then writeVd k b (accElem k b.arow b.et b.ctl)
  else if b.opc = 0x05 then
    writeVd k b (fun j => cvtRes b.st b.et b.ctl (rndWord s c b.tid b.ixb b.ixp b.mem j) (vGet k b.vs1 b.st j))
  else if b.opc = 0x06 then writeVd k b (fun j => ⟨if pBit k b.pd j then g b.vs1 j else g b.vs2 j, 0⟩)
  else if b.opc = 0x50 then
    writeVd k b (fun j => let n := g b.vs2 j % 65536; ⟨if n < etCap b.et then g b.vs1 n else 0, 0⟩)
  else if isCmp b.opc then
    let rs := (List.range b.vl).map (fun j =>
      (j, if b.enabled k j then some (cmpRes b.opc (etNum b.et (g b.vs1 j)) (etNum b.et (g b.vs2 j))) else none))
    (rs.foldl (fun k' x => match x.2 with
        | some r => pSet k' b.pd x.1 r.1
        | none => if b.maskz then pSet k' b.pd x.1 false else k') k,
     orFlags (rs.map (fun x => match x.2 with | some r => r.2 | none => 0)))
  else if 0x48 ≤ b.opc ∧ b.opc ≤ 0x4A then
    let r := reduce k b strict
    (vSet k b.vd b.et 0 r.code, r.flags)
  else writeVd k b (fun j => lane b.opc b.et b.ctl strict (g b.vs1 j) (g b.vs2 j) (g b.vs3 j))

/-- Undefined contents of VD and PD after a failed block (R151). -/
def freeVd (c : Nat) (b : VBlk) (s : State) : State :=
  let (n, s) := s.fresh
  s.modCore c (fun k =>
    (List.range 2048).foldl (fun k i => k.setVByte (2048 * b.vd + i) (Config.freeByte (n + 1) i)) k)

/-- R151 for a vector block: POISON, and a contained error of the context. -/
def failVector (c : Nat) (_q : QBlk) (s : State) : State :=
  contained (coreCtx s c) 0 c 1 0 4 (haltQueue c 1 cPOISON s)

/-! ## Steps: R109, Table 6.5 -/

/-- Elements of an opcode that the engine takes in a step (Table 6.5). -/
def vecRate (opc et st : Nat) : Nat :=
  if opc = 0x14 || opc = 0x15 then etCap et / 8
  else if opc = 0x05 then (if 6 ≤ et || 6 ≤ st then 256 else 512)
  else if opc = 0x40 then 256
  else if opc = 0x04 || (0x60 ≤ opc && opc ≤ 0x66) then 128
  else etCap et

/-- Bytes of memory that the elements of a pattern take. -/
def Pat.bytes (p : Pat) (vl : Nat) : Nat :=
  ((List.range (p.segs vl)).map (fun s => ceilDiv (p.segLen vl s * fmtBits p.fd.fmt) 8)).sum

/-- Steps of a register-mode instruction: one for a reduction, and 1,024 bytes of a load or store in each. -/
def VBlk.steps (b : VBlk) : Nat :=
  if b.opc = 1 || b.opc = 2 then ceilDiv (b.mem.bytes b.vl) 1024
  else if 0x48 ≤ b.opc && b.opc ≤ 0x4A then 1
  else ceilDiv b.vl (vecRate b.opc b.et b.st)

/-- A vector block of n steps runs: they are paced (R343) and counted (R380). Steps in which the engine waits for a bank or a
result come on top, and the spec does not say whether they count: a free value (DESIGN CHOICE, assumption 171). -/
def vecIssue (c n : Nat) (s : State) : State :=
  if n = 0 then s
  else
    let (i, s) := s.fresh
    count c 11 (n + Config.freeNat i) (isoSteps true c n s)

/-- Mark the vector block executed, with its flags; its completion is counted by VECTOR_BLOCK_COMPLETE. -/
def vecDone (c : Nat) (q : QBlk) (flags : Nat) (s : State) : State :=
  modRun c 1 q.ticket (fun r => { r with executed := true, flags := flags }) (startBlock c 1 q none s)

/-- The register-mode instruction at the head of the vector queue, if its opcode satisfies `mine`. -/
def opVec (mine : Nat → Bool) (c : Nat) (s : State) : State :=
  match headReady s c 1 with
  | none => s
  | some q =>
    let b := VBlk.of q.bytes
    if !(mine b.opc) || s.pwr.paced.contains c then s
    else
      let k := s.core c
      -- a read of the accumulator is about to start, and is checked, only once the tiles before it are complete (R72, R150)
      if b.opc == 4 && !(tilesDone k q.order) then s
      else if !(b.ok k) then haltQueue c 1 1 s
      else
      let s := vecIssue c b.steps s
      if b.opc == 1 &&
          (List.range b.vl).any (fun j => b.enabled k j && patPoison s c b.mem b.saddr j) then
        failVector c q (freeVd c b s)
      else if b.opc == 2 then
        let (m, fl) := storeElems s c b.mem b.saddr b.et b.ctl b.maskz (rndWord s c b.tid b.ixb b.ixp b.mem) b.vl
          (fun j => vGet k b.vs1 b.et j) (fun j => b.enabled k j)
        vecDone c q fl (storeRuns (blkCtx s c) c m 0 [] s)
      else
        let (k', fl) := runVec s c b k (strictEff s)
        vecDone c q fl (s.setCore c k')

/-! ## Chains: Tables 6.7 to 6.9 -/

structure CBlk where
  mode : Nat
  et : Nat
  maskz : Bool
  pred : Nat
  nstg : Nat
  vl : Nat
  ctlb : Nat
  ins : List Pat
  out : Pat
  tid : Nat
  saddr : Nat
  ixb : Nat
  ixp : Nat
  caddr : Nat
  rsv : Nat
deriving DecidableEq, Repr

def CBlk.of (b : List Byte) : CBlk :=
  let v := fieldLe b 0 64
  { mode := bitsN v 8 1, et := bitsN v 9 3, maskz := bitN v 12, pred := bitsN v 13 3, nstg := bitsN v 16 3 + 1,
    vl := bitsN v 24 24, ctlb := bitsN v 56 8,
    ins := [Pat.of (bitsN v 64 64), Pat.of (bitsN v 128 64), Pat.of (bitsN v 192 64)], out := Pat.of (bitsN v 256 64),
    tid := bitsN v 320 32, saddr := bitsN v 352 24, ixb := bitsN v 384 48, ixp := bitsN v 432 32,
    caddr := bitsN v 464 24, rsv := bitsN v 19 5 + bitsN v 48 8 + bitsN v 376 8 + bitsN v 488 24 }

/-- A stage word (Table 6.8). -/
structure Stage where
  opc : Nat
  src : List Nat
  et : Nat
  ctlb : Nat
  rsv : Nat
deriving DecidableEq, Repr

def Stage.of (v : Nat) : Stage :=
  ⟨bitsN v 0 8, [bitsN v 8 4, bitsN v 12 4, bitsN v 16 4], bitsN v 20 3, bitsN v 24 8, bitsN v 23 1 + bitsN v 32 32⟩

def stagesOf (n : Nat) (bytes : List Byte) : List Stage := (List.range n).map (fun i => Stage.of (fieldLe bytes (8 * i) 8))

/-- Sources a stage's opcode uses. -/
def Stage.used (g : Stage) : List Nat := g.src.take (arity g.opc)

/-- Inputs that some stage names as a used operand. -/
def usedIns (gs : List Stage) : List Nat := (List.range 3).filter (fun i => gs.any (fun g => g.used.contains i))

/-- Type of a source: the block's ETYPE for an input, a stage's ETYPE for its result. -/
def srcType (et : Nat) (gs : List Stage) (x : Nat) : Nat :=
  if x < 3 then et else ((gs[x - 8]?).map (·.et)).getD 0

def srcIsCmp (gs : List Stage) (x : Nat) : Bool := 8 ≤ x && ((gs[x - 8]?).map (fun g => isCmp g.opc)).getD false

/-- R127 for stage i. -/
def stageOk (et : Nat) (gs : List Stage) (i : Nat) (g : Stage) : Bool :=
  elementOp g.opc && g.rsv == 0 && ctlOk g.ctlb && g.ctlb % 8 != 5 &&
  g.used.all (fun x => x < 3 || (8 ≤ x && x < 8 + i)) &&
  (if g.opc = 0x06 then
     srcIsCmp gs (g.src.headD 0) && (g.used.drop 1).all (fun x => !(srcIsCmp gs x)) &&
     g.used.all (fun x => srcType et gs x == g.et)
   else
     g.used.all (fun x => !(srcIsCmp gs x)) &&
     (if g.opc = 0x05 then cvtOk (srcType et gs (g.src.headD 0)) g.et
      else opTypeOk g.opc g.et && g.used.all (fun x => srcType et gs x == g.et)))

/-- Whether every value of a memory format is exact in a type (R127). A block-scaled value may exceed a type of Table 6.1,
but for FA40F, whose range holds every block-scaled floating code (R35, Table 6.1). -/
def widens (t : Nat) (fd : Fd) : Bool :=
  (t == 6 && fd.fmt ≤ 7) ||
  fd.share == 0 && (rawCopy t fd ||
    (match t with
      | 0 => true
      | 1 => fd.fmt != 0 && fd.fmt != 2
      | 2 => fd.fmt != 0 && fd.fmt != 1
      | 4 => fd.fmt == 0xA
      | _ => true))

/-- Scratchpad intervals of a pattern's elements. R129 speaks of the pattern's bytes and does not say whether its scale bytes
are among them: here they are not, so a chain whose output meets only the scale bytes of an input is accepted, and each input
is read before any output is written (DESIGN CHOICE, assumption 172). -/
def patSpans (p : Pat) (vl : Nat) : List (Nat × Nat) :=
  (List.range (p.segs vl)).map (fun s => (p.segAt s, p.segAt s + ceilDiv (p.segLen vl s * fmtBits p.fd.fmt) 8))

def spansMeet (a b : List (Nat × Nat)) : Bool := a.any (fun x => b.any (fun y => x.1 < y.2 && y.1 < x.2))

/-- R135 for an accumulator input of a chain. -/
def accInOk (k : CoreSt) (b : CBlk) (p : Pat) : Bool :=
  p.fd == ⟨0xB, 0, 0, 0⟩ && p.pitch == 0 && !p.bcast && p.seg == 0xF && p.rsv == 0 &&
  accReadOk k (p.addr % 128) b.vl b.et

/-- R127, R129. -/
def CBlk.ok (k : CoreSt) (b : CBlk) (gs : List Stage) : Bool :=
  let us := usedIns gs
  let pats := us.filterMap (fun i => b.ins[i]?)
  let mems := pats.filter (fun p => !p.acc)
  let accs := pats.filter (fun p => p.acc)
  let last := gs.getLast?
  b.mode == 1 && b.rsv == 0 && ctlOk b.ctlb && b.caddr % 8 == 0 && b.caddr + 8 * b.nstg ≤ spSize &&
  (gs.zipIdx.all (fun x => stageOk b.et gs x.2 x.1)) &&
  (match last with | some g => !(isCmp g.opc) && memFmtOk g.et b.out.fd | none => false) &&
  accs.length ≤ 1 && accs.all (accInOk k b) &&
  mems.all (fun p => p.ok b.saddr b.vl false && memFmtOk b.et p.fd) &&
  b.out.ok b.saddr b.vl true &&
  (b.ctlb % 8 != 5 || (mems.all (fun p => widens b.et p.fd) && accs.all (fun _ => 6 ≤ b.et))) &&
  mems.all (fun p => p.raw == b.out.raw || !(spansMeet (patSpans p b.vl) (patSpans b.out b.vl)))

/-- Steps of a chain, at the rate of its slowest member: its stages, its accumulator input, and its streams. -/
def CBlk.steps (b : CBlk) (gs : List Stage) : Nat :=
  let pats := (usedIns gs).filterMap (fun i => b.ins[i]?)
  let st (g : Stage) : Nat := ceilDiv b.vl (vecRate g.opc g.et (srcType b.et gs (g.src.headD 0)))
  let acc := if pats.any (·.acc) then ceilDiv b.vl 128 else 0
  let rd := ceilDiv (((pats.filter (fun p => !p.acc)).map (fun p => p.bytes b.vl)).sum) 1024
  ((gs.map st) ++ [acc, rd, ceilDiv (b.out.bytes b.vl) 1024]).foldl max 0

/-- Value and flags of one element through the stages: results so far, newest last (R128). -/
def runStages (et : Nat) (gs : List Stage) (strict : Bool) (inp : Nat → Res) : List Stage → List Nat → Nat → List Nat × Nat
  | [], rs, fl => (rs, fl)
  | g :: l, rs, fl =>
    let val (x : Nat) : Nat := if x < 3 then (inp x).code else (rs[x - 8]?).getD 0
    let a (i : Nat) : Nat := val ((g.src[i]?).getD 0)
    let c := Ctl.ofByte g.ctlb
    let r : Res :=
      if g.opc = 0x06 then ⟨if a 0 = 1 then a 1 else a 2, 0⟩
      else if isCmp g.opc then
        let (b, f) := cmpRes g.opc (etNum g.et (a 0)) (etNum g.et (a 1))
        ⟨if b then 1 else 0, f⟩
      else if g.opc = 0x05 then cvtRes (srcType et gs ((g.src[0]?).getD 0)) g.et c 0 (a 0)
      else lane g.opc g.et c strict (a 0) (a 1) (a 2)
    runStages et gs strict inp l (rs ++ [r.code]) (fl ||| r.flags)

/-- The chain at the head of the vector queue (R126 to R131). -/
def opChain (c : Nat) (s : State) : State :=
  match headReady s c 1 with
  | none => s
  | some q =>
    if fieldLe q.bytes 0 1 != 0x80 || s.pwr.paced.contains c then s
    else
      let b := CBlk.of q.bytes
      let gs := stagesOf b.nstg q.stages
      let k := s.core c
      if readsAcc q.bytes q.stages && !(tilesDone k q.order) then s
      else if !(b.ok k gs) then haltQueue c 1 1 s
      else
          let s := vecIssue c (b.steps gs) s
          let us := usedIns gs
          let en (j : Nat) : Bool := pBit k b.pred (j % etCap b.et)
          let ctl := Ctl.ofByte b.ctlb
          let bad := (List.range b.vl).any (fun j => en j && us.any (fun i =>
            match b.ins[i]? with
            | some p => !p.acc && patPoison s c p b.saddr j
            | none => false))
          if bad then
            failVector c q ((patSpans b.out b.vl).foldl (fun s x => undefSpan (padAddr c x.1) (padAddr c x.2) s) s)
          else
            let inp (j i : Nat) : Res :=
              match b.ins[i]? with
              | some p => if p.acc then accElem k (p.addr % 128) b.et ctl j else loadElem s c p b.saddr b.et ctl 0 j
              | none => ⟨0, 0⟩
            let strict := strictEff s
            let rs := (List.range b.vl).map (fun j =>
              if en j then
                let (vs, fl) := runStages b.et gs strict (inp j) gs [] 0
                (vs.getLastD 0, fl ||| orFlags (us.map (fun i => (inp j i).flags)))
              else (0, 0))
            let t := (gs.getLast?.map (·.et)).getD b.et
            let (m, fl) := storeElems s c b.out b.saddr t ctl b.maskz (rndWord s c b.tid b.ixb b.ixp b.out) b.vl
              (fun j => ((rs[j]?).getD (0, 0)).1) en
            vecDone c q (fl ||| orFlags (rs.map (·.2))) (storeRuns (blkCtx s c) c m 0 [] s)

/-- R125, R152: a vector block has written every result. -/
def opVecComplete (c : Nat) (s : State) : State :=
  match (s.core c).vq.run with
  | r :: _ =>
    if r.executed then completeBlock c 1 r.ticket r.flags (raiseVecFlags c r.flags s) else s
  | [] => s

/-! ## The commands -/

/-- VLD. A block whose OPC is reserved is rejected here, as the first vector row. -/
def execVld (c : CoreId) (s : State) : Answer := run s (opVec (fun o => o == 1 || !(vOpKnown o || o == 0x80)) c s)
def execChain (c : CoreId) (s : State) : Answer := run s (opChain c s)
def execVectorBlockComplete (c : CoreId) (s : State) : Answer := run s (opVecComplete c s)
def execVst (c : CoreId) (s : State) : Answer := run s (opVec (· == 0x02) c s)
def execVmov (c : CoreId) (s : State) : Answer := run s (opVec (· == 0x03) c s)
def execAccrd (c : CoreId) (s : State) : Answer := run s (opVec (· == 0x04) c s)
def execCvt (c : CoreId) (s : State) : Answer := run s (opVec (· == 0x05) c s)
def execSel (c : CoreId) (s : State) : Answer := run s (opVec (· == 0x06) c s)
def execFadd (c : CoreId) (s : State) : Answer := run s (opVec (· == 0x10) c s)
def execFsub (c : CoreId) (s : State) : Answer := run s (opVec (· == 0x11) c s)
def execFmul (c : CoreId) (s : State) : Answer := run s (opVec (· == 0x12) c s)
def execFma (c : CoreId) (s : State) : Answer := run s (opVec (· == 0x13) c s)
def execFdiv (c : CoreId) (s : State) : Answer := run s (opVec (· == 0x14) c s)
def execFsqrt (c : CoreId) (s : State) : Answer := run s (opVec (· == 0x15) c s)
def execFmax (c : CoreId) (s : State) : Answer := run s (opVec (· == 0x16) c s)
def execFmin (c : CoreId) (s : State) : Answer := run s (opVec (· == 0x17) c s)
def execFrint (c : CoreId) (s : State) : Answer := run s (opVec (· == 0x18) c s)
def execFneg (c : CoreId) (s : State) : Answer := run s (opVec (· == 0x1C) c s)
def execFabs (c : CoreId) (s : State) : Answer := run s (opVec (· == 0x1D) c s)
def execFcopysign (c : CoreId) (s : State) : Answer := run s (opVec (· == 0x1E) c s)
def execFxorsign (c : CoreId) (s : State) : Answer := run s (opVec (· == 0x1F) c s)
def execCmpeq (c : CoreId) (s : State) : Answer := run s (opVec (· == 0x20) c s)
def execCmpne (c : CoreId) (s : State) : Answer := run s (opVec (· == 0x21) c s)
def execCmplt (c : CoreId) (s : State) : Answer := run s (opVec (· == 0x22) c s)
def execCmple (c : CoreId) (s : State) : Answer := run s (opVec (· == 0x23) c s)
def execCmpgt (c : CoreId) (s : State) : Answer := run s (opVec (· == 0x24) c s)
def execCmpge (c : CoreId) (s : State) : Answer := run s (opVec (· == 0x25) c s)
def execIadd (c : CoreId) (s : State) : Answer := run s (opVec (· == 0x30) c s)
def execIsub (c : CoreId) (s : State) : Answer := run s (opVec (· == 0x31) c s)
def execImul (c : CoreId) (s : State) : Answer := run s (opVec (· == 0x32) c s)
def execIadds (c : CoreId) (s : State) : Answer := run s (opVec (· == 0x33) c s)
def execIsubs (c : CoreId) (s : State) : Answer := run s (opVec (· == 0x34) c s)
def execImax (c : CoreId) (s : State) : Answer := run s (opVec (· == 0x35) c s)
def execImin (c : CoreId) (s : State) : Answer := run s (opVec (· == 0x36) c s)
def execVand (c : CoreId) (s : State) : Answer := run s (opVec (· == 0x37) c s)
def execVor (c : CoreId) (s : State) : Answer := run s (opVec (· == 0x38) c s)
def execVxor (c : CoreId) (s : State) : Answer := run s (opVec (· == 0x39) c s)
def execVshl (c : CoreId) (s : State) : Answer := run s (opVec (· == 0x3A) c s)
def execVshr (c : CoreId) (s : State) : Answer := run s (opVec (· == 0x3B) c s)
def execVsra (c : CoreId) (s : State) : Answer := run s (opVec (· == 0x3C) c s)
def execFaadd (c : CoreId) (s : State) : Answer := run s (opVec (· == 0x40) c s)
def execRsum (c : CoreId) (s : State) : Answer := run s (opVec (· == 0x48) c s)
def execRmax (c : CoreId) (s : State) : Answer := run s (opVec (· == 0x49) c s)
def execRmin (c : CoreId) (s : State) : Answer := run s (opVec (· == 0x4A) c s)
def execShuf (c : CoreId) (s : State) : Answer := run s (opVec (· == 0x50) c s)
def execExp2 (c : CoreId) (s : State) : Answer := run s (opVec (· == 0x60) c s)
def execLog2 (c : CoreId) (s : State) : Answer := run s (opVec (· == 0x61) c s)
def execRcp (c : CoreId) (s : State) : Answer := run s (opVec (· == 0x62) c s)
def execRsqrt (c : CoreId) (s : State) : Answer := run s (opVec (· == 0x63) c s)
def execTanh (c : CoreId) (s : State) : Answer := run s (opVec (· == 0x64) c s)
def execSin (c : CoreId) (s : State) : Answer := run s (opVec (· == 0x65) c s)
def execCos (c : CoreId) (s : State) : Answer := run s (opVec (· == 0x66) c s)

end Sys2Proof.Machine
end

