-- ==== Sys2Proof/Machine/Image.lean ====
section
/-! DEFINITION. The image of a core's context state (Table 7.23, Table 5.6): writing it for a save (R162) and a Frost dump
(R377), reading it for a restore (R163), and copying ranges of memory. -/

namespace Sys2Proof.Machine

def accImageSize : Nat := 84032

/-! ## Ranges -/

/-- Mark poisoned every granule that holds one of the 8-byte words of [a, a + n). -/
def poisonSpan (a n : Nat) (s : State) : State :=
  (List.range (n / 8)).foldl (fun s i => setPoison (granule s (a + 8 * i)).1 true s) s

/-- Copy [src, src + n) to [dst, dst + n): bytes and poison, each granule of the target that takes a byte of a poisoned granule
being poisoned (R181). Undefined bytes stay undefined. -/
def copyRange (src dst n : Nat) (s : State) : State :=
  let inSrc (a : Nat) : Bool := src ≤ a && a < src + n
  let sp := s.mem.spans.filter (fun x => x.lo < src + n && src < x.hi && x.seed != 0)
  let cells := s.mem.cells.filter (fun c => inSrc c.1)
  let poi := s.mem.poison.filter (fun p => inSrc p.1)
  let s := zeroSpan dst (dst + n) s
  let s := sp.foldl (fun s x => undefSpan (dst + (max x.lo src - src)) (dst + (min x.hi (src + n) - src)) s) s
  let s := s.modMem (fun m => cells.foldl (fun m c => memPut m (dst + (c.1 - src)) c.2) m)
  poi.foldl (fun s x => poisonSpan (dst + (x.1 - src)) (granule s x.1).2 s) s

/-- Write bytes over a range that reads as zero. -/
def layBytes (a : Nat) (l : List Byte) (s : State) : State := s.modMem (fun m => memPuts m a l)

/-! ## Writing an image -/

/-- FA40 values, SAT bits, MODE and TSAT (Table 5.6). -/
def accImage (k : CoreSt) : List Byte :=
  let pes := List.range 16384
  (pes.map (fun pe => natLe 5 (accGet k pe % 2 ^ 40))).flatten ++
  (List.range 2048).map (fun b => BitVec.ofNat 8 ((List.range 8).foldl (fun v i =>
    v + (if bitN (accGet k (8 * b + i)) 40 then 2 ^ i else 0)) 0)) ++
  natLe 1 ((if k.accInt then 1 else 0) + (if k.accTsat then 2 else 0)) ++ List.replicate 63 0

/-- Blocks of a queue that are pending in an image: a failed or unfinished block first, then those not started. -/
def imagePend (u : QueueSt) : List QBlk :=
  (u.run.map (fun b => (⟨b.ticket, b.order, b.bytes, b.stages, []⟩ : QBlk))) ++ u.pend

/-- One pending block: 64 bytes, and a chain's 448 bytes of stage words. -/
def pendBytes (b : QBlk) : List Byte :=
  slice b.bytes 0 64 ++ (if fieldLe b.bytes 0 1 = 0x80 then slice b.stages 0 448 else [])

/-- The control state: offsets 0 to 0x1F0. -/
def ctlBytes (s : State) (c ctx : Nat) (spad dump : Bool) : List Byte :=
  let k := s.core c
  let q (i : Nat) : List Byte :=
    let u := k.queue i
    natLe 8 u.last ++ natLe 8 u.done ++ natLe 8 u.flags ++ natLe 8 (u.halt + (imagePend u).length % 64 * 16)
  natLe 8 (ctx + (if spad then 2 ^ 8 else 0) + (if dump then 2 ^ 9 else 0) + 2 ^ 16) ++ natLe 8 k.pc.toNat ++
  ((List.range 31).map (fun i => natLe 8 (k.getX (i + 1)).toNat)).flatten ++
  natLe 8 (k.sstatus ||| 0x100).toNat ++ natLe 8 k.sie.toNat ++ natLe 8 (if qerr k then 0x10000 else 0) ++
  natLe 8 k.stvec.toNat ++ natLe 8 k.sscratch.toNat ++ natLe 8 k.sepc.toNat ++ natLe 8 k.scause.toNat ++
  natLe 8 k.stval.toNat ++ natLe 8 k.scounteren.toNat ++
  natLe 8 (s.reg .CORE_SR_SEED c).toNat ++ natLe 8 (s.reg .CORE_VEC_FLAGS c).toNat ++ natLe 8 k.cycle.toNat ++
  natLe 8 k.instret.toNat ++ q 0 ++ q 1 ++ q 2 ++ q 3

/-- What is kept of the pending blocks, whose bytes are placed from offset `used` of the 4,096: the block itself once the
area has no room for it. -/
def keepBlks : List QBlk → Nat → List SavedBlk
  | [], _ => []
  | b :: l, used =>
    let n := (pendBytes b).length
    if used + n ≤ 4096 then ⟨b.ticket, b.order, [], [], b.gates⟩ :: keepBlks l (used + n)
    else ⟨b.ticket, b.order, b.bytes, b.stages, b.gates⟩ :: keepBlks l 4096

/-- Bytes of an image enter the write-combining buffers of their channels (R176): every line written whole is written
through, after what its buffer held before. -/
def throughWcb (a n : Nat) (s : State) : State :=
  let s := s.mem.wcb.foldl (fun s kv => kv.2.foldl (fun s e =>
    if a / 64 ≤ e.line && 64 * e.line < a + n then flushFirst kv.1 (fun x => x.line == e.line) s else s) s) s
  (List.range 20).foldl (fun s h =>
    count 192 (24 + h) (((List.range (n / 256)).filter (fun i => (hbmChan (localIlv s) (a + 256 * i)).1 / 32 == h)).length * 4) s) s

/-- Write a core's image at a device-physical address. -/
def writeImage (c ctx a : Nat) (spad dump : Bool) (s : State) : State :=
  let k := s.core c
  let pend := ((List.range 4).map (fun q => imagePend (k.queue q))).flatten
  let n := if spad then imageSize else 0x28000
  let s0 := zeroSpan a (a + n) (throughWcb a n s)
  let s1 := layBytes a (ctlBytes s c ctx spad dump) s0
  let s2 := layBytes (a + 0x1000) (slice ((pend.map pendBytes).flatten) 0 4096) s1
  let s3 := layBytes (a + 0x2000) (accImage k) s2
  let s4 := layBytes (a + 0x17000) ((List.range 65536).map (vByte k)) s3
  let s5 := layBytes (a + 0x27080) (((List.range 112).map (fun i => natLe 8 (pWord k (i / 16 + 1) (i % 16)))).flatten) s4
  let s6 := if spad then copyRange (padAddr c 0) (a + 0x28000) spSize s5 else s5
  { s6 with saves := smSet [] a (keepBlks pend 0) s6.saves }

/-- V0 to V31, P1 to P7, the accumulator and the scratchpad become undefined to a later context (R162). The words of an
enabled sync region keep their counts. -/
def undefCore (c : Nat) (s : State) : State :=
  let (i, s) := s.fresh
  let s := s.modCore c (fun k => { k with
    stale := false, vreg := [], preg := [], vseed := i + 1
    acc := ((List.range 16384).map (fun pe => (pe, wN (Config.freeNat (i + 1 + pe) % 2 ^ 41)))).filter (fun e => e.2 != 0) })
  let s := { s with free := s.free + 16384 }
  undefSpan (padAddr c 0) (padAddr c (if syncRegionOn s c then syncRegionOff else spSize)) s

/-! ## Reading an image -/

def accRead (b : List Byte) : SMap Word × Bool × Bool :=
  (((List.range 16384).map (fun pe =>
      (pe, wN (fieldLe b (5 * pe) 5 + (if bitN (fieldLe b (81920 + pe / 8) 1) (pe % 8) then 2 ^ 40 else 0))))).filter
      (fun e => e.2 != 0),
   bitN (fieldLe b 83968 1) 0, bitN (fieldLe b 83968 1) 1)

/-- R163: reserved bits of an image are zero. `h` is the first 0x1000 bytes, `acc` the accumulator image. -/
def imageOk (h acc p0 : List Byte) : Bool :=
  let w := fieldLe h 0 8
  bitsN w 6 2 == 0 && bitsN w 9 7 == 0 && bitsN w 16 16 == 1 && bitsN w 32 32 == 0 &&
  (List.range 4).all (fun q => fieldLe h (0x170 + 32 * q + 24) 8 < 2 ^ 10 && fieldLe h (0x170 + 32 * q + 16) 8 < 2 ^ 8) &&
  (slice h 0x1F0 3600).all (· == 0) && fieldLe acc 83968 1 < 4 && (slice acc 83969 63).all (· == 0) && p0.all (· == 0)

/-- The pending blocks of n blocks from a byte list: bytes and stage words. -/
def readPend : Nat → List Byte → List (List Byte × List Byte) × List Byte
  | 0, l => ([], l)
  | n + 1, l =>
    let b := slice l 0 64
    let chain := fieldLe b 0 1 == 0x80
    let st := if chain then slice l 64 448 else []
    let (r, rest) := readPend n (l.drop (if chain then 512 else 64))
    ((b, st) :: r, rest)

/-- A queue from its image, its pending blocks and what the monitor keeps of them. A block with nothing kept gets the next
ticket below the last. -/
def queueOf (h : List Byte) (q : Nat) (blks : List (List Byte × List Byte)) (kept : List SavedBlk) :
    QueueSt :=
  let p := 0x170 + 32 * q
  let last := fieldLe h p 8
  let dn := fieldLe h (p + 8) 8
  let n := blks.length
  let pend := blks.zipIdx.map (fun x =>
    let k : SavedBlk := (kept[x.2]?).getD ⟨last + 1 + x.2 - n, x.2, [], [], []⟩
    if k.bytes.isEmpty then (⟨k.ticket, k.order, x.1.1, x.1.2, k.gates⟩ : QBlk)
    else ⟨k.ticket, k.order, k.bytes, k.stages, k.gates⟩)
  let early := ((List.range (last - dn)).map (fun i => dn + 1 + i)).filter (fun t => !(pend.any (fun b => b.ticket == t)))
  { pend := pend, run := [], last := last, done := dn, early := early, flags := fieldLe h (p + 16) 8,
    halt := bitsN (fieldLe h (p + 24) 8) 0 4 }

/-- Load every item of an image (R163). -/
def loadImage (c a : Nat) (s : State) : State :=
  let h := rdBytes s a 0x1000
  let f (o : Nat) : Word := wN (fieldLe h o 8)
  let kept := smGet [] s.saves a
  let n (q : Nat) : Nat := bitsN (fieldLe h (0x170 + 32 * q + 24) 8) 4 6
  let (b0, l) := readPend (n 0) (rdBytes s (a + 0x1000) 4096)
  let (b1, l) := readPend (n 1) l
  let (b2, l) := readPend (n 2) l
  let (b3, _) := readPend (n 3) l
  let kq (q : Nat) : List SavedBlk := (kept.drop (((List.range q).map n).foldl (· + ·) 0)).take (n q)
  let (acc, ai, at_) := accRead (rdBytes s (a + 0x2000) accImageSize)
  let vb := (rdBytes s (a + 0x17000) 65536).zipIdx
  let s := s.modCore c (fun k => { k with
    pc := f 8
    x := ((List.range 31).map (fun i => (i + 1, f (0x10 + 8 * i)))).filter (fun e => e.2 != 0)
    sstatus := wN ((f 0x108).toNat &&& 0x80022), sie := f 0x110 &&& 0x10000, stvec := f 0x120, sscratch := f 0x128
    sepc := f 0x130, scause := f 0x138, stval := f 0x140, scounteren := f 0x148 &&& 7
    cycle := f 0x160, instret := f 0x168
    mq := queueOf h 0 b0 (kq 0), vq := queueOf h 1 b1 (kq 1), lq := queueOf h 2 b2 (kq 2), dq := queueOf h 3 b3 (kq 3)
    order := (kept.map (·.order)).foldl max 64 + 1
    acc := acc, accInt := ai, accTsat := at_, mop := none, park := none, retire := none, resv := none
    vseed := 0
    vreg := (vb.filter (fun e => e.1 != 0)).map (fun e => (e.2, e.1))
    preg := ((List.range 112).map (fun i => (16 * (i / 16 + 1) + i % 16, rd64 s (a + 0x27080 + 8 * i)))).filter (fun e => e.2 != 0) })
  let s := s.setReg .CORE_SR_SEED c (f 0x150)
  let s := s.setReg .CORE_VEC_FLAGS c (wN (bitsN (f 0x158).toNat 0 6))
  if bitN (fieldLe h 0 8) 8 then copyRange (a + 0x28000) (padAddr c 0) spSize s else s

end Sys2Proof.Machine
end

