-- ==== Sys2Proof/Machine/ContextCmds.lean ====
section
/-! DEFINITION. The rows of context switching (R162 to R164), translation invalidation (R143), task-queue control (R161),
and function resets (R216, R358). -/

namespace Sys2Proof.Machine

def saveArea (s : State) (c : Nat) : Nat := s.fld F.CORE_CTX_SAVE_ADDR c * 65536

def badReq (c : Nat) (s : State) : State := s.setFld F.CORE_CTX_STAT_BADREQ c 1

/-- SAVE: an instruction that has been released retires; one that is parked is left for the restore to execute again. A
TEXIT that is parked keeps none of the halts it has seen: it executes again as the queues then stand (DESIGN CHOICE, assumption 149). -/
def opSave (c : Nat) (spad : Bool) (s : State) : State :=
  if coreState s c != csRunning then badReq c s
  else
    let s := match (s.core c).retire with
      | some (rd, v, _) => retireCore c rd v s
      | none => s
    let old := coreWait s c
    let s := dropWaits (Waiter.isCore c) s
    let s := stampWait old c (s.modCore c (fun k => { k with park := none, retire := none }))
    (s.setFld F.CORE_CTX_STAT_STATE c csSaving).modCore c (fun k => { k with saveSpad := spad })

/-- Whether every block that has started has run to completion. -/
def startedDone (k : CoreSt) : Bool :=
  k.mop.isNone && (List.range 4).all (fun q => (k.queue q).run.all (fun b => b.failed != 0))

/-- CONTEXT_SAVE_COMPLETE. -/
def opSaveComplete (c : Nat) (s : State) : State :=
  if coreState s c != csSaving || !(startedDone (s.core c)) then s
  else
    let a := saveArea s c
    let spad := (s.core c).saveSpad
    let n := if spad then imageSize else 0x28000
    let s := needs a n s
    let s := if rangeHbm s a n then writeImage c (blkCtx s c) a spad false s else s
    let s := stampWait (coreWait s c) c <| s.modCore c (fun k => { k with
      saveSpad := false
      stale := true
      icache := []
      mq := QueueSt.reset
      vq := QueueSt.reset
      lq := QueueSt.reset
      dq := QueueSt.reset
      launch := none
      launched := false })
    s.setFld F.CORE_CTX_STAT_STATE c csSaved

/-- RESTORE. During a core reset it is accepted and goes on once the reset has ended. -/
def opRestore (c : Nat) (s : State) : State :=
  let st := coreState s c
  if st = csIdle || st = csSaved then s.setFld F.CORE_CTX_STAT_STATE c csRestoring else badReq c s

/-- R222: the words of an enabled sync region of the core have been written: each is arbitrated. -/
def arbitrateRegion (c ctx : Nat) (s : State) : State :=
  if syncRegionOn s c then signals ((List.range 2048).map (fun i => ⟨ctx, padAddr c (syncRegionOff + 8 * i), 0, false⟩)) s
  else s

/-- The launch that a restored core goes on with: one of its context that has started and that it has not exited. -/
def launchFor (s : State) (ctx c : Nat) : Option (Nat × Nat) :=
  (s.fe.launches.find? (fun l => l.started && l.ctx == ctx && bitN l.mask c && smGet 0 l.exited c == 0)).map (fun l => (l.ring, l.seq))

/-- CONTEXT_RESTORE_COMPLETE: the image is checked, then loaded, and S-mode resumes at its pc. -/
def opRestoreComplete (c : Nat) (s : State) : State :=
  if coreState s c != csRestoring || (s.core c).inReset then s
  else
    let a := saveArea s c
    let s := needs a 0x28000 s
    let h := rdBytes s a 0x1000
    let spad := bitN (fieldLe h 0 8) 8
    let n := if spad then imageSize else 0x28000
    let s := needs a n s
    let ctx := fieldLe h 0 8 % 64
    if rangeHbm s a n && !(poisoned s a 0x28000) && imageOk h (rdBytes s (a + 0x2000) accImageSize) (rdBytes s (a + 0x27000) 128) &&
        ctx = s.fld F.CORE_OWNER_CTX c then
      let l := launchFor s ctx c
      let s := stampWait (coreWait s c) c ((loadImage c a s).modCore c (fun k => { k with
        icache := [], launch := l, launched := true, stale := false }))
      let s := s.setFld F.CORE_CTX_STAT_STATE c csRunning
      if spad then arbitrateRegion c ctx s else s
    else (s.setFld F.CORE_CTX_STAT_STATE c csIdle).setFld F.CORE_CTX_STAT_ERR c 1

/-- CORE_OWNER (R164, R383). A write that would assign the core to a context that does not exist has no effect (R192). -/
def opOwner (c v : Nat) (s : State) : State :=
  let st := coreState s c
  if !(st = csIdle || st = csSaved) then badReq c s
  else if bitN v 8 && !(ctxExists s (v % 64)) then s
  else
    let old := s.reg .CORE_OWNER c
    let s := s.regWrite .CORE_OWNER c v
    if s.reg .CORE_OWNER c = old then s
    else
      let s := resetBank c s
      if (s.core c).stale then undefCore c s else s

/-! ## MEM_CTX_INVAL: R143 -/

/-- Set-up of a context that does not exist is rejected (R192). -/
def opInval (ctx : Nat) (s : State) : State := if ctxExists s ctx then s.setFld F.MEM_CTX_INVAL_GO ctx 1 else s

/-- The invalidation is complete: the base written last is in force, and no core of the context fetches through an older
translation. -/
def opInvalDone (ctx : Nat) (s : State) : State :=
  if !(s.flag F.MEM_CTX_INVAL_GO ctx) then s
  else
    let b := s.reg .MEM_CTX_PTBASE ctx
    let s := s.cores.foldl (fun s kv =>
      if blkCtx s kv.1 = ctx then s.modCore kv.1 (fun k => { k with icache := [] }) else s) s
    (s.modMem (fun m => { m with ptBase := smSet 0 ctx b m.ptBase })).setFld F.MEM_CTX_INVAL_GO ctx 0

/-! ## Task queues: R159, R161 -/

/-- Whether the queue's bytes all lie in the Vat sync-page partition, none of them in a slice's word area (R221). -/
def tqPlaced (s : State) (q : Nat) : Bool :=
  let b := tqBase s q
  let n := 64 + 64 * tqSize s q
  (List.range (n / 64)).all (fun i => match region s (b + 64 * i) with | .vat _ .sync => 0x100000 ≤ (b + 64 * i) % sliceSize | _ => false)

/-- End the waits of a queue whose EN is cleared. -/
def tqDrop (q : Nat) (s : State) : State :=
  let mine (w : Waiter) : Bool := match w with
    | .tqPop _ _ k _ => k == q | .tqPush _ _ k _ _ => k == q | .tqRing _ _ k _ _ => k == q | _ => false
  let l := s.sync.waits.filter (fun w => mine w.who)
  let s := dropWaits mine s
  let none_ : Word := wN (2 ^ 64 - 1)
  l.foldl (fun s w =>
    let (kind, target) := waitDesc s w
    match w.who with
    | .tqPop c rd _ _ => releaseCore c rd none_ false (kind, w.take, target) (trace 4 (coreCtx s c) c kind target none_.toNat s)
    | .tqPush c rd _ _ _ => releaseCore c rd none_ false (kind, w.take, target) (trace 4 (coreCtx s c) c kind target none_.toNat s)
    | .tqRing r seq _ _ _ => tqRefused r seq s
    | _ => s) s

/-- FE_TQ_CTL (Table 7.17). A clear of EN leaves the header words in memory as they stand (DESIGN CHOICE, assumption 148). -/
def opTqCtl (q v : Nat) (s : State) : State :=
  if s.flag F.FE_TQ_CTL_EN q then
    if bitN v 16 then s
    else
      let s := (s.setFld F.FE_TQ_CTL_EN q 0).modFe (fun f => { f with tqGen := smSet 0 q (smGet 0 f.tqGen q + 1) f.tqGen })
      tqDrop q s
  else
    let s := s.regWrite .FE_TQ_CTL q (setBitsN v 16 1 0)
    if bitN v 16 && 4 ≤ s.fld F.FE_TQ_CTL_LOG2N q && tqPlaced s q && ctxExists s (tqCtx s q) then
      let s := putShared (tqBase s q) (natLe 8 0 ++ natLe 8 (tqSize s q) ++ List.replicate 48 0) false s
      s.setFld F.FE_TQ_CTL_EN q 1
    else s

/-! ## The rows -/

def execSave (c : CoreId) (spad : Bool) (s : State) : Answer := runHost s (opSave c spad s)
def execContextSaveComplete (c : CoreId) (s : State) : Answer := run s (opSaveComplete c s)
def execRestore (c : CoreId) (s : State) : Answer := runHost s (opRestore c s)
def execContextRestoreComplete (c : CoreId) (s : State) : Answer := run s (opRestoreComplete c s)
def execCoreOwner (c : CoreId) (v : BitVec 32) (s : State) : Answer := runHost s (opOwner c v.toNat s)
def execMemCtxInval (x : CtxId) (s : State) : Answer := runHost s (opInval x s)
def execMemCtxInvalComplete (x : CtxId) (s : State) : Answer := run s (opInvalDone x s)
def execFeTqCtl (q : Fin 1024) (v : BitVec 32) (s : State) : Answer := runHost s (opTqCtl q v.toNat s)
/-- FUNCTION_LEVEL_RESET (R216). -/
def execFunctionLevelReset (fn : CtxId) (s : State) : Answer := run s (if ctxExists s fn then flr fn s else s)
/-- PCIE_HOT_RESET (R358). -/
def execPcieHotReset (s : State) : Answer := run s (flrAll s)

end Sys2Proof.Machine
end

