-- ==== Sys2Proof/Machine/LinkCmds.lean ====
section
/-! DEFINITION. The commands of link ports (chapter 11, R400). -/

namespace Sys2Proof.Machine

/-- Count what a decoder did to a codeword, and report what it repaired or leaves to a replay (Table 18.2, class 7). -/
def countCodeword (p : Nat) : Codeword → State → State
  | .clean, s => s
  | .corrected lanes, s =>
    lanes.foldl (fun s l => s.incSat F.LNK_LANE_SYM_SYM (p * 8 + l.val)) (linkCe p (s.incSat F.LNK_FEC_CNT_CORR p))
  | .uncorrectable, s => linkCe p (s.incSat F.LNK_FEC_CNT_UNCORR p)

/-- Table 11.2, for the width and rate the port runs at. -/
def headerOk (s : State) (p : Nat) (h : Nat) : Bool :=
  bitsN h 0 16 == 0xB4E1 && bitsN h 24 2 == s.fld F.LNK_STAT_WIDTH p && bitsN h 26 1 == s.fld F.LNK_STAT_RATE p &&
  bitsN h 32 8 == crc8 (natLe 4 h)

/-- A block header has been checked (R243, R252 step 3). -/
def takeHeader (p : Nat) (ok : Bool) (s : State) : State :=
  let k := s.port p
  if ok then
    let s := s.modPort p (fun k => { k with badHdr := 0, goodHdr := k.goodHdr + 1 })
    if portState s p = psBLOCKLOCK && 16 ≤ k.goodHdr + 1 then enterParam p s else s
  else
    let s := s.modPort p (fun k => { k with badHdr := k.badHdr + 1, goodHdr := 0 })
    if 4 ≤ k.badHdr + 1 && portState s p != psBLOCKLOCK then linkLost p (some F.LNK_EVT_BLKLOSS) s else s

/-- BLOCK_RECEIVE: the five flits of a good block wait to be taken; those of an uncorrectable block are failed flits. -/
def opBlock (p : Nat) (a b : Codeword) (hdr : Nat) (flits : List (List Byte)) (s : State) : State :=
  let st := portState s p
  if st < psBLOCKLOCK || psACTIVE < st then s
  else
    let s := countCodeword p b (countCodeword p a s)
    if a == .uncorrectable || b == .uncorrectable then
      if st = psBLOCKLOCK then s.modPort p (fun k => { k with goodHdr := 0 })
      else
        askReplay p s
    else
      let s := takeHeader p (headerOk s p hdr) s
      if st = psBLOCKLOCK || portState s p < psPARAM || psACTIVE < portState s p then s
      else
        let s := s.modPort p (fun k => { k with rx := k.rx ++ (flits.take 5).map (padTo 256) })
        rxDone p s

/-- Take a received flit for which `mine` holds: its returns, then `f` on it. -/
def opFlit (p : Nat) (mine : List Byte → Bool) (f : List Byte → State → State) (s : State) : State :=
  match takeRx p mine s with
  | none => s
  | some (b, s) =>
    let s := takeReturns p b s
    let st := portState s p
    if st < psPARAM || psACTIVE < st then s else rxDone p (checkActive p (f b s))

/-- A sequenced flit: `f` if it is accepted, else it is discarded with a NAK. -/
def seqFlit (p : Nat) (f : List Byte → State → State) (b : List Byte) (s : State) : State :=
  match acceptSeq p b s with
  | some s => f b s
  | none => askReplay p s

/-- A DATA or DATA_END flit accepted in order: held for its batch's AUTH under encryption (R400), else delivered. -/
def takeData (p : Nat) (b : List Byte) (s : State) : State :=
  let t := s.timebase
  if encOn s p then s.modPort p (fun k => { k with held := k.held ++ [b], heldAt := k.heldAt ++ [t] })
  else deliverFlit p (fKind b) (fVc b) t (fBody b) s

/-- AUTH: verify the batch under receive slot SLOT; deliver it, or discard it and the AUTH with a NAK for its first
flit. -/
def takeAuth (p : Nat) (b : List Byte) (s : State) : State :=
  let k := s.port p
  let body := fBody b
  let j := 2 + bitsN (fieldLe body 1 1) 0 1
  let nonce := areaNonce k j (fieldLe body 2 8)
  let aad := (k.held.map (fun f => flitAad (fKind f) (fVc f) (fSeq f))).flatten
  let tag := Config.gcmTag (areaKey k j) nonce (aad ++ (k.held.map fBody).flatten)
  if fieldLe body 10 2 = k.held.length && slice tag 0 16 == slice body 16 16 then
    let l := k.held.zipIdx.map (fun x => (x.1, (k.heldAt[x.2]?).getD s.timebase, gcmXor (areaKey k j) nonce (244 * x.2) (fBody x.1)))
    let s := s.modPort p (fun k => { k with held := [], heldAt := [] })
    l.foldl (fun s x => deliverFlit p (fKind x.1) (fVc x.1) x.2.1 x.2.2 s) s
  else
    let s := s.incSat F.SEC_LNK_STAT_AUTHFAIL p
    let first := ackValue { k with rxSeq := fSeq b }
    s.modPort p (fun k => { k with held := [], heldAt := [], rxSeq := first, nak := true, nakHeld := true, nakAt := s.now })

/-- When TMO has passed since ACK advanced. -/
def replayDue (s : State) (p : Nat) : Nat := (s.port p).ackAt + s.fld F.LNK_RETRY_CTL_TMO p * 100

def opReplayTimeout (p : Nat) (s : State) : State :=
  let st := portState s p
  if (st = psPARAM || st = psACTIVE) && !(s.port p).replay.isEmpty then startReplay p (passTo (replayDue s p) s) else s

/-- A write of LNK_CTL other than its RETRAIN bit. -/
def opLnkCtl (p v : Nat) (s : State) : State :=
  let was := s.flag F.LNK_CTL_EN p
  let s := s.regWrite .LNK_CTL p (setBitsN v 6 1 0)
  let now := s.flag F.LNK_CTL_EN p
  if now && !was then startTrain p (s.fld F.LNK_CTL_MAXRATE p) s
  else if was && !now then
    if portActive s p then linkDown p none s
    else
      let s := endEncryption p ((s.setFld F.LNK_STAT_WIDTH p 0).setFld F.LNK_STAT_LANES p 0)
      setPortState p psDISABLED (s.modPort p PortSt.cleared)
  else s

/-- LNK_CTL.RETRAIN: an ACTIVE port goes down and trains; a port that is not up trains anew. With EN = 0 the write has no effect
and the bit stays 0 (DESIGN CHOICE, assumption 183: Table 11.9 does not say). -/
def opRetrain (p : Nat) (s : State) : State :=
  if !(s.flag F.LNK_CTL_EN p) then s
  else
    let s := s.setFld F.LNK_CTL_RETRAIN p 1
    if portActive s p then linkDown p none s else startTrain p (s.fld F.LNK_CTL_MAXRATE p) s

/-- The limits of R252: 500 ms for each attempt in TRAIN, 2 s from the first TRAIN to ACTIVE. -/
def opTrainTimeout (p : Nat) (s : State) : State :=
  let st := portState s p
  let all := (s.port p).bringAt + 2000000000
  if st = psTRAIN then trainFail p (passTo (min ((s.port p).trainAt + 500000000) all) s)
  else if psTRAIN < st && st ≤ psPARAM then trainFail p (passTo all s)
  else s

/-- 1 s after a failure, with AUTO = 1. -/
def opAutoRetry (p : Nat) (s : State) : State :=
  if portState s p = psFAILED && s.flag F.LNK_CTL_AUTO p && s.flag F.LNK_CTL_EN p then
    startTrain p (s.fld F.LNK_CTL_MAXRATE p) (passTo ((s.port p).failAt + 1000000000) s)
  else s

def execBlockReceive (p : PortId) (a b : Codeword) (h : BitVec 40) (fl : List (List Byte)) (s : State) : Answer :=
  run s (opBlock p a b h.toNat fl s)
def execIdleFlit (p : PortId) (s : State) : Answer := run s (opFlit p (fun f => fKind f == 0) (fun _ s => s) s)
def execData (p : PortId) (s : State) : Answer := run s (opFlit p (fun f => fKind f == 1) (seqFlit p (takeData p)) s)
def execDataEnd (p : PortId) (s : State) : Answer := run s (opFlit p (fun f => fKind f == 2) (seqFlit p (takeData p)) s)
def execReplayTimeout (p : PortId) (s : State) : Answer := run s (opReplayTimeout p s)
def execParam (p : PortId) (s : State) : Answer :=
  run s (opFlit p (fun f => fKind f == 3 && fSub f == 1)
    (seqFlit p (fun b s => takeParam p (fBody b) s)) s)
def execLinkdown (p : PortId) (s : State) : Answer :=
  run s (opFlit p (fun f => fKind f == 3 && fSub f == 2) (fun _ s => linkLost p (some F.LNK_EVT_PEERDN) s) s)
def execLossOfSignal (p : PortId) (l : Fin 8) (s : State) : Answer :=
  run s (if bitN (s.fld F.LNK_STAT_LANES p) l then linkLost p none s else s)
def execRetrain (p : PortId) (s : State) : Answer := runHost s (opRetrain p s)
def execLnkCtlEn (p : PortId) (v : BitVec 32) (s : State) : Answer := runHost s (opLnkCtl p v.toNat s)
def execTrain (p : PortId) (s : State) : Answer :=
  run s (if portState s p = psTRAIN then setPortState p psLANEMAP s else s)
def execLanemap (p : PortId) (nums : List (Fin 8)) (good pol : BitVec 8) (s : State) : Answer :=
  run s (if portState s p = psLANEMAP then laneMap p (nums.map (·.val)) good.toNat pol.toNat s else s)
def execTrainingTimeout (p : PortId) (s : State) : Answer := run s (opTrainTimeout p s)
def execAutoRetry (p : PortId) (s : State) : Answer := run s (opAutoRetry p s)
def execAuth (p : PortId) (s : State) : Answer :=
  run s (opFlit p (fun f => fKind f == 3 && fSub f == 4) (seqFlit p (takeAuth p)) s)

end Sys2Proof.Machine
end

