-- ==== Sys2Proof/Machine/FrostCmds.lean ====
section
/-! DEFINITION. The commands of Frost (R372 to R378, R428): entries, markers, the cut, the state dump and Thaw. -/

namespace Sys2Proof.Machine

/-- FROST_N as the board drives it. A falling edge, a low of 100 ns after a high of at least 1 µs, enters Frost under source
PIN from step 8 of boot; one that comes while the device itself drives the pin cannot be seen (R428). The level of the pin is
known in every state of the device. -/
def opFrostN (low : Bool) (s : State) : State :=
  let t := s.now
  let edge := low && !s.rst.frostLow && !(drivesFrostN s) && s.rst.frostHigh + 1000 ≤ t
  let s := s.modRst (fun r => { r with frostLow := low, frostHigh := if !low && r.frostLow then t else r.frostHigh })
  if edge && running s && ready s && s.flag F.DEV_FROST_CTL_PIN_IN then
    let s := passTime 100 s
    enterLocal fsrcPIN (s.fld F.DEV_FROST_CTL_PIN_SCOPE) none s
  else s

/-- A MARKER flit of a kind (Table 18.6) on a port: `f` on its body. -/
def opMarker (p kind : Nat) (f : List Byte → State → State) (s : State) : State :=
  opFlit p (fun b => fKind b == 3 && fSub b == 3 && fieldLe b 9 1 == kind) (seqFlit p (fun b s => f (fBody b) s)) s

/-- THAW marker of the device's FGEN (R378), from the node that started the Thaw. -/
def takeThaw (gen origin : Nat) (s : State) : State := if gen = fgen s then askThawOf true origin s else s

/-- DEV_FROST_CMD.DUMP (R377). -/
def opDump (s : State) : State := if frostState s = fsCUT && !s.frost.dumping then startDump s else s

/-! ## The state dump: Table 18.7 -/

def dumpSize : Nat := 0x6A000000

def dumpHeader (s : State) : List Byte :=
  natLe 2 (nodeId s) ++ natLe 2 (fgen s) ++ natLe 1 (s.fld F.DEV_FROST_STAT_SRC) ++ natLe 1 s.frost.scope ++
  natLe 2 (if s.fld F.DEV_FROST_STAT_SRC = fsrcPOLICY then s.fld F.DEV_RST_CAUSE_FATAL_CODE else 0) ++ natLe 8 s.frost.cutAt

/-- One core of the dump: its image, or zeros while it is in reset. -/
def dumpCore (a c : Nat) (s : State) : State :=
  let at_ := a + 0x10000 + imageSize * c
  if (s.core c).inReset then zeroSpan at_ (at_ + imageSize) (throughWcb at_ imageSize s)
  else
    let keep := s.saves
    { writeImage c (s.fld F.CORE_OWNER_CTX c) at_ true true s with saves := keep }

/-- DUMP_COMPLETE: the image stands in HBM; a Thaw that waits takes effect. An area that does not lie in HBM takes no
byte. The writes enter the write-combining buffers like any other (R176), and a dump waits for memory that is held. -/
def opDumpDone (s : State) : State :=
  if !s.frost.dumping then s
  else
    let a := s.fld F.DEV_FROST_DUMP_ADDR * 2 ^ 30
    let s := flushAll s
    let s := if rangeHbm s a dumpSize then
        let s := needs vatBase 0x20000000 (needs a dumpSize s)
        let s := (List.range 4).foldl (fun s b => touch (vatBase + b * sliceSize) s) s
        let s := layBytes a (dumpHeader s) (zeroSpan a (a + 0x10000) (throughWcb a 0x10000 s))
        let s := (List.range 192).foldl (fun s c => dumpCore a c s) s
        copyRange vatBase (a + 0x4A000000) 0x20000000 (throughWcb (a + 0x4A000000) 0x20000000 s)
      else s
    let s := (s.setFld F.DEV_FROST_STAT_DUMPED 0 1).modFrost (fun f => { f with dumping := false })
    tryThaw (dumpProg 196 2 s)

/-! ## The rows -/

/-- FROST_N (R428). -/
def execFrostN (low : Bool) (s : State) : Answer := always s (opFrostN low s)
/-- FREEZE (R372). -/
def execFreeze (scope : Bool) (s : State) : Answer := runHost s (enterLocal fsrcREG (if scope then 1 else 0) none s)
/-- STOP_MARKER (R372). -/
def execStopMarker (p : PortId) (s : State) : Answer :=
  run s (opMarker p 1 (fun b s => takeStop (fieldLe b 2 2) (fieldLe b 5 2) s) s)
/-- LOCAL_CUT (R374). -/
def execLocalCut (s : State) : Answer := run s (localCut s)
/-- ROUND_MARKER (R375). -/
def execRoundMarker (p : PortId) (s : State) : Answer :=
  run s (opMarker p 2 (fun b s => takeRound p (fieldLe b 2 2) (fieldLe b 4 1) s) s)
/-- DUMP (R377). -/
def execDump (s : State) : Answer := runHost s (opDump s)
/-- DUMP_COMPLETE (R377). -/
def execDumpComplete (s : State) : Answer := run s (opDumpDone s)
/-- THAW (R378). -/
def execThaw (fwd : Bool) (s : State) : Answer := runHost s (askThaw fwd s)
/-- THAW_MARKER (R378). -/
def execThawMarker (p : PortId) (s : State) : Answer := run s (opMarker p 3 (fun b s => takeThaw (fieldLe b 2 2) (fieldLe b 5 2) s) s)

end Sys2Proof.Machine
end

