-- ==== Sys2Proof/Machine/HbmCmds.lean ====
section
/-! DEFINITION. The rows of the HBM channels: line reads and scrubs (R180, R185), remaps (R183), accepted writes and flushes
(R176), the traffic generator (R190), and training (R186 to R189). -/

namespace Sys2Proof.Machine

/-- Bytes of a channel's offset space. -/
def chanBytes : Nat := 0x40000000

/-- HBM is in service from the end of its training (Table 8.14): before, no line is read, written or scrubbed. -/
def hbmUp (s : State) : Bool := 5 ≤ bootStep s

/-- HBM_LINE_READ. -/
def opLineRead (line : Nat) (found : LineIn) (s : State) : State :=
  if hbmUp s && inHbm s (64 * line) then access (.line line found) s else s

/-- Read the lines of a row as they are copied, with what comes back for each. A line that cannot be corrected is copied
poisoned. -/
def copyRow (ch row : Nat) (found : List LineIn) (s : State) : State :=
  (List.range 16).foldl (fun s i =>
    lineRead (chanAddr (localIlv s) ch (1024 * row + 64 * i)) ((found[i]?).getD LineIn.good) true s) s

/-- ROW_REMAP_COMPLETE: the row has been copied; it enters the channel's soft-remap table, and the firmware store's log
(R184). -/
def opRemapDone (ch : Nat) (found : List LineIn) (s : State) : State :=
  match s.mem.remapping.find? (fun r => r.1 == ch) with
  | none => s
  | some r =>
    -- the copy waits for a channel that is under test (R190) or in self-refresh (R356)
    let s := { s with stall := s.stall || s.mem.selfRefresh || s.mem.tg.any (fun t => t.ch == ch) }
    let s := copyRow ch r.2 found s
    let t := smGet [] s.mem.remapped ch
    let s := s.modMem (fun m => { m with remapping := m.remapping.erase r })
    if 64 ≤ t.length then s.setFld F.MEM_CH_STAT_REMAP_FULL ch 1
    else
      let s := s.modMem (fun m => { m with remapped := smSet [] ch (t ++ [r.2]) m.remapped, repairLog := m.repairLog ++ [r] })
      s.setFld F.MEM_CH_STAT_REMAP_USED ch (t.length + 1)

/-- HBM_WRITE: bytes of one line enter the channel's write-combining buffer. -/
def opHbmWrite (a : Nat) (data : List Byte) (poison : Bool) (s : State) : State :=
  let d := data.take (64 - a % 64)
  if hbmUp s && inHbm s a then access (.write 0 a d poison) s else s

/-- WCB_ENTRY_FLUSH: entry n of the channel's buffer, counted from the oldest. -/
def opEntryFlush (ch n : Nat) (s : State) : State :=
  match (wcbOf s ch)[n]? with
  | none => s
  | some e => flushFirst ch (fun x => x == e) s

/-- WCB_AGE_FLUSH: the oldest entry reaches the age limit. -/
def opAgeFlush (ch : Nat) (s : State) : State :=
  match wcbOf s ch with
  | [] => s
  | e :: _ =>
    let s := passTo (e.born + s.fld F.MEM_WCB_CTL_AGE * 100) s
    flushFirst ch (fun x => x == e) s

/-- A write of MEM_WCB_CTL: what the new limits call for is flushed at once (Table 8.7). -/
def wcbLimits (s : State) : State :=
  s.mem.wcb.foldl (fun s kv =>
    let s := kv.2.foldl (fun s e =>
      if e.born + s.fld F.MEM_WCB_CTL_AGE * 100 ≤ s.now then flushFirst kv.1 (fun x => x == e) s else s) s
    flushTo (s.fld F.MEM_WCB_CTL_HWM) 256 kv.1 s) s

/-- MEM_WCB_FLUSH. Entries accepted later are not waited for. -/
def opWcbFlush (s : State) : State :=
  (s.modMem (fun m => { m with wcb := m.wcb.map (fun kv => (kv.1, kv.2.map (fun e => { e with flushing := true }))) })).setFld
    F.MEM_WCB_CTL_FLUSH 0 1

def opWcbFlushDone (s : State) : State :=
  if !(s.flag F.MEM_WCB_CTL_FLUSH) then s
  else
    let s := s.mem.wcb.foldl (fun s kv =>
      kv.2.foldl (fun s e => if e.flushing then flushFirst kv.1 (fun x => x.flushing) s else s) s) s
    s.setFld F.MEM_WCB_CTL_FLUSH 0 0

/-- SCRUB_READ: the channel's next line, in order of channel offset. -/
def opScrub (ch : Nat) (found : LineIn) (s : State) : State :=
  if !(s.flag F.MEM_SCRUB_CTL_EN) || !(hbmUp s) then s
  else
    let off := smGet 0 s.mem.scrub ch
    let a := chanAddr (localIlv s) ch off
    if heldRange s a 64 then s
    else lineRead a found true (s.modMem (fun m => { m with scrub := smSet 0 ch ((off + 64) % chanBytes) m.scrub }))

/-! ## Traffic generator: R190 -/

/-- MEM_TG_START: a write of MEM_TG_CTL. -/
def opTgStart (v : Nat) (s : State) : State :=
  let s := s.regWrite .MEM_TG_CTL 0 (setBitsN v 16 1 0)
  if !(bitN v 16) then s
  else
    let n := s.fld F.MEM_TG_CTL_LINES
    if s.mem.tg.isSome || (List.range 64).any (fun c => s.flag F.MEM_CTX_PTBASE_EN c) || 16777216 < n then
      s.setFld F.MEM_TG_STAT_ERR 0 1
    else
      let s := (s.setFld F.MEM_TG_STAT_DONE_LINES 0 0).setFld F.MEM_TG_STAT_ERRS 0 0
      if n = 0 then setProg 4 ⟨0, 0, 2, 0, 0⟩ s
      else
        let s := (s.setFld F.MEM_TG_CTL_START 0 1).setFld F.MEM_TG_STAT_BUSY 0 1
        let s := s.modMem (fun m => { m with tg := some ⟨s.fld F.MEM_TG_CTL_CH, s.fld F.MEM_TG_CTL_PAT, n⟩ })
        setProg 4 ⟨0, 2 * n, 1, 0, 0⟩ s

/-- MEM_TG_COMPLETE: the tested lines are undefined. -/
def opTgDone (errs : Nat) (s : State) : State :=
  match s.mem.tg with
  | none => s
  | some t =>
    let l := localIlv s
    -- the test waits for a row of its lines that is being copied (R183), and for a core reset to end (R356)
    let s := { s with stall := s.stall || s.mem.selfRefresh ||
      s.mem.remapping.any (fun r => r.1 == t.ch && 1024 * r.2 < 64 * t.lines) }
    let s := (List.range t.lines).foldl (fun s i =>
      let a := chanAddr l t.ch (64 * i)
      setPoison a false (undefSpan a (a + 64) s)) s
    let s := s.modMem (fun m => { m with tg := none })
    let s := ((s.setFld F.MEM_TG_CTL_START 0 0).setFld F.MEM_TG_STAT_BUSY 0 0)
    let s := (s.setFld F.MEM_TG_STAT_DONE_LINES 0 t.lines).setFld F.MEM_TG_STAT_ERRS 0 (min errs t.lines)
    setProg 4 ⟨2 * t.lines, 2 * t.lines, 2, 0, 0⟩ s

/-! ## Training: R186 to R189 -/

def stackOf (ch : Nat) : Nat := ch / 32

/-- Units of the training position: phases completed by all channels. -/
def trainUnits (s : State) : Nat := s.mem.phases.foldl (fun n p => n + p.2) 0

def trainProg (st : Nat) (s : State) : State := setProg 1 ⟨trainUnits s, 2560, st, 0, 0⟩ s

/-- Training fails, and boot stops with code HBM (R188). -/
def hbmFail (s : State) : State := bootFail 5 (trainProg 3 (s.setFld F.MEM_TRAIN_STAT_FAIL 0 1))

/-- A channel that fails at the rate its stack runs at: the stack is retrained at 8.0 Gb/s, and its channels' units for
phases 3 and 4 are counted back; a stack that fails at 8.0 Gb/s fails training. -/
def stackFails (ch : Nat) (s : State) : State :=
  let h := stackOf ch
  if bitN (s.fld F.MEM_TRAIN_STAT_DEGR) h then hbmFail s
  else
    let s := s.setFld F.MEM_TRAIN_STAT_DEGR 0 (s.fld F.MEM_TRAIN_STAT_DEGR ||| 2 ^ h)
    let s := (List.range 32).foldl (fun s i => s.setFld F.MEM_CH_MARGIN_DEGR (32 * h + i) 1) s
    let s := s.modMem (fun m => { m with phases := m.phases.map (fun p => if p.1 / 32 = h then (p.1, min p.2 2) else p) })
    report mgDegraded h (trainProg 1 s)

/-- HBM as phase 4 leaves it, once every channel has completed it: zero, with no line poisoned (R360). -/
def zeroHbm (s : State) : State := { (zeroSpan 0 hbmEnd s) with saves := [] }

/-- A channel completes its phase. -/
def phaseDone (ch n : Nat) (s : State) : State :=
  let s := trainProg 1 (s.modMem (fun m => { m with phases := smSet 0 ch n m.phases }))
  if trainUnits s = 2560 then bootTo 5 (trainProg 2 ((zeroHbm s).setFld F.MEM_TRAIN_STAT_DONE 0 1)) else s

/-- R184: logged rows of a channel are repaired and leave the log; those with no repair resource left are remapped
again. -/
def repairRows (ch : Nat) (noSpare : List Nat) (s : State) : State :=
  let mine := s.mem.repairLog.filter (fun r => r.1 == ch)
  let again := (mine.filter (fun r => noSpare.contains r.2)).map (·.2)
  let s := s.modMem (fun m => { m with
    repairLog := m.repairLog.filter (fun r => r.1 != ch) ++ again.map (fun r => (ch, r))
    remapped := smSet [] ch (again.take 64) m.remapped })
  s.setFld F.MEM_CH_STAT_REMAP_USED ch (min again.length 64)

/-- HBM_TRAIN_PHASE: the channel's next phase ends as found. A channel that fails phase 2, for which the rules name no result, fails
training as one that fails its identity check does (DESIGN CHOICE, assumption 176). -/
def opTrainPhase (ch : Nat) (x : TrainIn) (s : State) : State :=
  if bootStep s != 4 || bootFailed s then s
  else
    let n := smGet 0 s.mem.phases ch + 1
    let lim := if bitN (s.fld F.MEM_TRAIN_STAT_DEGR) (stackOf ch) then 38 else 31
    match n with
    | 1 => if x.pass then phaseDone ch 1 s else hbmFail s
    | 2 => if x.pass then phaseDone ch 2 (repairRows ch x.noSpare s) else hbmFail s
    | 3 =>
      let good := lim ≤ x.rdEye && lim ≤ x.wrEye && 40 ≤ x.height
      let tg := !good && x.tg
      let eye (m t : Nat) : Nat := min (if tg then t else m) 255
      let s := ((s.setFld F.MEM_CH_MARGIN_RD_EYE ch (eye x.rdEye x.tgRd)).setFld F.MEM_CH_MARGIN_WR_EYE ch (eye x.wrEye x.tgWr))
      let s := (s.setFld F.MEM_CH_MARGIN_HEIGHT ch (eye (x.height / 2) (x.tgHeight / 2))).setFld F.MEM_CH_MARGIN_TG ch
        (if tg then 1 else 0)
      if good then phaseDone ch 3 s
      else
        let s := s.setFld F.MEM_TRAIN_STAT_FALLBACK 0 (s.fld F.MEM_TRAIN_STAT_FALLBACK ||| 2 ^ stackOf ch)
        if x.tg then phaseDone ch 3 s else stackFails ch s
    | 4 => if x.pass then phaseDone ch 4 s else stackFails ch s
    | _ => s

/-! ## The rows -/

def execHbmLineRead (l : Fin 10737418240) (x : LineIn) (s : State) : Answer := run s (opLineRead l x s)
def execRowRemapComplete (r : RowIn) (s : State) : Answer := run s (opRemapDone r.ch r.found s)
def execHbmWrite (a : Fin 687194767360) (d : List Byte) (p : Bool) (s : State) : Answer := run s (opHbmWrite a d p s)
def execWcbEntryFlush (ch : ChanId) (n : Fin 256) (s : State) : Answer := run s (opEntryFlush ch n s)
def execWcbAgeFlush (ch : ChanId) (s : State) : Answer := run s (opAgeFlush ch s)
def execMemWcbFlush (s : State) : Answer := runHost s (opWcbFlush s)
def execMemWcbFlushComplete (s : State) : Answer := run s (opWcbFlushDone s)
def execScrubRead (ch : ChanId) (x : LineIn) (s : State) : Answer := run s (opScrub ch x s)
def execMemTgStart (v : Word) (s : State) : Answer := runHost s (opTgStart v.toNat s)
def execMemTgComplete (e : Fin 65536) (s : State) : Answer := run s (opTgDone e s)
def execHbmTrainPhase (ch : ChanId) (x : TrainIn) (s : State) : Answer := run s (opTrainPhase ch x s)

end Sys2Proof.Machine
end

