-- ==== Sys2Proof/Machine/Power.lean ====
section
/-! DEFINITION. The Calender (chapter 16): the fast loop, measurement, ballast, ramps, phase slots, hints, thermal holds,
measurement-only control, equalisation, ageing trims, outliers and iso-rate mode. Power is in W, times in ns, trims and
offsets in steps of 2.5 mV. -/

namespace Sys2Proof.Machine

/-! ## Ballast: R332 -/

/-- Arrays that may run ballast: their core is not held in core reset, THERM does not hold the die, and no operation may
issue (R80). -/
def ballastArray (s : State) (c : Nat) : Bool := !((s.core c).inReset) && !(bitN s.pwr.hot (c / 16)) && !(mayIssue s c)

/-- Ballast available: at most MAXPCT % of CAP_EFF, and 100 W a compute die, the sixteenth of it an array. -/
def ballastAvail (s : State) : Nat :=
  if !(s.flag F.PWR_BALLAST_EN) then 0
  else
    let busy := (s.cores.filter (fun kv => !(ballastArray s kv.1))).length
    let held := ((List.range 192).filter (fun c => bitN s.pwr.hot (c / 16) && !(s.cores.any (fun kv => kv.1 == c)))).length
    min (s.fld F.PWR_BALLAST_MAXPCT * capEff s / 100) (100 * (192 - busy - held) / 16)

/-- R80, R332: a ballast step runs where the Calender puts ballast. -/
def opBallast (c : Nat) (s : State) : State :=
  if !(s.flag F.PWR_BALLAST_EN) || s.fld F.PWR_THR_STAT_BALLAST = 0 || !(ballastArray s c) then s
  else count c 10 1 (countStep c (isoToken c s))

/-- Fill from the demand up to a level; what ballast cannot fill falls at once. -/
def fillTo (level : Nat) (s : State) : State :=
  let level := min level (capEff s)
  let d := s.pwr.demand
  let need := level - d
  let av := ballastAvail s
  let s := if av < need && s.flag F.PWR_BALLAST_EN then s.setFld F.PWR_EVT_BALLAST_SHORT 0 1 else s
  let b := min need av
  let s := s.setFld F.PWR_THR_STAT_BALLAST 0 b
  let s := if av < need then mayFall s else s
  s.modPwr (fun p => { p with force := if av < need then d + b else level })

/-! ## Thermal control: R344 -/

/-- Temperatures arrive: dies above TJ_TGT are held until they are not, HBM stacks from 95 °C until below 93 °C, and the air
side while its sensor is not below 70 °C (R430). -/
def takeTemps (tj hbm : List Nat) (air : Nat) (s : State) : State :=
  let s := (tj.take 16).zipIdx.foldl (fun s (e : Nat × Nat) =>
    (s.modPwr (fun p => { p with tj := smSet 0 e.2 e.1 p.tj })).setFld F.PWR_DIE_TJ e.2 (min e.1 255)) s
  let s := (hbm.take 20).zipIdx.foldl (fun s (e : Nat × Nat) => s.modPwr (fun p => { p with stackT := smSet 0 e.2 e.1 p.stackT })) s
  let tgt := s.fld F.PWR_THERM_TJ_TGT
  let hot := (List.range 16).foldl (fun m d => if tgt < smGet 0 s.pwr.tj d then m + 2 ^ d else m) 0
  let hs := (List.range 20).foldl (fun m h =>
    let t := smGet 0 s.pwr.stackT h
    if 95 ≤ t || (bitN s.pwr.hotStacks h && 93 ≤ t) then m + 2 ^ h else m) 0
  let fresh := (List.range 16).any (fun d => bitN hot d && !(bitN s.pwr.hot d)) ||
    (List.range 20).any (fun h => bitN hs h && !(bitN s.pwr.hotStacks h)) || (70 ≤ air && !s.pwr.airHot)
  let s := if fresh then s.setFld F.PWR_EVT_THERM 0 1 else s
  let s := (List.range 16).foldl (fun s d => s.setFld F.PWR_DIE_THERM d (if bitN hot d then 1 else 0)) s
  s.modPwr (fun p => { p with hot := hot, hotStacks := hs, airHot := decide (70 ≤ air) })

/-- Cores of dies that have reached 104 °C are paced at once. -/
def hotCores (s : State) : List Nat :=
  (List.range 192).filter (fun c => 104 ≤ smGet 0 s.pwr.tj (c / 16))

/-- A compute die that reaches 104 °C takes its power, or part of it, off the power in force at once (R331). -/
def hotFall (before : SMap Nat) (s : State) : State :=
  (List.range 12).foldl (fun s d =>
    if 104 ≤ smGet 0 s.pwr.tj d && smGet 0 before d < 104 then
      let (i, s) := (mayFall s).fresh
      s.modPwr (fun p => { p with force := p.force - Config.freeNat i % (dieLoad s d + 1) })
    else s) s

/-- R344: the rail of a die that THERM holds goes down by a step, as long as the power that takes stays within RAMP_DN; once
the hold ends it goes up again by steps within RAMP_UP (R331). Every rail is held while the air side is (R430). -/
def coolDie (d : Nat) (s : State) : State :=
  let u := railAllowed s d
  let w := Config.stepWatts d u (dieLoad s d)
  if !(bitN s.pwr.hot d) && !s.pwr.airHot then
    if smGet 0 s.pwr.cool d = 0 || s.fld F.PWR_RAMP_UP_RATE < s.pwr.rose + w then s
    else s.modPwr (fun p => { p with cool := smSet 0 d (smGet 0 p.cool d - 1) p.cool, rose := p.rose + w })
  else
    if u ≤ railMin || s.fld F.PWR_RAMP_DN_RATE < s.pwr.fell + w then s
    else s.modPwr (fun p => { p with cool := smSet 0 d (railHeld s d + 1) p.cool, fell := p.fell + w })

/-! ## The fast loop: R329 -/

/-- R333: a ramp-up event begins when demand first exceeds the power in force by more than THRESH % of CAP_EFF. -/
def rampEvent (s : State) : State :=
  if s.pwr.demand ≤ s.pwr.force then s.modPwr (fun p => { p with rampUp := false, slotEnd := none })
  else if !s.pwr.rampUp && ready s && s.pwr.force * 100 + s.fld F.PWR_PHASE_THRESH * capEff s < s.pwr.demand * 100 then
    let t := s.now + s.fld F.PWR_PHASE_SLOT * s.fld F.PWR_PHASE_WIDTH * 1000
    s.modPwr (fun p => { p with rampUp := true, slotEnd := some t })
  else s

/-- The activity estimates arrive. -/
def takeEst (l : List Nat) (s : State) : State :=
  (s.setFld F.PWR_MEAS_P_EST 0 (min (l.foldl (· + ·) 0) 65535)).modPwr (fun p =>
    { p with est := (l.take 16).zipIdx.foldl (fun m e => smSet 0 e.2 e.1 m) [] })

/-- No limit holds the work back: rails are up and no token is held. -/
def unlimited (s : State) : Bool :=
  s.pwr.drop = 0 && s.pwr.cool.isEmpty && s.pwr.paced.isEmpty && !(isoOn s)

/-- The demand: what the work in progress would draw with no limit active. While nothing holds the work back that is what it
draws, so it follows the power that control reads, less ballast; else `x`. -/
def demandOf (x : Nat) (s : State) : Nat := if unlimited s then powerNow s - s.fld F.PWR_THR_STAT_BALLAST else x

/-- R329: the cores whose tokens pacing holds back. The Calender paces only where the work would exceed the target with every
core rail at 0.55 V; it chooses which (`l`), and chooses all where the power is above the target and none is named. -/
def paceCores (l : List Nat) (s : State) : List Nat :=
  let on := wideLimits (activeLimits (allLimits s).1 s)
  if on.isEmpty || !(railsLow s) then []
  else if l.isEmpty && lowest on < powerNow s then List.range 192 else l

/-- CALENDER_FAST_LOOP: 1 µs after the last. In measurement-only control the estimates are not used (R337). -/
def opFastLoop (x : FastIn) (s : State) : State :=
  let s := passTo (s.pwr.loopAt + 1000) s
  let t := s.now
  let tj := s.pwr.tj
  let s := moveCap (s.modPwr (fun p => { p with loopAt := t }))
  let s := takeTemps x.tj x.hbmTj x.air s
  let s := takeEst x.est s
  let s := s.modPwr (fun p => { p with demand := demandOf x.demand s })
  let s := if ready s then rampEvent (hotFall tj s) else s.modPwr (fun p => { p with force := p.demand })
  let s := (List.range 16).foldl (fun s d => coolDie d s) s
  let s := s.modPwr (fun p => { p with regLimit := x.regLimit, droop := x.droop, under := p.under && x.droop })
  let s := if measOnly s then throttle s else control s
  let held := hotCores s
  let pace := (paceCores (x.paced.map (·.val)) s).filter (fun c => !(held.contains c)) ++ held
  let s := s.modPwr (fun p => { p with paced := pace })
  if ready s && s.pwr.demand < s.pwr.force then fillTo s.pwr.force s else s.setFld F.PWR_THR_STAT_BALLAST 0 0

/-! ## Measurement: R325, R337 -/

/-- R16, R327: what a 10 µs interval may draw: at most 3,300 W, no more than CAP_EFF after 2 ms in a row above it, and no
more than keeps the average over 100 ms within the cap in force. -/
def powerRoom (s : State) : Nat :=
  let cap := capEff s
  let run := if 200 ≤ s.pwr.runAbove then min 3300 cap else 3300
  min run (Int.ofNat cap - s.pwr.excess.foldl (· + ·) 0).toNat

/-- R331: from host ready on, the most and the least that a 10 µs interval may draw, so that the average over this ms stays
within PWR_RAMP_UP and PWR_RAMP_DN of that over the last; while an exception lets power fall there is no least. -/
def rampRoom (s : State) : Nat × Nat :=
  match s.pwr.msPrev with
  | some q =>
    if ready s then
      (q + 100 * s.fld F.PWR_RAMP_UP_RATE - s.pwr.msSum,
       if s.pwr.msFree = 0 then q - 100 * s.fld F.PWR_RAMP_DN_RATE - s.pwr.msSum - (99 - s.pwr.msCnt) * 3300 else 0)
    else (65535, 0)
  | none => (65535, 0)

/-- What an interval draws when the outside asks for w W: within the ramp of R331, and above all within R16 and R327. -/
def powerDrawn (w : Nat) (s : State) : Nat := min (powerRoom s) (max (rampRoom s).2 (min w (rampRoom s).1))

/-- An interval drew p W: the run above CAP_EFF, the 100 ms less the next interval, and the ms, of 100 intervals. -/
def noteInterval (p : Nat) (s : State) : State :=
  let cap := capEff s
  s.modPwr (fun x => { x with
    msSum := if 99 ≤ x.msCnt then 0 else x.msSum + p
    msCnt := if 99 ≤ x.msCnt then 0 else x.msCnt + 1
    msPrev := if 99 ≤ x.msCnt then some (x.msSum + p) else x.msPrev
    msFree := if 99 ≤ x.msCnt then x.msFree - 1 else x.msFree
    runAbove := if cap < p then x.runAbove + 1 else 0
    excess := ((Int.ofNat p - Int.ofNat cap) :: x.excess).take 9999 })

/-- POWER_MEASUREMENT, 10 µs after the last: the input power of the interval in W, which stays within R327 and R331, and the input
voltage in 10 mV. The reading is within 0.5 % (R325). -/
def opMeasure (w vin : Nat) (s : State) : State :=
  let s := passTo (s.pwr.measAt + 10000) s
  let t := s.now
  let s := moveCap (s.modPwr (fun p => { p with measAt := t }))
  let p := powerDrawn w s
  let (i, s) := (noteInterval p s).fresh
  let w := p - p / 201 + Config.freeNat i % (2 * (p / 201) + 1)
  let s := s.setFld F.PWR_MEAS_P_MEAS 0 w |>.setFld F.PWR_MEAS_VIN 0 vin
  let amps := s.fld F.PWR_ILIM_AMPS
  let lim := amps * vin / 100
  let est := s.fld F.PWR_MEAS_P_EST
  let off := decide (15 * capEff s < ((est - w) + (w - est)) * 100)
  let s := s.modPwr (fun p => { p with
    current := if amps * vin < w * 100 then some lim else none
    low := vin < 5400
    corr := Int.ofNat w - Int.ofNat est
    differ := if off then (match p.differ with | some d => some d | none => some t) else none
    agree := if off then t else p.agree })
  let enter : Bool := match s.pwr.differ with | some d => d + 1000000 < t && !(measOnly s) | none => false
  let s := if enter then
      report mgMeasOnly 0 ((s.setFld F.PWR_EVT_ESTIMATE 0 1).setFld F.PWR_THR_STAT_MEASONLY 0 1)
    else s
  if measOnly s then control s else throttle s

/-- MEASUREMENT_ONLY_EXIT: 100 ms after estimate and measurement last disagreed. -/
def opMeasExit (s : State) : State :=
  if !(measOnly s) || s.pwr.differ.isSome then s
  else throttle ((passTo (s.pwr.agree + 100000000) s).setFld F.PWR_THR_STAT_MEASONLY 0 0)

/-! ## Ramps and hints: R331, R333, R334 -/

/-- The level a pending hint asks for, and when its pre-ramp begins, computed now. -/
def planHint (h : HintSt) (s : State) : Nat × HintSt :=
  let p := s.pwr.demand
  let pre := min (min h.load (capEff s)) (p + ballastAvail s)
  let up := (pre - p) * 1000000 / s.fld F.PWR_RAMP_UP_RATE + s.fld F.PWR_PHASE_SLOT * s.fld F.PWR_PHASE_WIDTH * 1000
  (pre, { h with from_ := h.start - up })

/-- The largest level that pending hints ask for now. -/
def hintLevel (s : State) : Nat :=
  s.pwr.hints.foldl (fun m h => if h.from_ ≤ s.now && s.now < h.start && s.pwr.demand < h.load then max m (planHint h s).1 else m) 0

/-- RAMP_INTERVAL, 1 ms after the last: power, and the guard band of R337, move towards what is wanted by at most the rates of one interval. A rise in
demand waits for the phase slot; the pre-ramp of a hint does not. -/
def opRamp (s : State) : State :=
  let s := passTo (s.pwr.rampAt + 1000000) s
  let t := s.now
  let s := moveCap (s.modPwr (fun p => { p with rampAt := t, fell := 0, rose := 0 }))
  let band := if measOnly s then capEff s / 20 else 0
  let g := if s.pwr.guard < band then min band (s.pwr.guard + s.fld F.PWR_RAMP_DN_RATE)
    else max band (s.pwr.guard - s.fld F.PWR_RAMP_UP_RATE)
  let s := s.modPwr (fun p => { p with guard := g })
  let hs := (s.pwr.hints.filter (fun h => s.now < h.stop)).map (fun h => (planHint h s).2)
  let s := s.modPwr (fun p => { p with hints := hs })
  let pre := hintLevel s
  let waiting : Bool := match s.pwr.slotEnd with | some t => decide (s.now < t) | none => false
  let force := s.pwr.force
  let goal := min (capEff s) (max pre (if waiting then min s.pwr.demand force else s.pwr.demand))
  let s :=
    if force ≤ goal then
      let up := min goal (force + s.fld F.PWR_RAMP_UP_RATE)
      s.modPwr (fun p => { p with force := up })
    else
      let dn := max goal (force - s.fld F.PWR_RAMP_DN_RATE)
      s.modPwr (fun p => { p with force := dn })
  let s := if ready s && s.pwr.demand < s.pwr.force then fillTo s.pwr.force s else s.setFld F.PWR_THR_STAT_BALLAST 0 0
  throttle (if ready s then s else s.modPwr (fun p => { p with force := p.demand }))

/-- PHASE_SLOT_EXPIRY: the delay of a ramp-up event ends. -/
def opSlotEnd (s : State) : State :=
  match s.pwr.slotEnd with
  | none => s
  | some t => (passTo t s).modPwr (fun p => { p with slotEnd := none })

/-- A HINT descriptor (R209, R334): at most 16 pend. -/
def takeHint (d : List Byte) (s : State) : State :=
  let lead := fieldLe d 8 4
  let dur := fieldLe d 12 4
  let start := s.now + lead * 1000
  if dur = 0 then s
  else
    let hs := s.pwr.hints.filter (fun h => s.now < h.stop)
    let h : HintSt := ⟨0, start, start + dur * 1000, min (fieldLe d 16 2) (capEff s)⟩
    if 16 ≤ hs.length then s.setFld F.PWR_EVT_HINT_DROP 0 1
    else
      let h := (planHint h s).2
      s.modPwr (fun p => { p with hints := hs ++ [h] })

/-- HINT (Table 9.6): dispatched, in effect and complete at once. -/
def opHint (r : Nat) (s : State) : State :=
  atDispatch r (· == 0x28) (fun d s => okDesc r d.seq 0 false (takeHint d.bytes s)) s

/-! ## Rates: R339 to R341, R343 -/

def insertNat (x : Nat) : List Nat → List Nat
  | [] => [x]
  | y :: l => if x ≤ y then x :: y :: l else y :: insertNat x l

def sortNat (l : List Nat) : List Nat := l.foldr insertNat []

/-- The reference rate of a die: the seventh-lowest of the compute dies or the third-lowest of the base dies, of those
that THERM does not hold; the highest where fewer are left. -/
def refRate (rate : Nat → Nat) (d : Nat) (s : State) : Nat :=
  let dies := if d < 12 then List.range 12 else (List.range 4).map (12 + ·)
  let l := sortNat ((dies.filter (fun k => !(bitN s.pwr.hot k))).map rate)
  (l[(if d < 12 then 6 else 2)]?).getD (l.getLast?.getD 0)

/-- R343: a compute die below 1.48 G steps/s misses the iso rate; each miss is reported when it begins. -/
def isoCheck (d rate : Nat) (s : State) : State :=
  let miss := decide (rate < 1480)
  let was := bitN s.pwr.isoMiss d
  let s := s.modPwr (fun p => { p with isoMiss := setBitsN p.isoMiss d 1 (if miss then 1 else 0) })
  if miss && !was then outlier 4 0 d ((1480 - rate) * 1000 / 1480) (s.setFld F.PWR_EVT_ISO_MISS 0 1) else s

/-- Since when, plus 1, a condition has held, given whether it holds now. -/
def sinceWhen (hold : Bool) (t old : Nat) : Nat := if !hold then 0 else if old = 0 then t + 1 else old

/-- EQUALISATION of one die. A die held by THERM is out of the comparison, and whether it stays below its reference starts
anew after it. Whether a die at the clamp stays below its factory rate is timed with ageing trims on or off (R341). -/
def equalise (rate : Nat → Nat) (d : Nat) (s : State) : State :=
  let s := s.setFld F.PWR_DIE_RATE d (rate d)
  let old := decide (rate d < factoryRate s d) && railClamped s d
  let now := s.now
  let s := s.modPwr (fun p => { p with aged := smSet 0 d (sinceWhen old now (smGet 0 p.aged d)) p.aged })
  let s := if isoOn s && d < 12 then isoCheck d (rate d) s else s
  if bitN s.pwr.hot d then s.modPwr (fun p => { p with slow := smSet 0 d 0 p.slow })
  else
    let ref := refRate rate d s
    let e := smGet 0 s.pwr.eq d
    let below := decide (rate d * 100 < 99 * ref)
    let e := if !(s.flag F.PWR_RAIL_CTL_EQ_EN) then e
      else if below then min 20 (e + 1)
      else if 995 * ref < rate d * 1000 then e - 1 else e
    let s := showDie d (s.modPwr (fun p => { p with eq := smSet 0 d e p.eq }))
    let t := s.now
    let slow := below && (e = 20 || railClamped s d)
    let def_ := (ref - rate d) * 1000 / max ref 1
    s.modPwr (fun p => { p with
      slow := smSet 0 d (sinceWhen slow t (smGet 0 p.slow d)) p.slow
      deficit := smSet 0 d def_ p.deficit })

def rateOf (l : List Nat) (d : Nat) : Nat := l.getD d 0

/-- EQUALISATION (R339), 1 ms after the last: replica rates of the 16 dies over that ms, in M steps/s. -/
def opEqualise (l : List Nat) (s : State) : State :=
  let s := passTo (s.pwr.eqAt + 1000000) s
  let t := s.now
  let s := s.modPwr (fun p => { p with eqAt := t })
  throttle ((List.range 16).foldl (fun s d => equalise (rateOf l) d s) s)

def outlierDie (cause d deficit : Nat) (s : State) : State :=
  if d < 12 then outlier cause 0 d deficit s else outlier cause 1 (d - 12) deficit s

/-- AGEING_TRIM of one die: a rate at VMAX below the factory's raises the trim, up to 40 mV. -/
def ageDie (rate : Nat → Nat) (d : Nat) (s : State) : State :=
  let f := factoryRate s d
  let k := smGet 0 s.pwr.trim d
  let below := decide (rate d < f)
  let clamp := railClamped s d
  let up := below && !clamp && k < 16
  let s := if up then showDie d (s.modPwr (fun p => { p with trim := smSet 0 d (k + 1) p.trim })) else s
  if up && k = 15 then outlierDie 1 d ((f - rate d) * 1000 / max f 1) s else s

/-- AGEING_TRIM (R340), 1 hour after the last: replica rates of the 16 dies at VMAX. What the margin monitors read is CORE_MARGIN_STAT at any time
(Config.margins). -/
def opAgeing (l : List Nat) (s : State) : State :=
  if !(s.flag F.PWR_RAIL_CTL_TRIM_EN) then s
  else
    let s := passTo (s.pwr.trimAt + 3600000000000) s
    let t := s.now
    throttle ((List.range 16).foldl (fun s d => ageDie (rateOf l) d s) (s.modPwr (fun p => { p with trimAt := t })))

/-- RATE_OUTLIER (R341): a die slow for 100 ms, or below its factory rate at the clamp for 1 hour. -/
def opOutlier (d : Nat) (ageing : Bool) (s : State) : State :=
  let since := smGet 0 (if ageing then s.pwr.aged else s.pwr.slow) d
  if since = 0 then s
  else if ageing then
    let s := passTo (since - 1 + 3600000000000) s
    outlierDie 1 d ((factoryRate s d - s.fld F.PWR_DIE_RATE d) * 1000 / max (factoryRate s d) 1)
      (s.modPwr (fun p => { p with aged := smSet 0 d 0 p.aged }))
  else
    let s := passTo (since - 1 + 100000000) s
    outlierDie 0 d (smGet 0 s.pwr.deficit d) (s.modPwr (fun p => { p with slow := smSet 0 d 0 p.slow }))

/-- ISO_RATE_CHANGE (R343): at the next 1 ms boundary the mode in force becomes the one requested; dies that cannot reach
1.48 G steps/s are reported. The rates are what the compute dies can reach. -/
def opIso (l : List Nat) (s : State) : State :=
  let t := s.tbase + ceilDiv s.timebase 1000000 * 1000000
  let s := passTo t s
  let on := s.flag F.PWR_ISO_CTL_EN
  let s := s.setFld F.PWR_ISO_CTL_ACTIVE 0 (if on then 1 else 0)
  let s := if on then (l.take 12).zipIdx.foldl (fun s (e : Nat × Nat) => isoCheck e.2 e.1 s) s
    else s.modPwr (fun p => { p with isoMiss := 0 })
  throttle s

/-! ## Trips, coolant, alerts -/

/-- THERMTRIP (R345): the rails go off and the latch is set. -/
def opTrip (d : Nat) (s : State) : State :=
  let s := s.setFld F.PWR_DIE_TJ d 115
  s.modRst (fun r => { r with trip := true, off := true })

/-- ALERT_N is driven low (R338). Before step 8 of boot the pin is released (Table 17.3). -/
def alertLow (s : State) : Bool :=
  ready s && ((s.flag F.PWR_ALERT_MASK_MEASONLY && measOnly s) || (s.flag F.PWR_ALERT_MASK_THERM && (s.pwr.hot != 0 || s.pwr.airHot)) ||
    (s.flag F.PWR_ALERT_MASK_COOLANT && s.pwr.coolant) || (s.flag F.PWR_ALERT_MASK_OUTLIER && s.flag F.PWR_EVT_OUTLIER))

/-! ## Rate monitor: R22, R23 -/

/-- RATE_WINDOW_END: a window of core c ends, at the boundary that is due or else at the next one, having counted `replica`
steps of the replica loop. -/
def opWindow (c replica : Nat) (s : State) : State :=
  if !(s.flag F.CORE_RATE_CTL_EN c) then s
  else windowsNow c (some replica) (passTo (s.tbase + nextWindow s c) s)

/-- RAIL_UNDERVOLTAGE (R22): fatal, and VOLT is active until the rail no longer droops, at any demand. Table 18.4 lists no
rail supervisor: the record names the Calender (KIND 9) and the die (DESIGN CHOICE, assumption 147). -/
def opUndervolt (d : Nat) (s : State) : State :=
  fatal 9 d 1 0 (throttle (s.modPwr (fun p => { p with droop := true, under := true })))

/-! ## The rows -/

/-- BALLAST_STEP (R80). -/
def execBallastStep (c : CoreId) (s : State) : Answer := run s (opBallast c s)

/-- HINT (R334). -/
def execHint (r : RingId) (s : State) : Answer := run s (opHint r s)
/-- CALENDER_FAST_LOOP (R329). -/
def execCalenderFastLoop (x : FastIn) (s : State) : Answer := run s (opFastLoop x s)
/-- POWER_MEASUREMENT (R325). -/
def execPowerMeasurement (w v : Fin 65536) (s : State) : Answer := run s (opMeasure w v s)
/-- MEASUREMENT_ONLY_EXIT (R337). -/
def execMeasurementOnlyExit (s : State) : Answer := run s (opMeasExit s)
/-- RAMP_INTERVAL (R331). -/
def execRampInterval (s : State) : Answer := run s (opRamp s)
/-- PHASE_SLOT_EXPIRY (R333). -/
def execPhaseSlotExpiry (s : State) : Answer := run s (opSlotEnd s)
/-- EQUALISATION (R339). -/
def execEqualisation (l : List (Fin 65536)) (s : State) : Answer := run s (opEqualise (l.map (·.val)) s)
/-- AGEING_TRIM (R340). -/
def execAgeingTrim (l : List (Fin 65536)) (s : State) : Answer := run s (opAgeing (l.map (·.val)) s)
/-- RATE_OUTLIER (R341). -/
def execRateOutlier (d : DieId) (a : Bool) (s : State) : Answer := run s (opOutlier d a s)
/-- ISO_RATE_CHANGE (R343). -/
def execIsoRateChange (l : List (Fin 65536)) (s : State) : Answer := run s (opIso (l.map (·.val)) s)
/-- PWR_CAP (R326). -/
def execPwrCap (v : BitVec 32) (s : State) : Answer := runHost s (opPwrCap v.toNat s)
/-- THERMTRIP (R345): the analogue path needs only standby power. -/
def execThermtrip (d : DieId) (s : State) : Answer := always s (if s.rst.vsb && !s.rst.off then opTrip d s else s)
/-- COOLANT_OUT_OF_RANGE (R346). -/
def execCoolantOutOfRange (s : State) : Answer :=
  run s ((s.setFld F.PWR_EVT_COOLANT 0 1).modPwr (fun p => { p with coolant := true }))
/-- COOLANT_IN_RANGE (R346). -/
def execCoolantInRange (s : State) : Answer := run s (s.modPwr (fun p => { p with coolant := false }))
/-- RATE_WINDOW_END (R23). -/
def execRateWindowEnd (c : CoreId) (n : Fin 16777216) (s : State) : Answer := run s (opWindow c n s)
/-- RAIL_UNDERVOLTAGE (R22). -/
def execRailUndervoltage (d : Fin 16) (s : State) : Answer := run s (opUndervolt d s)

end Sys2Proof.Machine
end

