-- ==== Sys2Proof/Machine/Boot.lean ====
section
/-! DEFINITION. Boot (R359 to R363, R311, R316, R393 to R395): the steps of Table 17.4, and the measurements of the root of
trust. -/

namespace Sys2Proof.Machine

/-! ## Step 2: OTP -/

/-- Phase slot of a node (R333). -/
def phaseSlot (id : Nat) : Nat := (id ^^^ (id / 64) ^^^ (id / 4096)) % 64

/-- Whether a boot step may run: the one before it is complete and boot has not stopped. -/
def bootAt (s : State) (n : Nat) : Bool := bootStep s = n && !(bootFailed s) && !(ready s)

/-- Records in force, OTP_GEN (Table 17.12). -/
def loadGens (s : State) : State :=
  let v := (List.range 6).foldl (fun v k =>
    match otpNewest s (k + 1) with
    | some g => v + (g + 4) * 16 ^ k
    | none => v) 0
  s.setReg .OTP_GEN 0 (wN v)

/-- Reset values that the records give (Tables 17.6, 21.3, 21.4). -/
def applyOtp (s : State) : State :=
  let s := (s.setFld F.DEV_ID_REV 0 (otpBody s 1 11)).setFld F.DEV_ID_STEP 0 (otpBody s 1 10)
  let s := (s.setFld F.DEV_PART_NNNN 0 (otpField s 1 8 2)).setFld F.DEV_PART_WEEK 0 (otpField s 1 12 2)
  let s := s.setReg .DEV_SERIAL 0 (wN (otpField s 1 0 8))
  let en := otpField s 4 0 2
  let med := otpField s 4 2 2
  let s := (List.range 16).foldl (fun s p =>
    (s.setFld F.LNK_CTL_EN p (if bitN en p then 1 else 0)).setFld F.LNK_CTL_MEDIUM p (if bitN med p then 1 else 0)) s
  let id := otpField s 6 0 2
  let s := (s.setFld F.FAB_NODE_ID 0 id).setFld F.PWR_PHASE_SLOT 0 (phaseSlot id)
  (List.range 4).foldl (fun s d =>
    let b := otpBody s 6 (2 + d)
    let s := (s.setFld F.FAB_DIM_CFG_SIZE d (b % 16)).setFld F.FAB_DIM_CFG_WRAP d (bitsN b 4 1)
    setDefaultRt d (s.setFld F.FAB_DIM_CFG_DATELINE d (b % 16))) s

/-- OTP_LOAD: step 2. -/
def opOtpLoad (s : State) : State :=
  if !(bootAt s 1) then s
  else
    let s := loadGens s
    if [1, 2, 5].any (fun t => (otpInForce s t).isNone) then bootFail 1 s
    else bootTo 2 (applyOtp s)

/-! ## Step 3: firmware -/

def slotImage (s : State) (b : Bool) : FwImage := if b then s.sec.slotB else s.sec.slotA

/-- The key hash of the record in force that a public key matches; a hash of zeros matches none. -/
def keyMatch (s : State) (key : List Byte) : Option Nat :=
  let h (k : Nat) : List Byte := (List.range 48).map (fun i => BitVec.ofNat 8 (otpBody s 5 (48 * k + i)))
  let d := Config.sha384 key
  if d = h 0 && !((h 0).all (· == 0)) then some 0
  else if d = h 1 && !((h 1).all (· == 0)) then some 1 else none

/-- R393: the key hash under which an image is valid. The factory's image carries KGEN 0 and a key of the factory's record;
which of its two hashes that key has is free. -/
def imageValid (s : State) (m : FwImage) : Option Nat :=
  match m with
  | .erased => none
  | .factory => if otpInForce s 5 = some 0 then some (Config.freeNat s.free % 2) else none
  | .written l =>
    let b := l.flatten
    if some (leNat (Config.imageField 0 b)) = otpInForce s 5 then
      match keyMatch s (Config.imageField 2 b) with
      | some k => if Config.verify (Config.imageField 2 b) (Config.sha384 b) (Config.imageField 3 b) then some k else none
      | none => none
    else none

/-- The bytes of an image, which its measurement covers. -/
def imageBytes (m : FwImage) : List Byte :=
  match m with | .written l => l.flatten | .factory => Config.factoryImage | .erased => []

def imageVersion (m : FwImage) : Nat := leNat (Config.imageField 1 (imageBytes m)) % 2 ^ 32


def setMeas (i : Nat) (d : List Byte) (s : State) : State :=
  s.modSec (fun x => { x with meas := smSet [] i d x.meas })

/-- Digest 2: records in force of types 1, 2, 5 and 6, in type order. -/
def otpDigest (s : State) : List Byte :=
  Config.sha384 ([1, 2, 5, 6].flatMap (fun t => (List.range (otpSize t - 8)).map (fun i => BitVec.ofNat 8 (otpBody s t i))))

/-- Digest 4 (Table 20.2): the guest's presence, its identity, and every window register. -/
def guestDigest (s : State) : List Byte :=
  Config.sha384 (natLe 1 (s.fld F.D2D_GUEST_STAT_PRESENT) ++ natLe 4 (s.reg .D2D_DIE_ID 16).toNat ++ (List.range 16).flatMap (fun w =>
    natLe 8 (s.reg .D2D_GW_BASE w).toNat ++ natLe 8 (s.reg .D2D_GW_TGT w).toNat ++ natLe 4 (s.reg .D2D_GW_CTL w).toNat))

/-- Digest 5: EN and ACTIVE of every port. -/
def linkDigest (s : State) : List Byte :=
  Config.sha384 ((List.range 16).flatMap (fun p =>
    natLe 1 (s.fld F.SEC_LNK_CTL_EN p + 2 * s.fld F.SEC_LNK_CTL_ACTIVE p)))

/-- The digest of an index (Table 20.2): 1 to 3 are fixed at step 3, 4 and 5 follow what they cover (R395). -/
def measOf (s : State) (i : Nat) : List Byte :=
  if bootStep s < 3 then [] else if i = 4 then guestDigest s else if i = 5 then linkDigest s else smGet [] s.sec.meas i

/-- FIRMWARE_VERIFICATION: step 3. In recovery the management controller stays in the boot ROM (R362). -/
def opFirmware (s : State) : State :=
  if !(bootAt s 2) then s
  else
    let a := s.sec.active
    let va := imageValid s (slotImage s a)
    let vb := imageValid s (slotImage s !a)
    let runIt (b : Bool) (k : Nat) (fallback alt : Bool) (s : State) : State :=
      let m := slotImage s b
      let kgen := match m with | .written l => leNat (Config.imageField 0 l.flatten) % 4 | _ => 0
      let v := (if b then 1 else 0) + 2 * k + 4 * kgen + (if fallback then 16 else 0) + (if alt then 32 else 0) +
        imageVersion m * 65536
      let s := s.setReg .SEC_BOOT_STAT 0 (wN v)
      let s := setMeas 3 (Config.sha384 (imageBytes m)) (setMeas 2 (otpDigest s) (setMeas 1 (Config.sha384 Config.romImage) s))
      bootTo 3 { s with free := s.free + 2 }
    match va, vb with
    | some k, v => runIt a k false v.isSome s
    | none, some k => runIt (!a) k true false s
    | none, none => bootFail 2 (s.modSec (fun x => { x with recovery := true }))

/-! ## Step 4: dies and die-to-die paths -/

/-- R311: whether the straps of the die at place k are in order by themselves: parity even over nine bits, the type of
the place, and fields in range. -/
def strapOk (k : Nat) (x : Nat) : Bool :=
  ((List.range 9).filter (fun i => bitN x i)).length % 2 = 0 &&
  (if k < 4 then bitsN x 0 2 = 0 else bitsN x 0 2 = 1 && bitsN x 4 4 < 12)

/-- Dies whose straps fail: their own checks, and those that base die b makes of the compute dies on it. -/
def strapErrors (straps : Nat → Option Nat) : List Nat :=
  (List.range 16).filter (fun k =>
    match straps k with
    | none => k < 4
    | some x =>
      if !(strapOk k x) then true
      else if k < 4 then
        (List.range 3).any (fun j => (straps (4 + 3 * k + j)).isNone)
      else
        match straps ((k - 4) / 3) with
        | some b => bitsN x 4 4 / 3 != bitsN b 2 2
        | none => false)

/-- Entries of the lane repair record in force: module and lane. -/
def repairs (s : State) : List (Nat × Nat) :=
  (List.range (min (otpBody s 3 0) 39)).map (fun i =>
    let e := otpField s 3 (1 + 3 * i) 3
    (bitsN e 0 15, bitsN e 15 6))

/-- A bad lane of a module, found at boot. -/
def markLane (s : State) (e : Nat × Nat) : State :=
  if e.1 < 14464 && e.2 < 36 then s.modMod e.1 (fun m => { m with bad := m.bad ||| 2 ^ e.2 }) else s

/-- Modules take their states; a pair dies together (R315). -/
def trainModules (s : State) : State :=
  let xs := s.d2d.mods.map (·.1)
  let dead (x : Nat) : Bool := laneState (s.d2dMod x).bad = mDEAD
  let all := xs ++ ((xs.filter dead).map d2dPair).filter (fun y => !(xs.contains y))
  let st (x : Nat) : Nat := if dead x || dead (d2dPair x) then mDEAD else laneState (s.d2dMod x).bad
  all.foldl (fun s x => newModState x (st x) s) s

/-- The value of D2D_BR_ROLE with n0, n1 and n2 blocks of VAT, COL and FAB, and the rest GUEST, in this order. -/
def rolesOf (n0 n1 n2 : Nat) : Nat :=
  (List.range 32).foldl (fun v j => v + (if j < n0 then 0 else if j < n0 + n1 then 1 else if j < n0 + n1 + n2 then 2 else 3) * 4 ^ j) 0

/-- The paths of a compute die (both directions), and of a base die its bridges. -/
def diePaths (k : Nat) : List Nat :=
  if k < 4 then (List.range 8).filterMap (fun q =>
    let e := ([(0, 1), (2, 3), (0, 2), (1, 3)][q / 2]?).getD (0, 0)
    if e.1 = k || e.2 = k then some (24 + q) else none)
  else [2 * (k - 4), 2 * (k - 4) + 1]

/-- D2D_TRAINING: the presence pin of the guest port, straps of the dies at places 0 to 15, and the lanes that fail the test.
Modules train first; then each base die checks the compute dies on it (R311). On a guest variant the six paths that R12 uses
to and from the hub have GUEST blocks (R320). -/
def opD2dTraining (guest : Bool) (straps : Nat → Option Nat) (bad : List (Nat × Nat)) (s : State) : State :=
  if !(bootAt s 3) then s
  else
    let s := s.modD2d (fun d => { d with guest := guest })
    let s := if guest then [0, 1, 3, 4, 5, 6].foldl (fun s q => s.setReg .D2D_BR_ROLE q (wN (rolesOf 24 2 4))) s else s
    let rec_ := repairs s
    let bad := bad.filter (fun e => pathFitted s (d2dPath e.1))
    let s := (rec_ ++ bad).foldl markLane s
    let s := (bad.filter (fun e => !(rec_.contains e))).foldl (fun s e => report mgOther (e.1 * 64 + e.2) s) s
    let s := (List.range 34).foldl (fun s p => if pathFitted s p then pathStat p s else s) (trainModules s)
    let s := if guest then
        (s.setReg .D2D_DIE_ID 16 (wN 0x102)).setFld F.D2D_GUEST_STAT_PRESENT 0 1 |>.setFld F.DEV_PART_GUEST 0 1
      else s
    let errs := strapErrors straps
    let s := (List.range 16).foldl (fun s k =>
      let err := if errs.contains k then 512 else 0
      s.setReg .D2D_DIE_ID k (wN (match straps k with
        | some x => x % 256 + (if (diePaths k).any (pathLive s) then 256 else 0) + err
        | none => err))) s
    if !errs.isEmpty then bootFail 3 (s.setFld F.D2D_EVT_STRAP 0 1)
    else if (List.range 34).any (fun p => pathFitted s p && !(pathLive s p)) then bootFail 4 s
    else bootTo 4 s

/-! ## Steps 6 to 8 -/

/-- COMPUTE_SELFTEST: step 6. Enabled ports then start to train. -/
def opSelftest (failed : Bool) (s : State) : State :=
  if !(bootAt s 5) then s
  else if failed then bootFail 6 s
  else
    let s := bootTo 6 s
    (List.range 16).foldl (fun s p =>
      if s.flag F.LNK_CTL_EN p then startTrain p (s.fld F.LNK_CTL_MAXRATE p) s else s) s

/-- R9: what hardware shows in PWR_MEAS.VIN and in TJ and RATE of PWR_DIE by host ready are readings: free. -/
def hwFields (s : State) : State :=
  let (i, s) := s.fresh
  let s := s.setFld F.PWR_MEAS_VIN 0 (Config.freeNat i % 2 ^ 16)
  (List.range 16).foldl (fun s d =>
    let (i, s) := s.fresh
    let (j, s) := s.fresh
    let t := Config.freeNat i % 106
    (s.setFld F.PWR_DIE_TJ d t |>.setFld F.PWR_DIE_RATE d (Config.freeNat j % 2 ^ 16)).modPwr (fun p =>
      { p with tj := smSet 0 d t p.tj })) s

/-- HOST_READY: step 8. Counters count again (R383). -/
def opHostReady (s : State) : State :=
  if !(bootAt s 7) then s
  else
    let t := s.now
    let s := hwFields ((bootTo 8 s).setFld F.DEV_BOOT_STAT_READY 0 1)
    let s := s.modPwr (fun p => { p with rampAt := t })
    (s.setFld F.DEV_NUM_CTL_STRICT_AUTO 0 0).modDbg (fun d => { d with off := false })

end Sys2Proof.Machine
end

