-- ==== Sys2Proof/Machine/Debug.lean ====
section
/-! DEFINITION. Debug and profiling (chapter 19): samples and resets of counter banks, the trace window and drain, wait
descriptors, the wait-for graph, and halting a core. -/

namespace Sys2Proof.Machine

/-! ## Counter banks: R379 to R382 -/

/-- Who may sample and reset a bank (Table 19.1). -/
def snapMay (s : State) (ctx bank : Nat) : Bool :=
  if bank < 192 then ctx = 0 || coreCtx s bank = some ctx else bank ≤ 193 && ctx = 0

def bankSize (bank : Nat) : Nat := if bank < 192 then 16 else if bank = 192 then 80 else 8

/-- Increments that the model does not count as they happen are folded in before an arbitration: VAT_LINES of a slice and
the reads of a stack that engines cause, whose amounts depend on banking and on the lines that the memory-side buffers keep,
which the spec leaves open. Only a slice or stack that was accessed since the last fold has any (R380, R381). -/
def foldFree (bank : Nat) (s : State) : State :=
  if bank != 192 then s
  else
    let l := setBits s.dbg.touched 24
    let s := s.modDbg (fun d => { d with touched := 0 })
    l.foldl (fun s j => let (i, s) := s.fresh; count bank j (Config.freeNat i) s) s

def bankValue (s : State) (bank k : Nat) : Nat :=
  if bank = 193 then (s.reg .PWR_THR_NS k).toNat else (smGet 0 s.dbg.banks (bank * 128 + k)).toNat

def epochOf (s : State) (bank : Nat) : Nat := (smGet 0 s.dbg.epochs bank).toNat

/-- Table 19.4. -/
def snapBytes (bank op status epoch time : Nat) (vals : List Nat) : List Byte :=
  natLe 2 bank ++ natLe 1 op ++ natLe 1 status ++ natLe 4 epoch ++ natLe 8 time ++ natLe 4 vals.length ++
  List.replicate 44 0 ++ vals.flatMap (natLe 8)

/-- A write of DBG_SNAP_CMD (Table 19.10) by the PF or context n's function: GO submits OP, noting whether the request is
permitted at this moment. The table gives no moment at which hardware clears GO: it never reads 1 (DESIGN CHOICE,
assumption 145), BUSY shows the work. -/
def opSnapCmd (ctx n v : Nat) (s : State) : State :=
  let busy := s.flag F.DBG_SNAP_CMD_BUSY n
  let s := s.regWrite .DBG_SNAP_CMD n (setBitsN v 10 1 0)
  let op := s.fld F.DBG_SNAP_CMD_OP n
  if !(bitN v 10) || busy || op = 0 then s
  else
    let b := s.fld F.DBG_SNAP_CMD_BANK n
    let ok := snapMay s ctx b
    let t := s.now
    let s := s.setFld F.DBG_SNAP_CMD_BUSY n 1
    s.modDbg (fun d => { d with snap := smSet none n (some (b, (if ok then op else op + 4), t)) d.snap })

/-- R381: of the requests for a bank that came in the same instant the lowest context's is taken first. -/
def snapFirst (s : State) (n bank t : Nat) : Bool :=
  !(s.dbg.snap.any (fun e => decide (e.1 < n) && match e.2 with | some (b, _, u) => b == bank && u == t | none => false))

/-- The arbitration of a request (R381), and its record (R382); `ok` says whether the record's write succeeds. -/
def opSnap (op n : Nat) (ok : Bool) (s : State) : State :=
  match smGet none s.dbg.snap n with
  | none => s
  | some (bank, o, t) =>
    if o % 4 != op || !(snapFirst s n bank t) then s
    else
      let s := s.modDbg (fun d => { d with snap := smSet none n none d.snap })
      let s := s.setFld F.DBG_SNAP_CMD_BUSY n 0
      let addr := s.fld F.DBG_SNAP_ADDR_ADDR n * 64
      let put (l : List Byte) (s : State) : State :=
        if ok then emit (.hostWrite n addr l false) s else s.setFld F.DBG_SNAP_CMD_FAIL n 1
      if 4 ≤ o then
        put (snapBytes bank op 1 (epochOf s bank) s.timebase []) (s.setFld F.DBG_SNAP_CMD_REFUSED n 1)
      else
        let s := foldFree bank s
        let vals := (List.range (bankSize bank)).map (bankValue s bank)
        let e := epochOf s bank
        let t := s.timebase
        let s := if op = 1 then s else resetBank bank s
        if op = 2 then put (snapBytes bank op 0 (epochOf s bank) t []) s else put (snapBytes bank op 0 e t vals) s

/-! ## Trace: R385, R386 -/

/-- Step rate of Table 2.1 at a rail, in M steps/s: between two lines of the table by the straight line through them, and beyond its
ends by the line at the end (DESIGN CHOICE, assumption 188). -/
def stepRate (mv : Nat) : Nat :=
  let t : List Nat := [1050, 1200, 1340, 1470, 1600, 1720, 1840, 1950]
  let v := min (max mv 550) 900 - 550
  let a := t.getD (v / 50) 0
  a + (t.getD (v / 50 + 1) a - a) * (v % 50) / 50

/-- TRACE_BUDGET_WINDOW: at the next 10 µs boundary, BUDGET, SRCMASK and RXSAMP as they stand apply. A slice's bandwidth follows its
base die's rail as the step rate does (R165), from 32 TB/s at 750 mV, and a path with folded or dead modules has the bandwidth
of D2D_PATH_STAT. -/
def opTraceWindow (s : State) : State :=
  let s := passTo (s.tbase + (s.timebase / 10000 + 1) * 10000) s
  let c := (s.reg .DBG_TRC_CTL 0).toNat
  let b := bitsN c 2 6
  let s := s.modDbg (fun d => { d with ctl := c, left := [] })
  let lim (u n : Nat) (s : State) : State := s.modDbg (fun d => { d with left := smSet 0 (64 + u) (n + 1) d.left })
  let s := (List.range 4).foldl (fun s k =>
    let v := s.fld F.PWR_DIE_VSET (12 + k)
    if v = 750 then s else lim k (b * 200 * stepRate v) s) s
  (List.range 8).foldl (fun s q =>
    let bw := s.fld F.D2D_PATH_STAT_BW (24 + q)
    if bw = 4096 || bw = 0 then s else lim (16 + q) (b * bw * 10) s) s

/-- TRACE_DRAIN_COMPLETE: part-filled lines are padded and written, with the LOST record that is due where one is, and EN reads 0. -/
def opTraceDrain (s : State) : State :=
  if !s.dbg.drain then s
  else
    let t := s.timebase
    let s := (List.range 4).foldl (fun s b =>
      if (smGet [] s.dbg.part b).isEmpty then s
      else if smGet 0 s.dbg.lost b = 0 then putRec b (recBytes ⟨t, 0, none, 0, 0, 0, 0⟩) s
      else putLost b t s) s
    (s.setFld F.DBG_TRC_CTL_EN 0 0).modDbg (fun d => { d with drain := false })

/-! ## Wait descriptors: R389 -/

/-- CORE_WAIT as a read returns it. -/
def coreWaitReg (s : State) (c : Nat) : Nat :=
  let (k, t, x) := coreWait s c
  k + (if t then 16 else 0) + x % 2 ^ 56 * 256

/-- CORE_DBG_CTL (R392). -/
def opHalt (c v : Nat) (s : State) : State :=
  stampWait (coreWait s c) c (s.regWrite .CORE_DBG_CTL c v)

/-! ## The wait-for graph: R390, R391 -/

def nkCORE : Nat := 1
def nkRING : Nat := 2
def nkWORD : Nat := 3
def nkEVENT : Nat := 4
def nkCOLL : Nat := 5
def nkQUEUE : Nat := 6
def nkTASKQ : Nat := 7
def nkREMOTE : Nat := 8
def nkHOST : Nat := 9
def nkRUN : Nat := 10

/-- Edges of cores. A queue is named by core * 4 + queue. -/
def coreEdges (s : State) : List Edge :=
  s.cores.filterMap (fun kv =>
    let c := kv.1
    let (k, take, x) := coreWait s c
    let t := kv.2.waitSince
    if k = 0 then some ⟨nkCORE, nkRUN, false, c, 0, t, 0⟩
    else if k = 1 then
      if bitN x 55 then some ⟨nkCORE, nkTASKQ, take, c, x % 1024, t, 0⟩ else some ⟨nkCORE, nkWORD, take, c, x, t, 0⟩
    else if k = 2 then some ⟨nkCORE, nkCOLL, take, c, x, t, 0⟩
    else if k = 3 || k = 4 then some ⟨nkCORE, nkQUEUE, false, c, c * 4 + x % 4, t, 0⟩
    else if k = 5 then some ⟨nkCORE, nkHOST, take, c, x % 1024, t, 0⟩
    else none)

/-- DEV_TIMEBASE at which a descriptor was dispatched. -/
def descSince (s : State) (r seq : Nat) : Nat :=
  match (s.ring r).find seq with | some d => d.started - s.tbase | none => 0

/-- Collective operations of rings that are in flight. -/
def ringCols (s : State) : List (Nat × Nat × ColOp) :=
  s.col.flatMap (fun kv => kv.2.ops.filterMap (fun o => o.ring.map (fun r => (r.1, kv.1, o))))

/-- Edges of rings. An event is named by context * 1024 + event, an operation by group + OPSEQ * 4096. -/
def ringEdges (s : State) : List Edge :=
  s.sync.waits.filterMap (fun w => match w.who with
    | .ring r seq => some ⟨nkRING, nkWORD, w.take, r, addrPword s w.addr, descSince s r seq, 0⟩
    | .tqRing r seq q _ _ => some ⟨nkRING, nkTASKQ, w.take, r, q, descSince s r seq, 0⟩
    | _ => none) ++
  s.fe.rings.flatMap (fun kv => kv.2.descs.filterMap (fun d =>
    if d.phase == .running && dOpcode d.bytes = 0x11 then
      some ⟨nkRING, nkEVENT, false, kv.1, ringCtx s kv.1 * 1024 + fieldLe d.bytes 8 2, d.started - s.tbase, 0⟩
    else none)) ++
  (ringCols s).map (fun e => ⟨nkRING, nkCOLL, false, e.1, e.2.1 + e.2.2.seq * 4096, e.2.2.since, 0⟩)

/-- The word an identifier names for a signal, if any. -/
def sidWord (s : State) (ctx sid : Nat) : Option Nat :=
  match (xlateSid ctx sid .signal s).1 with | .word a => some (addrPword s a) | _ => none

/-- The word a descriptor signals on completion. -/
def descWord (s : State) (r : Nat) (d : DescSt) : Option Nat :=
  let o := dOpcode d.bytes
  let off := if o = 1 || o = 2 then 36 else 48
  if o = 0x18 then sidWord s (ringCtx s r) (bitsN (fieldLe d.bytes 8 4) 0 20)
  else match d.sig with
    | some (a, _) => some (addrPword s a)
    | none =>
      if (o = 1 || o = 2 || o = 0x20 || o = 0x21) && bitN (fieldLe d.bytes off 4) 31 then
        sidWord s (ringCtx s r) (bitsN (fieldLe d.bytes off 4) 0 20)
      else none

/-- Edges of words: the pending DMA blocks and fetched descriptors that signal them. -/
def wordEdges (s : State) : List Edge :=
  s.cores.flatMap (fun kv => [2, 3].flatMap (fun q =>
    let u := kv.2.queue q
    u.run.filterMap (fun b => b.sig.map (fun g => ⟨nkWORD, nkQUEUE, false, addrPword s g.1, kv.1 * 4 + q, 0, 0⟩)) ++
    u.pend.filterMap (fun b =>
      let d := DBlk.of b.bytes
      if d.sigEn && !d.sigRemote then
        (sidWord s (blkCtx s kv.1) d.sigId).map (fun w => ⟨nkWORD, nkQUEUE, false, w, kv.1 * 4 + q, 0, 0⟩)
      else none))) ++
  s.fe.rings.flatMap (fun kv => kv.2.descs.filterMap (fun d =>
    if d.phase == .done then none
    else (descWord s kv.1 d).map (fun w => ⟨nkWORD, nkRING, false, w, kv.1, 0, 0⟩)))

/-- Edges of events and of task queues. -/
def eventEdges (s : State) : List Edge :=
  s.fe.rings.flatMap (fun kv => kv.2.descs.filterMap (fun d =>
    if d.phase != .done && dOpcode d.bytes = 0x10 then
      some ⟨nkEVENT, nkRING, false, ringCtx s kv.1 * 1024 + fieldLe d.bytes 8 2, kv.1, 0, 0⟩
    else none))

def taskqEdges (s : State) : List Edge :=
  let named := (s.sync.waits.filterMap (fun w => match w.who with
    | .tqPop _ _ q _ => some q | .tqPush _ _ q _ _ => some q | .tqRing _ _ q _ _ => some q | _ => none)).eraseDups
  named.flatMap (fun q =>
    let rs := s.sync.waits.filterMap (fun w => match w.who with
      | .tqRing r _ k _ _ => if k = q then some r else none | _ => none)
    if rs.isEmpty then [⟨nkTASKQ, nkHOST, false, q, 0, 0, 0⟩]
    else rs.map (fun r => ⟨nkTASKQ, nkRING, false, q, r, 0, 0⟩))

/-- Data segments that an operation takes in all from a rank: UP of a child, DOWN of the parent, RING of the previous rank. -/
def dataDue (k : ColGrp) (r : Nat) (o : ColOp) (i : Nat) : Nat :=
  let m := k.size
  let kid := (kidsOf k.arity m r).contains i
  let par := r != 0 && i == parentOf k.arity r
  if o.zero || o.op = coALLTOALL || o.op = coALLTOALLV || o.op = coPERMUTE then 0
  else if o.op = coRINGPASS then (if i = (r + m - 1) % m then (m - 1) * segCount o.count else 0)
  else if kid then
    (if o.op = coBROADCAST then 0
     else if o.op = coALLGATHER then segCount ((subtree k.arity m i).length * o.block) else segCount (o.redTotal m))
  else if par then
    (if o.op = coREDUCE then 0
     else if o.op = coREDUCESCATTER then (subtree k.arity m r).length * segCount (o.dnTotal m) else segCount (o.dnTotal m))
  else 0

/-- Control segments that an operation takes in all from a rank: UP, DOWN and WMARK of the tree, READY and DONE of an exchange,
the Watermarks of a ring. -/
def ctlDue (k : ColGrp) (r : Nat) (o : ColOp) (i : Nat) : Nat :=
  let m := k.size
  let kid := (kidsOf k.arity m r).contains i
  let par := r != 0 && i == parentOf k.arity r
  let tree := if o.zero then (if kid then 1 else if par then 2 else 0)
    else if o.op = coPERMUTE then (if kid || par then 2 else 0)
    else if o.op = coRINGPASS then (if i = (r + m - 1) % m then m - 1 else 0)
    else if o.op = coALLTOALL || o.op = coALLTOALLV || !par then 0
    else if o.op = coREDUCESCATTER then (subtree k.arity m r).length else 1
  tree + (if (o.op = coALLTOALLV || (o.op = coALLTOALL && !o.zero)) && i != r then 2 else 0)

/-- Ranks from which a member still awaits a packet of its operation in progress: data or control segments that have not come, or
the GRANT of a segment sent. -/
def colAwaits (s : State) (g : Nat) (k : ColGrp) (o : ColOp) : List Nat :=
  let r := grpRank s g
  (List.range k.size).filter (fun i =>
    let p := k.peer i
    p.next + p.got.length < dataDue k r o i || p.ctl.length < ctlDue k r o i ||
      k.segs.any (fun e => e.kind != 2 && e.peer == i))

/-- Edges of operations in progress: REMOTE is a node, AUX its rank. -/
def colEdges (s : State) : List Edge :=
  s.col.flatMap (fun kv =>
    match kv.2.ops with
    | [] => []
    | o :: _ =>
      if !o.started then []
      else (colAwaits s kv.1 kv.2 o).map (fun i =>
        ⟨nkCOLL, nkREMOTE, false, kv.1 + o.seq * 4096, (kv.2.list[i]?).getD 0, o.since, i⟩))

/-- Edges of words, events and task queues are no waits of their own and have no SINCE. -/
def Edge.timed (e : Edge) : Bool := e.fk != nkWORD && e.fk != nkEVENT && e.fk != nkTASKQ

/-- Every edge whose wait is older than MINAGE at a time. -/
def allEdges (s : State) (t : Nat) : List Edge :=
  let age := s.fld F.DBG_WFG_CTL_MINAGE * 1000
  (coreEdges s ++ ringEdges s ++ wordEdges s ++ eventEdges s ++ taskqEdges s ++ colEdges s).filter
    (fun e => e.since + age ≤ t || !e.timed)

/-- WAIT_FOR_GRAPH: the first read. -/
def startGraph (mgmt : Bool) (s : State) : State :=
  if s.dbg.wfg.isSome then s
  else
    let t := s.timebase
    let e := allEdges s t
    let s := if mgmt then s else s.setFld F.DBG_WFG_CTL_GO 0 1
    s.modDbg (fun d => { d with wfg := some (t, e, mgmt) })

def edgeBytes (e : Edge) : List Byte :=
  natLe 1 e.fk ++ natLe 1 e.tk ++ natLe 2 (if e.take then 1 else 0) ++ natLe 4 e.fid ++ natLe 8 e.tid ++ natLe 8 e.since ++
  natLe 8 e.aux

/-- R391. -/
def graphBytes (node start stop : Nat) (l : List Edge) : List Byte :=
  natLe 2 node ++ natLe 2 1 ++ natLe 4 l.length ++ natLe 8 start ++ natLe 8 stop ++ List.replicate 40 0 ++ l.flatMap edgeBytes

/-- WAIT_FOR_GRAPH_COMPLETE: edges that stand in both reads, in the order of the first; `ok` says whether the image's
write succeeds. -/
def endGraph (ok : Bool) (s : State) : State :=
  match s.dbg.wfg with
  | none => s
  | some (t, first, mgmt) =>
    let now := allEdges s t
    let l := first.filter (fun e => now.contains e)
    let img := graphBytes (nodeId s) t s.timebase (l.take 32766)
    let s := s.modDbg (fun d => { d with wfg := none })
    let s := s.setFld F.DBG_WFG_CTL_TRUNC 0 (if 32766 < l.length then 1 else 0)
    if mgmt then s.modDbg (fun d => { d with image := img })
    else
      let s := s.setFld F.DBG_WFG_CTL_GO 0 0
      if ok then emit (.hostWrite 0 (s.fld F.DBG_WFG_ADDR_ADDR * 4096) img false) s else s.setFld F.DBG_WFG_CTL_FAIL 0 1

/-! ## The rows -/

/-- SAMPLE (R381). -/
def execSample (ctx : CtxId) (ok : Bool) (s : State) : Answer := run s (opSnap 1 ctx ok s)
/-- RESET (R381). -/
def execResetBank (ctx : CtxId) (ok : Bool) (s : State) : Answer := run s (opSnap 2 ctx ok s)
/-- SAMPLE_RESET (R381). -/
def execSampleReset (ctx : CtxId) (ok : Bool) (s : State) : Answer := run s (opSnap 3 ctx ok s)
/-- TRACE_BUDGET_WINDOW (R386). -/
def execTraceBudgetWindow (s : State) : Answer := run s (opTraceWindow s)
/-- TRACE_DRAIN_COMPLETE (R385). -/
def execTraceDrainComplete (s : State) : Answer := run s (opTraceDrain s)
/-- WAIT_FOR_GRAPH (R390). -/
def execWaitForGraph (s : State) : Answer := runHost s (startGraph false s)
/-- WAIT_FOR_GRAPH_COMPLETE (R390). -/
def execWaitForGraphComplete (ok : Bool) (s : State) : Answer := run s (endGraph ok s)
/-- HALT (R392). -/
def execHalt (c : CoreId) (v : BitVec 32) (s : State) : Answer := runHost s (opHalt c v.toNat s)

end Sys2Proof.Machine
end

