-- ==== Sys2Proof/Machine/Mgmt.lean ====
section
/-! DEFINITION. Security and management (chapter 20): the SPDM responder, vendor commands and their authorisation, PLDM
sensors, effecters and firmware update, MCTP control, link key areas, and the digest registers.

Replies carry numbers of the model's own: 0x100 and the place of the message in Table 20.3 for SPDM, 0x1FE ERROR with
Busy, 0x1FF ERROR with UnsupportedRequest, 0x1FD ERROR for a session that does not exist; 0x200 and the command of Table
20.6 for vendor commands, whose first byte is the completion code; 0x300 and above for PLDM; 0x400 for MCTP control. -/

namespace Sys2Proof.Machine

/-! ## Who may ask: R396, R403 -/

/-- The management interfaces are served from boot step 3 (R361). -/
def mgmtUp (s : State) : Bool := 3 ≤ bootStep s

/-- PLDM is also served in boot recovery mode (R362). -/
def pldmUp (s : State) : Bool := mgmtUp s || s.sec.recovery

def openSession (s : State) (id : Nat) : Bool := s.sec.sessions.any (fun x => x.id == id && x.open_)
def nodeSession (s : State) (n : Nat) : Bool := s.sec.sessions.any (fun x => x.node == some n && x.open_)

/-- Whether a command that changes state is accepted. -/
def mayChange (s : State) : Via → Bool
  | .i3c => true
  | .vdm (some id) => openSession s id
  | _ => false

/-- Whether a command that changes no state is accepted. -/
def mayAsk (s : State) : Via → Bool
  | .i3c => true
  | .vdm _ => true
  | .doe _ => false
  | .unlisted _ => false
  | .fabric n => nodeSession s n

def reply (code : Nat) (body : List Byte) (s : State) : State := emit (.reply code body) s

/-- Completion code 0x05: not authorised. -/
def refuse (code : Nat) (s : State) : State := reply code [5] s

/-- Random or secret bytes of the root of trust: by purpose, for one number. -/
def secretBytes (purpose k n : Nat) : List Byte := (List.range n).map (Config.cryptoByte purpose k)

/-! ## SPDM: R395, R396 -/

def spBUSY : Nat := 0x1FE
def spUNSUP : Nat := 0x1FF
def spNOSESS : Nat := 0x1FD

/-- An SPDM request: DOE serves the PF only, and a message that Table 20.3 does not list is not supported. -/
def spdm (via : Via) (f : State → State) (s : State) : State :=
  let fn := match via with | .doe fn => fn | .unlisted (some fn) => fn | _ => 0
  let listed := match via with | .unlisted _ => false | _ => true
  if !(mgmtUp s) || fn != 0 then s else if listed then f s else reply spUNSUP [] s

/-- The certificate chain of slot 0 (Table 20.3). The identity stays while the firmware changes; the alias certificate
follows digest 3 (R396). -/
def certChain (s : State) : List Byte := Config.identityChain ++ Config.aliasCert (measOf s 3)

/-- A signed answer: its content and a fresh P-384 signature. -/
def signed (code : Nat) (body : List Byte) (s : State) : State :=
  let (i, s) := s.fresh
  reply code (body ++ secretBytes 3 i 96) s

def opCertificate (slot off len : Nat) (s : State) : State :=
  if slot != 0 then reply spUNSUP [] s
  else reply 0x104 (((certChain s).drop off).take len) s

/-- GET_MEASUREMENTS: an index of Table 20.2, 0 for their number, 255 for all. -/
def opMeasurements (i : Nat) (nonce : List Byte) (s : State) : State :=
  if i = 0 then signed 0x106 (natLe 1 5 ++ nonce) s
  else if i ≤ 5 then signed 0x106 (measOf s i ++ nonce) s
  else if i = 255 then signed 0x106 (((List.range 5).flatMap (fun k => measOf s (k + 1))) ++ nonce) s
  else reply spUNSUP [] s

def opKeyExchange (via : Via) (slot : Nat) (data : List Byte) (s : State) : State :=
  if slot != 0 then reply spUNSUP [] s
  else if 4 ≤ s.sec.sessions.length then reply spBUSY [] s
  else
    let id := s.sec.nextSession
    let node := match via with | .fabric n => some n.val | _ => none
    let s := s.modSec (fun x => { x with
      sessions := x.sessions ++ [⟨id, node, false, 0⟩], nextSession := (id + 1) % 65536 })
    signed 0x107 (natLe 2 id ++ data) s

def hasSession (s : State) (id : Nat) : Bool := s.sec.sessions.any (fun x => x.id == id)

def onSession (id : Nat) (f : Session → Session) (s : State) : State :=
  s.modSec (fun x => { x with sessions := x.sessions.map (fun y => if y.id == id then f y else y) })

def dropSession (id : Nat) (s : State) : State :=
  s.modSec (fun x => { x with sessions := x.sessions.filter (fun y => y.id != id) })

/-- FINISH: `verified` says whether the requester's proof of the key exchange is right. -/
def opFinish (id : Nat) (verified : Bool) (s : State) : State :=
  if !(hasSession s id) then reply spNOSESS [] s
  else if verified then reply 0x108 (natLe 2 id) (onSession id (fun x => { x with open_ := true }) s)
  else reply spNOSESS [] (dropSession id s)

def inSession (id code : Nat) (f : State → State) (s : State) : State :=
  if openSession s id then reply code (natLe 2 id) (f s) else reply spNOSESS [] s

/-! ## Vendor commands: Table 20.6 -/

/-- A vendor command: refused with 0x05 unless `may` holds. -/
def vendor (may : Bool) (cmd : Nat) (f : State → State) (s : State) : State :=
  if !(mgmtUp s) then s else if may then f s else refuse (0x200 + cmd) s

/-- RESET: the answer goes out, then the reset is raised. -/
def mgmtReset (code : Nat) (s : State) : State := assertSrc srcMGMT 0 (reply code [0] s)

/-- WFG: chunk 0 starts a graph; chunk n returns bytes from 512 (n - 1) of the last one. -/
def opWfg (chunk : Nat) (s : State) : State :=
  if chunk = 0 then reply 0x203 [0] (startGraph true s)
  else reply 0x203 (0 :: ((s.dbg.image.drop (512 * (chunk - 1))).take 512)) s

def mgmtFrost (thaw scope : Bool) (s : State) : State :=
  let s := reply 0x204 [0] s
  if thaw then askThaw scope s else enterLocal fsrcMGMT (if scope then 1 else 0) none s

/-- OTP_NONCE (R404). -/
def opNonce (s : State) : State :=
  let (i, s) := s.fresh
  let n := secretBytes 4 i 32
  reply 0x205 (0 :: n) (s.modSec (fun x => { x with nonce := some n }))

/-- The public key that the running image carries (R393). -/
def runningKey (s : State) : List Byte :=
  Config.imageField 2 (imageBytes (slotImage s (s.flag F.SEC_BOOT_STAT_SLOT)))

/-- OTP_AUTH (R404): a record that verifies is programmed; the nonce is consumed either way. -/
def opOtpAuth (t g : Nat) (body sig : List Byte) (s : State) : State :=
  let nonce := s.sec.nonce
  let s := s.modSec (fun x => { x with nonce := none })
  let msg := natLe 8 (s.reg .DEV_SERIAL 0).toNat ++ natLe 1 t ++ natLe 1 g ++ body ++ nonce.getD []
  let ok := nonce.isSome && Config.verify (runningKey s) msg sig &&
    !(t = 5 && (slice body 0 96).all (· == 0)) && !(s.flag F.OTP_PROG_STAT_BUSY)
  if !ok then
    -- a record that its signature covers is refused as OTP_PROG_STAT then shows
    let s := if t = 5 && (slice body 0 96).all (· == 0) && nonce.isSome && Config.verify (runningKey s) msg sig &&
        !(s.flag F.OTP_PROG_STAT_BUSY) then s.setReg .OTP_PROG_STAT 0 (wN (2 * otpREFUSED)) else s
    reply 0x206 [0, BitVec.ofNat 8 otpREFUSED] s
  else
    let (r, s) := otpStart true (fun t => t == 1 || t == 2 || t == 5) t g body s
    if r = otpDONE then s else reply 0x206 [0, BitVec.ofNat 8 r] s

def bootStatusBytes (s : State) : List Byte :=
  natLe 4 (s.reg .DEV_BOOT_STAT 0).toNat ++ natLe 8 (s.reg .DEV_RST_CAUSE 0).toNat ++ natLe 8 (s.reg .DEV_RST_CNT 0).toNat

/-! ## PLDM sensors and effecters: R405 -/

/-- The value of a sensor of Table 20.7 now. -/
def sensorNow (s : State) (id : Nat) : Option Nat :=
  if id = 1 then some (s.fld F.PWR_MEAS_P_MEAS)
  else if id = 2 then some (s.fld F.PWR_MEAS_VIN)
  else if id = 3 then some (s.fld F.PWR_MEAS_CAP_EFF)
  else if 16 ≤ id && id < 32 then some (s.fld F.PWR_DIE_TJ (id - 16))
  else if 32 ≤ id && id < 52 then some (smGet 0 s.pwr.stackT (id - 32))
  else if id = 52 then some (s.fld F.PWR_THR_STAT_ACTIVE)
  else if id = 53 then
    some (s.fld F.DEV_ERR_CNT_DEF + s.fld F.DEV_ERR_CNT_CON * 2 ^ 16 + s.fld F.DEV_ERR_CNT_FAT * 2 ^ 32)
  else if id = 54 then some ((activePorts s).foldl (fun v p => v + 2 ^ p) 0)
  else none

/-- PLDM sensor read: the value as last refreshed. -/
def opSensor (via : Via) (id : Nat) (s : State) : State :=
  if !(mgmtUp s) then s
  else if !(mayAsk s via) then refuse 0x300 s
  else if (sensorNow s id).isNone then reply 0x300 [1] s
  else reply 0x300 (0 :: natLe 8 (smGet 0 s.sec.sensors id)) s

/-- SENSOR_REFRESH: 10 ms after the last. -/
def opRefresh (s : State) : State :=
  let s := passTo (s.sec.sensedAt + 10000000) s
  let t := s.now
  let vals := (List.range 55).foldl (fun m i => match sensorNow s i with | some v => smSet 0 i v m | none => m) []
  let ev := s.sec.events
  let s := s.modSec (fun x => { x with sensors := vals, sensedAt := t, events := [] })
  ev.foldl (fun s e => emit (.event e.1 e.2) s) s

/-! ## Firmware update: R406 -/

def setSlot (b : Bool) (m : FwImage) (s : State) : State :=
  s.modSec (fun x => if b then { x with slotB := m } else { x with slotA := m })

/-- ALREADY_IN_UPDATE_MODE, the answer to a second update agent. -/
def updBUSY : Byte := 0x81

def updProg (n total st : Nat) (s : State) : State := setProg 5 ⟨n, total, st, 0, 0⟩ s

/-- REQUEST_UPDATE: the slot that does not run, which is the one that the activation record does not name, but after a
fallback or an activation that waits for its reset (R406, DESIGN CHOICE); either slot in recovery. -/
def opRequestUpdate (agent blocks : Nat) (slot : Bool) (s : State) : State :=
  if !(pldmUp s) then s
  else if s.sec.update.isSome then reply 0x501 [updBUSY] s
  else if blocks = 0 then reply 0x501 [2] s
  else
    let b := if s.sec.recovery then slot else !(s.flag F.SEC_BOOT_STAT_SLOT)
    let s := setSlot b .erased s
    let s := if s.sec.recovery then s else s.setFld F.SEC_BOOT_STAT_ALT_VALID 0 0
    let s := s.modSec (fun x => { x with update := some ⟨agent, b, blocks, [], false⟩ })
    reply 0x501 [0] (updProg 0 (blocks + 1) 1 s)

/-- FIRMWARE_BLOCK_TRANSFER: the last block is followed by verification. -/
def opFwBlock (agent : Nat) (data : List Byte) (s : State) : State :=
  match s.sec.update with
  | none => s
  | some u =>
    if !(pldmUp s) then s
    else if u.agent != agent then reply 0x502 [updBUSY] s
    else if u.total ≤ u.blocks.length then s
    else
      let l := u.blocks ++ [slice data 0 65536]
      let s := s.modSec (fun x => { x with update := some { u with blocks := l } })
      let s := updProg l.length (u.total + 1) 1 s
      if l.length < u.total then s
      else if (imageValid s (.written l)).isSome then
        let s := setSlot u.slot (.written l) s
        let s := s.modSec (fun x => { x with update := some { u with blocks := l, good := true } })
        let s := if s.sec.recovery then s else s.setFld F.SEC_BOOT_STAT_ALT_VALID 0 1
        reply 0x502 [0] (updProg (u.total + 1) (u.total + 1) 2 s)
      else
        let s := (setSlot u.slot .erased s).modSec (fun x => { x with update := none })
        reply 0x502 [1] (updProg l.length (u.total + 1) 3 s)

/-- ACTIVATE_FIRMWARE: the activation record names the new slot. -/
def opActivate (agent : Nat) (s : State) : State :=
  match s.sec.update with
  | none => s
  | some u =>
    if !(pldmUp s) then s
    else if u.agent != agent then reply 0x503 [updBUSY] s
    else if !u.good then s
    else reply 0x503 [0] (s.modSec (fun x => { x with active := u.slot, update := none }))

/-! ## MCTP control: R403 -/

/-- An MCTP control message: Set Endpoint ID (1) from the bus owner over I3C, Get Endpoint ID (2), Get Message Type Support
(5); others are answered as not supported. -/
def opMctp (via : Via) (cmd arg : Nat) (s : State) : State :=
  if !(pldmUp s) then s
  else if cmd = 1 then
    match via with
    | .i3c => reply 0x400 (0 :: natLe 1 arg) (s.modSec (fun x => { x with eid := arg }))
    | _ => reply 0x400 [1] s
  else if cmd = 2 then reply 0x400 (0 :: natLe 1 s.sec.eid) s
  else if cmd = 5 then reply 0x400 [0, 5, 0x00, 0x01, 0x05, 0x06, 0x7E] s
  else reply 0x400 [5] s

/-! ## Link keys and digests: R401, R409 -/

/-- A 32-bit word of SEC_LNK_KEY(p, j), 2 transmit and 2 receive areas. The word of SALT makes the area effective. -/
def opLnkKey (p j w v : Nat) (s : State) : State :=
  if j < 2 && s.fld F.SEC_LNK_CTL_TXSLOT p = j && s.flag F.SEC_LNK_CTL_ACTIVE p then s
  else if 8 < w then s
  else
    let st := slice (smGet [] (s.port p).staged j) 0 36
    let st := st.take (4 * w) ++ natLe 4 v ++ st.drop (4 * w + 4)
    if w < 8 then s.modPort p (fun k => { k with staged := smSet [] j st k.staged })
    else
      let s := s.modPort p (fun k => { k with
        keys := smSet [] j st k.keys, staged := smSet [] j [] k.staged, bctr := smSet 0 j 0 k.bctr })
      s.setFld F.SEC_LNK_STAT_KEYSET p (s.fld F.SEC_LNK_STAT_KEYSET p ||| 2 ^ j)

/-- A read of n bytes (4 or 8) at offset o of SEC_MEAS(i): one that takes the first byte of the register latches the digest, and
every read is of the latched copy. That a 4-byte read of the lower half of the first word latches too, and one of its upper half
does not, is the model's (DESIGN CHOICE, assumption 185). -/
def opMeasRead (i o n : Nat) (s : State) : State :=
  if i = 0 || !(ready s) then emit (.completion true (natLe n 0) false) s
  else
    let s := if o = 0 then let d := measOf s i; s.modSec (fun x => { x with latch := smSet [] i d x.latch }) else s
    emit (.completion true (slice (smGet [] s.sec.latch i) o n) false) s

end Sys2Proof.Machine
end

