-- ==== Sys2Proof/Machine/ResetCmds.lean ====
section
/-! DEFINITION. The commands of chapter 17 and R425: reset sources, the steps of a reset, boot, and OTP programming. -/

namespace Sys2Proof.Machine

/-! ## Sources -/

/-- VSB (R349): the always-on domain is cleared, then a power-on reset is raised. -/
def opVsb (s : State) : State :=
  let s := (s.setReg .DEV_RST_CNT 0 0).setReg .DEV_RST_CAUSE 0 0
  let s := s.modRst (fun r => { r with vsb := true, trip := false })
  beginReset 1 srcVSB 0 0 s

/-- VSB_3V3_LOSS (R425): conversion turns off and the always-on domain is lost. -/
def opVsbLoss (s : State) : State :=
  let s := (s.setReg .DEV_RST_CNT 0 0).setReg .DEV_RST_CAUSE 0 0
  s.modRst (fun r => { r with vsb := false, trip := false, off := true })

/-- A level source asserts or deasserts (R347). -/
def levelSrc (k : Nat) (on : Bool) (s : State) : State :=
  let was := bitN s.rst.ext k
  let s := setExt k on s
  if on && !was then assertSrc k 0 s else s

/-- RESET_N, as an external driver holds it (R352). Outside a reset a low qualifies after 1 µs; from 22 µs after the start
of a reset a low holds it and is recorded, one that began before too if it lasts to that moment; before it the pin is
ignored. -/
def opResetN (low : Bool) (s : State) : State :=
  let was := bitN s.rst.ext srcRESETN
  let s := setExt srcRESETN low s
  if !low then
    (if was && s.rst.level != 0 && s.rst.start + 22000 < s.now then
      s.setFld F.DEV_RST_CAUSE_SRC 0 (s.fld F.DEV_RST_CAUSE_SRC ||| 2 ^ srcRESETN) else s)
  else if was then s
  else if s.rst.level = 0 then assertSrc srcRESETN 0 (if running s then passTime 1000 s else s)
  else if s.rst.start + 22000 ≤ s.now then s.setFld F.DEV_RST_CAUSE_SRC 0 (s.fld F.DEV_RST_CAUSE_SRC ||| 2 ^ srcRESETN)
  else s

/-! ## DEV_SYS_RST and DEV_CORE_RST: Table 17.10 -/

def opSysRst (v : Nat) (s : State) : State :=
  if bitsN v 0 8 = 0x5A && bitN v 8 then assertSrc srcMGMT 0 s else s

def opCoreRst (v : Nat) (s : State) : State :=
  let s := s.regWrite .DEV_CORE_RST 0 v
  if !(bitN v 16) then s
  else if s.flag F.DEV_CORE_RST_BUSY then s.setFld F.DEV_CORE_RST_BADREQ 0 1
  else
    let m := s.fld F.DEV_CORE_RST_MASK
    if m = 0 then s else coreReset m s

/-! ## The steps of a reset: R350 -/

/-- RESET_STRETCH_END: the device releases RESET_N. -/
def opStretchEnd (s : State) : State :=
  if s.rst.level = 0 || s.rst.stretched then s
  else (passTo (s.rst.start + 20000) s).modRst (fun r => { r with stretched := true })

/-- RESET_END: 22 µs after the start, unless a source holds the reset. The timebase restarts and boot begins; with the rails
off the reset ends and nothing boots (R345). -/
def opResetEnd (s : State) : State :=
  if s.rst.level = 0 then s
  else
    let s := passTo (s.rst.start + 22000) (opStretchEnd s)
    let s := if bitN s.rst.ext srcRESETN then
        s.setFld F.DEV_RST_CAUSE_SRC 0 (s.fld F.DEV_RST_CAUSE_SRC ||| 2 ^ srcRESETN) else s
    if holdsReset s then s
    else if s.rst.off then s.modRst (fun r => { r with level := 0 })
    else
      let t := s.now
      let s := (s.modRst (fun r => { r with level := 0 }))
      let s := showRails ((List.range 16).foldl (fun s d => showDie d s) { s with tbase := t })
      bootTo 1 (bootTo 0 (s.modPwr (fun p => { p with loopAt := t, measAt := t, rampAt := t, capAt := t, eqAt := t, trimAt := t })))

/-! ## OTP_PROG_CTL: Table 17.13 -/

/-- The PF programs types 3, 4 and 6 (R364). While BUSY, a GO is ignored (R365). -/
def opOtpProgram (v : Nat) (s : State) : State :=
  let s := s.regWrite .OTP_PROG_CTL 0 v
  if !(bitN v 16) || bitsN v 8 8 != 0xA5 || s.flag F.OTP_PROG_STAT_BUSY then s
  else
    (otpStart false (fun t => t == 3 || t == 4 || t == 6) (s.fld F.OTP_PROG_CTL_TYPE) (s.fld F.OTP_PROG_CTL_GEN)
      ((List.range 136).map (fun i => smGet 0 s.rst.buf i)) s).2

/-! ## The rows -/

/-- VSB (R349). -/
def execVsb (s : State) : Answer := always s (opVsb s)
/-- VSB_3V3_LOSS (R425). -/
def execVsbLoss (s : State) : Answer := always s (opVsbLoss s)
/-- SUPPLY (R347). -/
def execSupply (bad : Bool) (s : State) : Answer := always s (levelSrc srcSUPPLY bad s)
/-- PWR_GOOD (R347). -/
def execPwrGood (low : Bool) (s : State) : Answer := always s (levelSrc srcPWRGOOD low s)
/-- RESET_N (R352). -/
def execResetN (low : Bool) (s : State) : Answer := always s (opResetN low s)
/-- PERST_N (R347). -/
def execPerstN (low : Bool) (s : State) : Answer := always s (levelSrc srcPERSTN low s)
/-- MGMT_WDOG (R347). -/
def execMgmtWdog (s : State) : Answer := always s (assertSrc srcWDOG 0 s)
/-- DEV_SYS_RST (R366). -/
def execDevSysRst (v : BitVec 32) (s : State) : Answer := runHost s (opSysRst v.toNat s)
/-- DEV_CORE_RST (R357). -/
def execDevCoreRst (v : BitVec 32) (s : State) : Answer := runHost s (opCoreRst v.toNat s)
/-- CORE_RESET_END (R355). -/
def execCoreResetEnd (s : State) : Answer := run s (coreResetEnd s)
/-- RESET_STRETCH_END (R350). -/
def execResetStretchEnd (s : State) : Answer := always s (opStretchEnd s)
/-- RESET_END (R350). -/
def execResetEnd (s : State) : Answer := always s (opResetEnd s)
/-- OTP_LOAD (R363). -/
def execOtpLoad (s : State) : Answer := run s (opOtpLoad s)
/-- FIRMWARE_VERIFICATION (R393). -/
def execFirmwareVerification (s : State) : Answer := run s (opFirmware s)
/-- D2D_TRAINING (R316). -/
def execD2dTraining (pins : BootPins) (bad : List (D2dId × Fin 36)) (s : State) : Answer :=
  run s (opD2dTraining pins.guest (fun k => ((pins.straps[k]?).getD none).map (·.toNat)) (bad.map (fun e => (e.1.val, e.2.val))) s)
/-- COMPUTE_SELFTEST (R359). -/
def execComputeSelftest (failed : Bool) (s : State) : Answer := run s (opSelftest failed s)
/-- HOST_READY (R361). -/
def execHostReady (s : State) : Answer := run s (opHostReady s)
/-- OTP_PROGRAM (R364). -/
def execOtpProgram (v : BitVec 32) (s : State) : Answer := runHost s (opOtpProgram v.toNat s)
/-- OTP_PROGRAM_COMPLETE (R365). -/
def execOtpProgramComplete (ok : Bool) (s : State) : Answer := run s (otpEnd ok s)

end Sys2Proof.Machine
end

