-- ==== Sys2Proof/Machine/SyncCmds.lean ====
section
/-! DEFINITION. The commands of chapter 10: arbitrations, clears, the set-up of identifier tables, sync regions, barriers
and re-alignment sets, and the contributions that travel up a barrier's tree. -/

namespace Sys2Proof.Machine

/-- A change of `add` reaches a word, with its arbitration (R227, R229). An unbacked or poisoned word takes none (R370).
The row names no context; a saturation is charged to context 0 (DESIGN CHOICE, assumption 38). -/
def opArbitration (p : Nat) (add : Word) (s : State) : State :=
  match pwordAddr s p with
  | none => s
  | some a =>
    let s := needs a 8 s
    if poisonAt s a then contained none 8 0 13 a p s else signal 0 a add.toNat s

/-- SYNC_CLR (Table 10.3, R370): the word is zero and its poison gone, in one arbitration. -/
def opSyncClr (v : Nat) (s : State) : State :=
  if !(bitN v 31) then s
  else match pwordAddr s (bitsN v 0 20) with
    | none => s
    | some a => signal 0 a 0 (putWord a 0 (needs a 8 s))

/-- SYNC_CTX_LIM (Table 10.6); set-up of a context that does not exist is rejected (R192). -/
def opCtxLim (ctx v : Nat) (s : State) : State := if ctxExists s ctx then s.regWrite .SYNC_CTX_LIM ctx v else s

def opCtxInvalDone (ctx : Nat) (s : State) : State := s.setFld F.SYNC_CTX_LIM_GO ctx 0

/-- Whether a wait is parked on a word of a core's sync region (R223). -/
def regionWaited (s : State) (c : Nat) : Bool :=
  s.sync.waits.any (fun w => match region s w.addr with
    | .pad k o => k == c && syncRegionOff ≤ o
    | _ => false)

/-- CORE_SYNC_CTL (R223). -/
def opCoreSyncCtl (c v : Nat) (s : State) : State :=
  if !(bitN v 0) && s.flag F.CORE_SYNC_CTL_EN c && regionWaited s c then s else s.regWrite .CORE_SYNC_CTL c v

/-- R232: the conditions on an enable, over the fields as written. A group is owned by CTX where its COL_GRP_CTL.CTX names it
and it is enabled (DESIGN CHOICE, assumption 179: R232 says only owned). -/
def barEnablable (i : Nat) (s : State) : Bool :=
  let members := (List.range 192).filter (barMember s i)
  let ctx := barCtx s i
  let g := s.fld F.SYNC_BAR_CTL_GROUP i
  !members.isEmpty && members.all (fun c => coreCtx s c = some ctx) &&
  (pwordAddr s (s.fld F.SYNC_BAR_CTL_RELEASE i)).isSome &&
  (!(s.flag F.SYNC_BAR_CTL_NET i) || (grpOn s g && grpCtx s g == ctx))

/-- SYNC_BAR_CTL (Table 10.9, R232). While EN = 1 a write can only clear EN. -/
def opBarCtl (i v : Nat) (s : State) : State :=
  if s.flag F.SYNC_BAR_CTL_EN i then
    if bitN v 0 then s else s.setFld F.SYNC_BAR_CTL_EN i 0
  else
    let s := s.regWrite .SYNC_BAR_CTL i (setBitsN v 0 1 0)
    if bitN v 0 && barEnablable i s then
      ((s.setBar i { BarSt.reset with life := (s.bar i).life + 1 }).setFld F.SYNC_BAR_STAT_GEN i 0).setFld F.SYNC_BAR_CTL_EN i 1
    else s

/-- R236: the conditions on an enable of a re-alignment set. -/
def ralnEnablable (i : Nat) (s : State) : Bool :=
  s.flag F.SYNC_BAR_CTL_EN (s.fld F.SYNC_RALN_CTL_BAR i) && 1 ≤ s.fld F.SYNC_RALN_CTL_PERIOD i &&
  (List.range (s.fld F.SYNC_RALN_CTL_NWORD i + 1)).all
    (fun j => (pwordAddr s (s.fld F.SYNC_RALN_WORD_PWORD (i * 16 + j))).isSome)

/-- SYNC_RALN_CTL (Table 10.12, R236). -/
def opRalnCtl (i v : Nat) (s : State) : State :=
  if s.flag F.SYNC_RALN_CTL_EN i then
    if bitN v 0 then s else s.setFld F.SYNC_RALN_CTL_EN i 0
  else
    let s := s.regWrite .SYNC_RALN_CTL i (setBitsN v 0 1 0)
    if bitN v 0 && ralnEnablable i s then
      ((s.setReg .SYNC_RALN_STAT i 0).setReg .SYNC_RALN_BASE i 0).setFld F.SYNC_RALN_CTL_EN i 1
    else s

/-- Compute slots of base die b that hold members of barrier i. -/
def baseSlots (s : State) (i b : Nat) : List Nat := ((List.range 3).map (3 * b + ·)).filter (fun d => barSize s i d != 0)

/-- R233, step 2: a contribution of slot d reaches its base die, which passes one on once every slot has contributed. -/
def opSlotContribution (i d : Nat) (s : State) : State :=
  let b := s.bar i
  if !(s.flag F.SYNC_BAR_CTL_EN i) || smGet 0 b.slotDue d = 0 then s
  else
    let b := { b with
      slotDue := smSet 0 d (smGet 0 b.slotDue d - 1) b.slotDue
      atBase := smSet 0 d (smGet 0 b.atBase d + 1) b.atBase }
    let base := d / 3
    let sl := baseSlots s i base
    s.setBar i (if sl.all (fun j => smGet 0 b.atBase j != 0) then
      { b with
        atBase := sl.foldl (fun m j => smSet 0 j (smGet 0 m j - 1) m) b.atBase
        baseDue := smSet 0 base (smGet 0 b.baseDue base + 1) b.baseDue }
      else b)

/-- R233, step 3: a contribution of a base die reaches the hub. -/
def opBaseContribution (i base : Nat) (s : State) : State :=
  let b := s.bar i
  if !(s.flag F.SYNC_BAR_CTL_EN i) || smGet 0 b.baseDue base = 0 then s
  else hubStep i (s.setBar i { b with
    baseDue := smSet 0 base (smGet 0 b.baseDue base - 1) b.baseDue
    atHub := smSet 0 base (smGet 0 b.atHub base + 1) b.atHub })

/-! ## The rows -/

/-- SYNC_ARBITRATION (R229). -/
def execSyncArbitration (p : Fin 1048576) (add : Word) (s : State) : Answer := run s (opArbitration p add s)
/-- SYNC_CLR (R219). -/
def execSyncClr (v : BitVec 32) (s : State) : Answer := runHost s (opSyncClr v.toNat s)
/-- SYNC_CTX_LIM (R226). -/
def execSyncCtxLim (ctx : CtxId) (v : BitVec 32) (s : State) : Answer := runHost s (opCtxLim ctx v.toNat s)
/-- SYNC_CTX_INVAL_COMPLETE (R226). -/
def execSyncCtxInvalComplete (ctx : CtxId) (s : State) : Answer := run s (opCtxInvalDone ctx s)
/-- CORE_SYNC_CTL (R223). -/
def execCoreSyncCtl (c : CoreId) (v : BitVec 32) (s : State) : Answer := runHost s (opCoreSyncCtl c v.toNat s)
/-- SYNC_BAR_CTL (R232). -/
def execSyncBarCtl (i : Fin 256) (v : Word) (s : State) : Answer := runHost s (opBarCtl i v.toNat s)
/-- SYNC_RALN_CTL (R236). -/
def execSyncRalnCtl (i : Fin 64) (v : Word) (s : State) : Answer := runHost s (opRalnCtl i v.toNat s)
/-- BARRIER_ARRIVAL (R233). -/
def execBarrierArrival (i : Fin 256) (c : CoreId) (amt : Word) (s : State) : Answer := run s (barArrive i c amt.toNat s)
/-- SLOT_CONTRIBUTION (R233). -/
def execSlotContribution (i : Fin 256) (d : Fin 12) (s : State) : Answer := run s (opSlotContribution i d s)
/-- BASE_CONTRIBUTION (R233). -/
def execBaseContribution (i : Fin 256) (b : Fin 4) (s : State) : Answer := run s (opBaseContribution i b s)
/-- THAW_WAVE (R335). -/
def execThawWave (w : Fin 12) (s : State) : Answer := run s (opThawWave w s)

end Sys2Proof.Machine
end

