-- ==== Sys2Proof/Machine/D2dCmds.lean ====
section
/-! DEFINITION. The commands of chapter 15: frames, replays and retrains of D2D modules, and requests of the guest die
(R321 to R323). -/

namespace Sys2Proof.Machine

/-! ## The guest firewall -/

def gwBase (s : State) (w : Nat) : Nat := s.fld F.D2D_GW_BASE_BASE w * 65536
def gwSize (s : State) (w : Nat) : Nat := 2 ^ s.fld F.D2D_GW_CTL_LOG2SZ w

/-- The window that serves all n bytes at a guest address (R321). -/
def gwFor (s : State) (a n : Nat) : Option Nat :=
  (List.range 16).find? (fun w =>
    s.flag F.D2D_GW_CTL_EN w && gwBase s w ≤ a && a + n ≤ gwBase s w + gwSize s w)

/-- The device-physical address a MEM window gives. -/
def gwTarget (s : State) (w a : Nat) : Nat := s.fld F.D2D_GW_TGT_TGT w + (a - gwBase s w)

/-- Whether a window permits a request of n bytes. -/
def gwPermits (s : State) (w : Nat) (write : Bool) (a n : Nat) : Bool :=
  if s.flag F.D2D_GW_CTL_KIND w then write && n = 8 && a % 8 = 0
  else
    (if write then s.flag F.D2D_GW_CTL_W w else s.flag F.D2D_GW_CTL_R w) &&
    (List.range n).all (fun i => match region s (gwTarget s w a + i) with
      | .unbacked => false | .vat _ .scratch => true | .vat _ _ => false | _ => true)

/-- The answer to a request that no window serves or permits. -/
def gwDeny (s : State) : State := emit (.guest false [] false) (s.incSat F.D2D_GUEST_STAT_DENY)

/-- Serve a permitted request. -/
def gwServe (q : GuestReq) (s : State) : State :=
  let w := q.window
  let ctx := s.fld F.D2D_GW_CTL_CTX w
  if s.flag F.D2D_GW_CTL_KIND w then
    let p := s.fld F.D2D_GW_TGT_TGT w % 2 ^ 20 + (q.addr - gwBase s w) / 8
    let s := emit (.guest true [] false) s
    match pwordAddr s p with
    | some a => raiseSig ctx (some (a, wN (fieldLe q.data 0 8))) s
    | none => contained (some ctx) 8 0 13 0 p s
  else
    let a := gwTarget s w q.addr
    if q.write then emit (.guest true [] false) (store ctx a (slice q.data 0 q.len) false s)
    else
      let s := touchRange a q.len s
      if poisoned s a q.len then
        let s := emit (.guest true (rdBytes s a q.len) true) s
        let p := firstPoison s a q.len
        let (k, i) := storeUnit s p
        contained (some ctx) k i (storeClass s p) p 0 s
      else emit (.guest true (rdBytes s a q.len) false) s

/-- Take bytes out of the bucket. -/
def gwTake (w n : Nat) (s : State) : State :=
  let m := gwMissing s w s.now + n
  let t := s.now
  s.modD2d (fun d => { d with spent := smSet (0, 0) w (m, t) d.spent })

/-- Whether a request to window w at a guest address must wait at its source: a commit changes the window (R322), or the
memory that it needs is not served (R168, R183, R190, R356). -/
def gwWaits (s : State) (w a n : Nat) : Bool :=
  (txState s == txCOMMITTING && gwDirty s w) ||
  (if s.flag F.D2D_GW_CTL_KIND w then
    match pwordAddr s (s.fld F.D2D_GW_TGT_TGT w % 2 ^ 20 + (a - gwBase s w) / 8) with
    | some x => heldRange s x 8
    | none => false
   else heldRange s (gwTarget s w a) n)

/-- GUEST_REQUEST: a request that would overdraw its bucket, or that follows one held, is held (R323). One that must wait at
its source is held `late`: what serves it is found anew when it goes on. -/
def opGuest (write : Bool) (a n : Nat) (data : List Byte) (s : State) : State :=
  if !s.d2d.guest || n = 0 then s
  else match gwFor s a n with
    | none => gwDeny s
    | some w =>
      let q : GuestReq := ⟨w, write, a, n, slice data 0 n, gwWaits s w a n⟩
      if !(gwPermits s w write a n) && !q.late then gwDeny s
      else if q.late || s.d2d.held.any (fun h => h.window == w) || 65536 < gwMissing s w s.now + n then
        s.modD2d (fun d => { d with held := d.held ++ [q] })
      else gwServe q (gwTake w n s)

/-- A request taken from the port goes on once its window's bucket has refilled enough. -/
def gwGo (q : GuestReq) (s : State) : State :=
  let w := q.window
  let excess := gwMissing s w s.now + q.len - 65536
  let s := passTo (s.now + ceilDiv excess (s.fld F.D2D_GW_CTL_RATE w)) s
  gwServe q (gwTake w q.len s)

/-- GUEST_RATE_RELEASE: the oldest request held by a window goes on when the bucket has refilled enough. -/
def opGuestRelease (w : Nat) (s : State) : State :=
  match s.d2d.held.find? (fun h => h.window == w) with
  | none => s
  | some q =>
    if gwWaits s w q.addr q.len then s
    else
      let s := s.modD2d (fun d => { d with held := d.held.erase q })
      if !q.late then gwGo q s
      else match gwFor s q.addr q.len with
        | none => gwDeny s
        | some v =>
          let q := { q with window := v, late := false }
          if !(gwPermits s v q.write q.addr q.len) then gwDeny s
          else if v = w then gwGo q s
          else s.modD2d (fun d => { d with held := d.held ++ [{ q with late := gwWaits s v q.addr q.len }] })

/-! ## The rows -/

/-- D2D_FRAME (R314). -/
def execD2dFrame (x : D2dId) (offer : Option (Fin 4)) (data : List Byte) (flips : List (Fin 2112)) (s : State) : Answer :=
  run s (opFrame x (offer.map (·.val)) data (flips.map (·.val)) s)
/-- D2D_REPLAY_TIMEOUT (R314). -/
def execD2dReplayTimeout (x : D2dId) (s : State) : Answer := run s (opD2dTimeout x s)
/-- MODULE_RETRAIN_COMPLETE (R317). -/
def execModuleRetrainComplete (x : D2dId) (bad : BitVec 36) (s : State) : Answer := run s (opRetrained x bad.toNat s)
/-- GUEST_REQUEST (R321). -/
def execGuestRequest (w : Bool) (a : Word) (n : Fin 4097) (data : List Byte) (s : State) : Answer :=
  run s (opGuest w a.toNat n data s)
/-- GUEST_RATE_RELEASE (R323). -/
def execGuestRateRelease (w : Fin 16) (s : State) : Answer := run s (opGuestRelease w s)

end Sys2Proof.Machine
end

