-- ==== Sys2Proof/Machine/FabricCmds.lean ====
section
/-! DEFINITION. The rows of the fabric: routing, requests at their target, responses at their requester (R269, R274),
retransmission (R270), flow records (R271), QUIET (R275), domains (R273) and MGMT packets (R265). -/

namespace Sys2Proof.Machine

/-! ## Responses: R269 -/

/-- A request has ended with a status: its owner goes on. -/
def reqEnded (w : ReqWho) (st : Nat) (data : List Byte) (s : State) : State :=
  match w with
  | .vdma c t => vdmaAnswer c t st s
  | .fe r seq => feAnswer r seq st s
  | .col g op tag => colAnswer g op tag st data s

/-- Whether the operation that a request belongs to still stands. -/
def ownerLives (s : State) : ReqWho → Bool
  | .vdma c t => (s.core c).dq.run.any (fun r => r.ticket == t)
  | .fe r seq => ((s.ring r).find seq).isSome
  | .col g op _ => (s.grp g).ops.any (fun o => o.seq == op)

def retPieces (r : Req) : List Piece := r.ret.map (fun p => ⟨p.1, p.2.1, p.2.2⟩)

/-- Whether the map in force admits a write of a request's reserved destination (R167). -/
def landOk (s : State) (r : Req) : Bool := r.ret.all (fun p => p.1 || physCheck s p.2.1 p.2.2 true == .ok)

/-- The reserved destination lies in HBM that is not served now: the response waits. -/
def landNeeds (r : Req) (s : State) : State :=
  if anyHold s && r.ret.any (fun p => !p.1 && (List.range (p.2.2 / 64 + 2)).any (fun i =>
      let a := min (p.2.1 + 64 * i) (p.2.1 + p.2.2 - 1); notServed s a)) then { s with stall := true }
  else s

/-- Take the first response of an opcode. BUSY leaves its request outstanding; a response that matches nothing is
discarded. `land` says what its data does. -/
def opResponse (opc : Nat) (land : Req → Hdr → List Byte → State → State) (s : State) : State :=
  match takePkt opc s with
  | none => s
  | some (b, s) =>
    let h := Hdr.of b
    match findReq s h with
    | none => s
    | some r =>
      if h.status = stBUSY then
        s.modFab (fun f => { f with outst := f.outst.map (fun x =>
          if x.flow == r.flow && x.seq == r.seq then { x with busy := true } else x) })
      else
        let s := landNeeds r (endReq r s)
        if (h.status = 0 || h.status = stPOISON) && ownerLives s r.who then
          if landOk s r then reqEnded r.who h.status (payloadOf b) (land r h (payloadOf b) s)
          else reqEnded r.who stLOCAL [] s
        else reqEnded r.who h.status (payloadOf b) s

def opAck (s : State) : State := opResponse 0x10 (fun _ _ _ s => s) s

/-- The data of a GET goes to its reserved destination. -/
def opGetData (s : State) : State :=
  opResponse 0x11 (fun r h data s => writePieces r.ctx (retPieces r) data (h.status == stPOISON || bitN h.flags 0) s) s

/-- The old value of an ATOMIC goes to its result slot. -/
def opAtomicRsp (s : State) : State :=
  opResponse 0x12 (fun r h _ s => writePieces r.ctx (retPieces r) (natLe 8 h.arg0) false s) s

/-! ## Retransmission: R270 -/

def opRetransmit (flow seq : Nat) (s : State) : State :=
  match s.fab.outst.find? (fun r => r.flow == flow && r.seq == seq) with
  | none => s
  | some r =>
    if s.flag F.FAB_CTL_HOLD then s
    else
      let s := passTo (r.sentAt + s.fld F.FAB_TP_CTL_TMO * 1000) s
      if !r.busy && s.fld F.FAB_TP_CTL_RETRY < r.sends then reqEnded r.who stTIMEOUT [] (endReq r s)
      else
        let r' := { r with sends := if r.busy then r.sends else r.sends + 1, sentAt := s.now, busy := false }
        let s := s.modFab (fun f => { f with outst := f.outst.map (fun x =>
          if x.flow == flow && x.seq == seq then r' else x) })
        inject (formReq s r' true) (s.incSat F.FAB_TP_CNT_RETX)

/-- R271: a record that no request has touched for TMO × (RETRY + 2) goes. -/
def opRecordExpiry (src flow : Nat) (s : State) : State :=
  match findRec s (recKey src flow) with
  | none => s
  | some k =>
    let s := passTo (k.last + s.fld F.FAB_TP_CTL_TMO * 1000 * (s.fld F.FAB_TP_CTL_RETRY + 2)) s
    s.modFab (fun f => { f with recs := f.recs.filter (fun e => e.1 != recKey src flow) })

/-! ## QUIET, domains, MGMT -/

/-- FAB_CTL_READ (R275): the answer, and a new interval. -/
def opFabCtlRead (s : State) : State :=
  let q := !s.fab.noisy && quietNow s
  let v := s.fld F.FAB_CTL_HOLD + (if q then 2 else 0)
  let n := !(quietNow s)
  emit (.completion true (natLe 4 v) false) (s.modFab (fun f => { f with noisy := n }))

/-- FAB_CTX_DOM (R273): EN stays 0 for a domain that another enabled context holds. While EN = 1 DOM keeps its value. Set-up of a context that does not exist is rejected (R192). -/
def opCtxDom (ctx v : Nat) (s : State) : State :=
  if !(ctxExists s ctx) then s
  else
  let v := if s.flag F.FAB_CTX_DOM_EN ctx then setBitsN v 0 16 (s.fld F.FAB_CTX_DOM_DOM ctx) else v
  let s := s.regWrite .FAB_CTX_DOM ctx v
  let d := s.fld F.FAB_CTX_DOM_DOM ctx
  if (List.range 64).any (fun n => n != ctx && s.flag F.FAB_CTX_DOM_EN n && s.fld F.FAB_CTX_DOM_DOM n == d) then
    s.setFld F.FAB_CTX_DOM_EN ctx 0
  else s

/-- MGMT_PACKET: handed to the management endpoint, or discarded for lack of a buffer. -/
def opMgmt (room : Bool) (s : State) : State :=
  match takePkt 0x30 s with
  | none => s
  | some (b, s) =>
    if room then emit (.note 1 [(Hdr.of b).src, (Hdr.of b).len]) s else s.incSat F.FAB_DROP_CNT_MGMT

/-! ## The rows -/

def execPacketRoute (p : PortId) (vc : Fin 9) (s : State) : Answer := run s (opRoute p vc s)
def execEscapeTimeout (p : PortId) (vc : Fin 4) (s : State) : Answer := run s (opEscape p vc s)
def execPut (h : HostAns) (s : State) : Answer := run s (opPut h s)
def execGet (h : HostAns) (s : State) : Answer := run s (opGet h s)
def execAtomic (s : State) : Answer := run s (opAtomic s)
def execSignalRequest (s : State) : Answer := run s (opSignalReq s)
def execGetf (h : HostAns) (s : State) : Answer := run s (opGetf h s)
def execAck (s : State) : Answer := run s (opAck s)
def execGetData (s : State) : Answer := run s (opGetData s)
def execAtomicRsp (s : State) : Answer := run s (opAtomicRsp s)
def execFwdData (h : HostAns) (s : State) : Answer := run s (opFwd h s)
def execMgmtPacket (room : Bool) (s : State) : Answer := run s (opMgmt room s)
def execRetransmitTimeout (flow : Fin 65536) (seq : BitVec 32) (s : State) : Answer := run s (opRetransmit flow seq.toNat s)
def execFlowRecordExpiry (src flow : Fin 65536) (s : State) : Answer := run s (opRecordExpiry src flow s)
def execFabCtlRead (s : State) : Answer :=
  run s (if ready s then opFabCtlRead s else emit (.completion true (natLe 4 0) false) s)
def execFabCtxDom (ctx : CtxId) (v : BitVec 32) (s : State) : Answer := runHost s (opCtxDom ctx v.toNat s)

end Sys2Proof.Machine
end

