-- ==== Sys2Proof/Machine/Txn.lean ====
section
/-! DEFINITION. The configuration transaction (chapter 21): shadows, the commit rules of Table 21.6, the apply instant, and what
follows it. -/

namespace Sys2Proof.Machine

/-- BAR0 offset of a register of an array. -/
def regOffset (r : Reg) (i : Nat) : Nat := r.info.base + i / r.info.n2 * r.info.s1 + i % r.info.n2 * r.info.s2

/-! ## Shadows: R414 to R416 -/

/-- A register's shadow: the committed value until a shadow write changes it. -/
def shadowOf (s : State) (r : Reg) (i : Nat) : Word := smGet (s.reg r i) s.txn.shadows (regKey r i)

/-- The RW bits of a register. -/
def rwBits (r : Reg) : Nat :=
  r.info.fields.foldl (fun m f => if f.acc == .rw then m + (2 ^ f.width - 1) * 2 ^ f.lsb else m) 0

/-- The value a write carries where it covers only the bits of `mask`: RW bits elsewhere keep what they hold, and no other
field is written (R408). -/
def mergeWrite (r : Reg) (old v mask : Nat) : Nat := (v &&& mask) ||| (old &&& rwBits r &&& (mask ^^^ (2 ^ 64 - 1)))

/-- The window registers of the guest firewall (Table 15.12). -/
def isWindowReg : Reg → Bool
  | .D2D_GW_BASE => true
  | .D2D_GW_TGT => true
  | .D2D_GW_CTL => true
  | _ => false

/-- A write to a transactional register. -/
def opShadow (r : Reg) (i v mask : Nat) (s : State) : State :=
  if txState s != txOPEN then s.setFld F.TXN_STAT_STRAY 0 1
  else if isWindowReg r && !s.d2d.guest then s
  else
    let old := (shadowOf s r i).toNat
    let new := r.info.fields.foldl (fun o f => writeField o (mergeWrite r old v mask) f) old
    setShadows (smPut (regKey r i) (wN new) s.txn.shadows) s

/-- R415. -/
def opTxnBegin (s : State) : State :=
  if txState s != txIDLE then s.setFld F.TXN_STAT_BADREQ 0 1
  else setShadows [] (s.setFld F.TXN_STAT_STATE 0 txOPEN)

/-- R420. -/
def opTxnAbort (s : State) : State := if txState s = txIDLE then s.setFld F.TXN_STAT_BADREQ 0 1 else txnDrop s

/-- Whether the commit from s to t changes a register. -/
def changes (s t : State) (r : Reg) (i : Nat) : Bool := isDirty s r i && s.reg r i != t.reg r i

def vatPart_ (s : State) (b : Nat) : Nat := (s.reg .VAT_PART b).toNat

/-! ## Commit rules: each answers the lowest offset among the registers it constrains, where it fails -/

/-- R166. -/
def partFails (t : State) : List Nat :=
  ((List.range 4).filter (fun b =>
    let v := vatPart_ t b
    bitsN v 0 8 < 1 || bitsN v 8 8 < 1 || bitsN v 16 8 < 4 || bitsN v 24 8 < 4 ||
      128 < bitsN v 0 8 + bitsN v 8 8 + bitsN v 16 8 + bitsN v 24 8)).map (regOffset .VAT_PART)

/-- R247, which constrains the partition of the slice as well. -/
def creditFails (t : State) : List Nat :=
  ((List.range 16).filter (fun p =>
    let l := portCredits t p
    l.any (· < 18) || lnkIngress t p < l.foldl (· + ·) 0)).map (fun p => regOffset .VAT_PART (portDie p))

/-- Table 12.10. -/
def nodeFails (s t : State) : List Nat :=
  if changes s t .FAB_NODE 0 && (List.range 16).any (fun p => portState s p != psDISABLED && portState s p != psFAILED) then
    [regOffset .FAB_NODE 0] else []

/-- R261: FAB_NODE gives x_d. -/
def routeFails (s t : State) : List Nat :=
  if (List.range 4).any (fun d => (changes s t .FAB_RT d || changes s t .FAB_DIM_CFG d) &&
      (let n := dimSize t d
       let x := coord (nodeId t) d
       let dir (c : Nat) := rtDir t d c
       dir x != 0 || (List.range 16).any (fun c => (c != x && c < n && dir c == 0) || (n ≤ c && (dir c == 1 || dir c == 2))) ||
         n ≤ x || n ≤ t.fld F.FAB_DIM_CFG_DATELINE d)) then [regOffset .FAB_NODE 0] else []

/-- R276. -/
def holdFails (s t : State) : List Nat :=
  if s.flag F.FAB_CTL_HOLD then []
  else ((List.range 4).filter (changes s t .FAB_DIM_CFG)).map (regOffset .FAB_DIM_CFG) ++
    ((List.range 4).filter (changes s t .FAB_RT)).map (regOffset .FAB_RT)

/-- R320. -/
def roleFails (t : State) : List Nat :=
  ((List.range 8).filter (fun q =>
    let l := pathRoles t q
    !(l.contains 0 && l.contains 1 && l.contains 2) ||
      (if t.d2d.guest then [0, 1, 3, 4, 5, 6].contains q && !(l.contains 3) else l.contains 3))).map (regOffset .D2D_BR_ROLE)

def gwOn (s : State) (w : Nat) : Bool := s.flag F.D2D_GW_CTL_EN w
/-- A MEM window's target lies wholly in HBM, in SCRATCH of one slice or in one scratchpad slot. -/
def targetOk (t : State) (a n : Nat) : Bool :=
  match region t a, region t (a + n - 1) with
  | .hbm, .hbm => !(localIlv t) || a / 0x2800000000 = (a + n - 1) / 0x2800000000
  | .vat b .scratch, .vat b' .scratch => b == b'
  | .pad c _, .pad c' _ => c == c'
  | _, _ => false

/-- R322, for the windows that the commit enables or whose registers it writes. -/
def windowFails (s t : State) : List Nat :=
  ((List.range 16).filter (fun w => gwOn t w && gwDirty s w &&
    (let k := t.fld F.D2D_GW_CTL_LOG2SZ w
     let n := gwSize t w
     let b := gwBase t w
     let a := t.fld F.D2D_GW_TGT_TGT w
     k < 16 || 40 < k || b % n != 0 ||
       (List.range 16).any (fun x => x != w && gwOn t x && gwBase t x < b + n && b < gwBase t x + gwSize t x) ||
       (if t.flag F.D2D_GW_CTL_KIND w then
          2 ^ 20 < a % 2 ^ 20 + n / 8 || (List.range (n / 8)).any (fun k => (pwordAddr t (a % 2 ^ 20 + k)).isNone)
        else !(targetOk t a n))))).map (regOffset .D2D_GW_BASE)

def commitFails (s t : State) : List Nat :=
  partFails t ++ creditFails t ++ nodeFails s t ++ routeFails s t ++ holdFails s t ++ roleFails t ++ windowFails s t

def lowestOf : List Nat → Option Nat
  | [] => none
  | x :: l => some (l.foldl min x)

/-! ## Commit, apply, timeout: R417 to R419 -/

def txnResult (st res : Nat) (s : State) : State := (s.setFld F.TXN_STAT_STATE 0 st).setFld F.TXN_STAT_RESULT 0 res

/-- Ports whose limits or share change return no credit until their PARAM (R249), and ports whose LINK moves none until
the commit is over (Table 8.3). -/
def holdPorts (t : State) (s : State) : State :=
  (List.range 16).foldl (fun s p =>
    if linkMoves s t p || credDiffers s t p then s.modPort p (fun k => { k with hold := true, heldCr := k.freed }) else s) s

def opTxnCommit (s : State) : State :=
  if txState s != txOPEN then s.setFld F.TXN_STAT_BADREQ 0 1
  else if s.txn.shadows.isEmpty then
    txnProg 0 0 2 ((txnResult txIDLE txDONE s).incWrap F.TXN_STAT_SEQ)
  else
    let t := withShadows s
    let u := commitUnits s t
    match lowestOf (commitFails s t) with
    | some off => txnProg 0 (u.length + 2) 3 ((txnResult txOPEN txREJECTED s).setFld F.TXN_STAT_OFFSET 0 off)
    | none =>
      let due := timerFrom s + s.fld F.TXN_CTL_TMO * 1000000
      let s := holdPorts t ((s.setFld F.TXN_STAT_STATE 0 txCOMMITTING).modTxn (fun x => { x with deadline := due, quiet := 0 }))
      noteQuiet u 1 s

/-- Channels of a slice. -/
def sliceChans (b : Nat) : List Nat := (List.range 160).map (160 * b + ·)

/-- Flushes and invalidations before the map changes (R168, R174). -/
def beforeApply (t : State) (s : State) : State :=
  let ilv := localIlv s != localIlv t
  let moved (b : Nat) : Bool := bitsN (vatPart_ s b) 24 8 != bitsN (vatPart_ t b) 24 8
  let s := if ilv then flushAll s
    else (List.range 4).foldl (fun x b => if moved b then flushChans (sliceChans b) x else x) s
  s.modMem (fun m => { m with msb := m.msb.filter (fun l => !ilv && !(moved ((hbmChan (localIlv t) (64 * l)).1 / 160))) })

/-- R169: bytes of SYNC and SCRATCH of slice b that were not in the same partition before read zero. -/
def zeroMoved (old new b : Nat) (s : State) : State :=
  let a := vatBase + b * sliceSize
  let (so, co, lo, mo) := partSizes old
  let (sn, cn, ln, mn) := partSizes new
  let xo := sliceSize - co - lo - mo
  let xn := sliceSize - cn - ln - mn
  let s := zeroSpan (a + min so sn) (a + min (max so sn) xn) s
  zeroSpan (a + max sn (min xo xn)) (a + xn) s

/-- R249: the PARAM flit of a port whose limits or share have changed. -/
def newParam (p : Nat) (s : State) : State :=
  if portActive s p || portState s p = psPARAM then sendCtrl p (paramBody s p) s else s

/-- TXN_APPLY: every affected unit is quiescent. A unit that is held stays so, but for what a write to a register that is not
transactional brings about, for which the commit waits (R417, R421). -/
def opTxnApply (s : State) : State :=
  let t := withShadows s
  let u := commitUnits s t
  if txState s != txCOMMITTING || !(u.all (fun b => b)) then s
  else
    let old := s
    let s := withShadows (beforeApply t s)
    let s := (List.range 4).foldl (fun s b =>
      if changes old t .VAT_PART b then zeroMoved (vatPart_ old b) (vatPart_ t b) b s else s) s
    let s := if localIlv old != localIlv t then undefSpan 0 hbmEnd s else s
    let s := if changes old t .FAB_NODE 0 then s.setFld F.PWR_PHASE_SLOT 0 (phaseSlot (nodeId s)) else s
    -- what a window's bucket misses so far was refilled at its old rate (R323)
    let s := ((List.range 16).filter (gwDirty old)).foldl (fun s w =>
      s.modD2d (fun d => { d with spent := smSet (0, 0) w (gwMissing old w s.now, s.now) d.spent })) s
    let s := dropHolds (setShadows [] s)
    let s := (List.range 16).foldl (fun s p => if linkDiffers old t p || credDiffers old t p then newParam p s else s) s
    txnProg (u.length + 2) (u.length + 2) 2 ((txnResult txIDLE txDONE s).incWrap F.TXN_STAT_SEQ)

/-- Quiescence not reached in time; the time in Frost does not count. -/
def opTxnTimeout (s : State) : State :=
  let u := commitUnits s (withShadows s)
  if txState s != txCOMMITTING || frozen s || u.all (fun b => b) then s
  else
    let s := passTo s.txn.deadline s
    noteQuiet u 3 (txnResult txOPEN txQUIESCE (dropHolds s))

/-- Only the PF writes the TXN block. -/
def pfOnly (fn : Nat) (f : State → State) (s : State) : State := if fn = 0 then f s else s

/-! ## The rows -/

/-- TXN_BEGIN (R415). -/
def execTxnBegin (fn : CtxId) (s : State) : Answer := runHost s (pfOnly fn opTxnBegin s)
/-- TXN_COMMIT (R417). -/
def execTxnCommit (fn : CtxId) (s : State) : Answer := runHost s (pfOnly fn opTxnCommit s)
/-- TXN_APPLY (R417). -/
def execTxnApply (s : State) : Answer := run s (opTxnApply s)
/-- TXN_TIMEOUT (R419). -/
def execTxnTimeout (s : State) : Answer := run s (opTxnTimeout s)
/-- TXN_ABORT (R420). -/
def execTxnAbort (fn : CtxId) (s : State) : Answer := runHost s (pfOnly fn opTxnAbort s)

end Sys2Proof.Machine
end

