-- ==== Sys2Proof/Machine/Bar0.lean ====
section
/-! DEFINITION. BAR0 (chapters 9 and 21): where a register lies, who may write and read it, what a write of it does, and
what a read of it returns. A write of a register whose write has a command of its own does what that command does. -/

namespace Sys2Proof.Machine

/-! ## The map: R407, Table 21.1 -/

/-- Where offset `off` falls in the array of a register: index and byte within it. -/
def slotOf (off : Nat) (r : Reg) : Option (Nat × Nat) :=
  let x := r.info
  if off < x.base then none
  else
    let d := off - x.base
    let i := if x.n1 = 1 then 0 else d / x.s1
    let e := d - i * x.s1
    let j := if x.n2 = 1 then 0 else e / x.s2
    let b := e - j * x.s2
    if i < x.n1 && j < x.n2 && b < x.width / 8 then some (i * x.n2 + j, b) else none

/-- The register at an offset, its index, and the byte within it; none where the offset is not defined. -/
def regAt (off : Nat) : Option (Reg × Nat × Nat) :=
  allRegs.findSome? (fun r => (slotOf off r).map (fun p => (r, p.1, p.2)))

/-! ## Who may: R193, R412, Table 21.2 -/

def vfMayWrite (s : State) (fn : Nat) (r : Reg) (i : Nat) : Bool :=
  match r with
  | .DBG_SNAP_ADDR => i == fn
  | .DBG_SNAP_CMD => i == fn
  | .CORE_VEC_FLAGS => coreCtx s i == some fn
  | .CORE_SR_SEED => coreCtx s i == some fn
  | _ => false

def mayWrite (s : State) (fn : Nat) (r : Reg) (i : Nat) : Bool := fn == 0 || (ctxExists s fn && vfMayWrite s fn r i)

def vfMayRead (s : State) (fn : Nat) (r : Reg) (i : Nat) : Bool :=
  match r with
  | .DEV_ID => true
  | .DEV_PART => true
  | .DEV_SERIAL => true
  | .DEV_CAP1 => true
  | .DEV_CAP2 => true
  | .DEV_TIMEBASE => true
  | .DEV_NUM_CTL => true
  | .DEV_REPRO_CTL => true
  | .DEV_BOOT_STAT => true
  | .SYNC_BAR_STAT => barCtx s i == fn
  | .SYNC_RALN_STAT => barCtx s (s.fld F.SYNC_RALN_CTL_BAR i) == fn
  | .SYNC_RALN_BASE => barCtx s (s.fld F.SYNC_RALN_CTL_BAR i) == fn
  | .MEM_CH_STAT => true
  | .FAB_NODE => true
  | .LNK_STAT => true
  | .COL_GRP_STAT => grpCtx s i == fn
  | .COL_GRP_EPOCH => grpCtx s i == fn
  | .DBG_SNAP_ADDR => i == fn
  | .DBG_SNAP_CMD => i == fn
  | .CORE_ACC_STAT => coreCtx s i == some fn
  | .CORE_Q_STAT => coreCtx s i == some fn
  | .CORE_VEC_FLAGS => coreCtx s i == some fn
  | .CORE_SR_SEED => coreCtx s i == some fn
  | .CORE_WAIT => coreCtx s i == some fn
  | .CORE_WAIT_SINCE => coreCtx s i == some fn
  | _ => false

def mayRead (s : State) (fn : Nat) (r : Reg) (i : Nat) : Bool := fn == 0 || (ctxExists s fn && vfMayRead s fn r i)

/-! ## Writes that do more than their access codes say -/

/-- Whether each of n writes succeeds: free choices. -/
def chooseN : Nat → State → List Bool × State
  | 0, s => ([], s)
  | n + 1, s =>
    let (bad, s) := s.choose
    let (l, s) := chooseN n s
    ((!bad) :: l, s)

/-- DEV_ERR_LOG_CTL (Table 18.9). -/
def opErrLogCtl (v : Nat) (s : State) : State :=
  let s := s.regWrite .DEV_ERR_LOG_CTL 0 (setBitsN v 4 1 (s.fld F.DEV_ERR_LOG_CTL_EN))
  let lg := s.fld F.DEV_ERR_LOG_CTL_LOG2N
  if bitN v 4 then
    let s := { s.setFld F.DEV_ERR_LOG_STAT_FAIL 0 0 with errStop := false }
    s.setFld F.DEV_ERR_LOG_CTL_EN 0 (if 4 ≤ lg && lg ≤ 12 then 1 else 0)
  else { s.setFld F.DEV_ERR_LOG_CTL_EN 0 0 with errStop := false }

/-- DEV_FROST_CMD (Table 18.10). The tables give no moment at which hardware clears FREEZE, THAW and DUMP: they never read 1,
also while a THAW waits for the cut or a dump runs (DESIGN CHOICE, assumption 145). -/
def opFrostCmd (v : Nat) (s : State) : State :=
  let s := if bitN v 0 then enterLocal fsrcREG (bitsN v 1 1) none s else s
  let s := if bitN v 2 then askThaw (bitN v 3) s else s
  if bitN v 4 then opDump s else s

/-- FE_RING_CMD (Table 9.9): how the host takes the writes that ARM makes is free. Table 9.9 gives no moment at which hardware
clears ARM: it never reads 1, also while the read of TAIL of R213 is awaited (DESIGN CHOICE, assumption 145). -/
def opRingCmd (r v : Nat) (s : State) : State :=
  let s := if bitN v 0 then
      let (l, s) := chooseN ((s.ring r).descs.length + 1) s
      opArm r l s
    else s
  if bitN v 1 then opAbort r s else s

/-- CORE_CTX_CTL: CMD 1 saves, 2 restores (Table 7.20). -/
def opCtxCtl (c v : Nat) (s : State) : State :=
  match bitsN v 0 2 with
  | 1 => opSave c (bitN v 2) s
  | 2 => opRestore c s
  | _ => s

/-- DBG_TRC_CTL: a clear of EN drains the writers, and EN reads 1 until they are empty (R385). -/
def opTrcCtl (v : Nat) (s : State) : State :=
  let on := s.flag F.DBG_TRC_CTL_EN
  let s' := s.regWrite .DBG_TRC_CTL 0 (if on then setBitsN v 0 1 1 else v)
  if on && !(bitN v 0) then s'.modDbg (fun d => { d with drain := true })
  else if on then s'
  else s'.modDbg (fun d => { d with ctl := (s'.reg .DBG_TRC_CTL 0).toNat })

/-- SEC_LNK_CTL: TXSLOT applies from the next batch (R401), so an open one is closed first. -/
def opSecLnkCtl (p v : Nat) (s : State) : State :=
  let s := if bitsN v 1 1 = s.fld F.SEC_LNK_CTL_TXSLOT p then s else closeBatch p s
  s.regWrite .SEC_LNK_CTL p v

/-- FE_PROG_MIRROR(n): EN written again ends a stop (R211). -/
def opMirrorCtl (n v mask : Nat) (s : State) : State :=
  let s := s.regWrite .FE_PROG_MIRROR n v
  if bitN mask 0 && bitN v 0 then s.modFe (fun f => { f with mirrorStop := smSet false n false f.mirrorStop }) else s

/-- PWR_THAW_MAP takes a write whole or not at all (Table 16.6). -/
def opThawMap (v : Nat) (s : State) : State :=
  if (List.range 12).all (fun k => bitsN v (4 * k) 4 ≤ 11) then s.regWrite .PWR_THAW_MAP 0 v else s

/-- A write taken only while a flag is clear. -/
def unless_ (b : Bool) (r : Reg) (i v : Nat) (s : State) : State := if b then s else s.regWrite r i v

/-- A write of register r(i): `v` has been completed by what the bits outside `mask` keep (see mergeWrite). -/
def writeReg (fn : Nat) (r : Reg) (i v mask : Nat) (s : State) : State :=
  match r with
  | .DEV_SYS_RST => opSysRst v s
  | .DEV_CORE_RST => opCoreRst v s
  | .DEV_ERR_LOG_CTL => opErrLogCtl v s
  | .DEV_FROST_CMD => opFrostCmd v s
  | .TXN_BEGIN => if bitN v 0 then opTxnBegin s else s
  | .TXN_COMMIT => if bitN v 0 then opTxnCommit s else s
  | .TXN_ABORT => if bitN v 0 then opTxnAbort s else s
  | .OTP_PROG_CTL => opOtpProgram v s
  | .FE_FLT_CTL => opFltCtl v s
  | .FE_PROG_MIRROR => opMirrorCtl i v mask s
  | .FE_TQ_BASE => unless_ (s.flag F.FE_TQ_CTL_EN i) r i v s
  | .FE_TQ_CTL => opTqCtl i v s
  | .FE_RING_BASE => unless_ (s.flag F.FE_RING_CTL_EN i) r i v s
  | .FE_RING_HDR => unless_ (s.flag F.FE_RING_CTL_EN i) r i v s
  | .FE_RING_CQ => unless_ (s.flag F.FE_RING_CTL_EN i) r i v s
  | .FE_RING_CTL => let (bad, s) := s.choose; opRingCtl i v (!bad) s
  | .FE_RING_CMD => opRingCmd i v s
  | .SYNC_CTX_LIM => opCtxLim i v s
  | .SYNC_CLR => opSyncClr v s
  | .SYNC_BAR_CTL => opBarCtl i v s
  | .SYNC_BAR_MASK => unless_ (s.flag F.SYNC_BAR_CTL_EN (i / 3)) r i v s
  | .SYNC_RALN_CTL => opRalnCtl i v s
  | .SYNC_RALN_WORD => unless_ (s.flag F.SYNC_RALN_CTL_EN (i / 16)) r i v s
  | .PWR_CAP => opPwrCap v s
  | .PWR_RAMP_DN => (moveCap s).regWrite r i v
  | .PWR_THAW_MAP => opThawMap v s
  | .MEM_WCB_CTL => let s := wcbLimits (s.regWrite r i v); if bitN v 16 then opWcbFlush s else s
  | .MEM_TG_CTL => opTgStart v s
  | .MEM_CTX_INVAL => if bitN v 0 then opInval i s else s
  | .FAB_CTX_DOM => opCtxDom i v s
  | .FE_CTX_CFG => unless_ (!(ctxExists s i)) r i v s
  | .SYNC_CTX_TBL => unless_ (!(ctxExists s i)) r i v s
  | .MEM_CTX_PTBASE => unless_ (!(ctxExists s i)) r i v s
  | .LNK_CTL => let s := opLnkCtl i v s; if bitN v 6 then opRetrain i s else s
  | .COL_GRP_LIST => unless_ (s.flag F.COL_GRP_CTL_EN i) r i v s
  | .COL_GRP_CTL => grpCtl i v s
  | .DBG_SNAP_CMD => opSnapCmd fn i v s
  | .DBG_TRC_CTL => opTrcCtl v s
  | .DBG_TRC_BASE => unless_ (s.flag F.DBG_TRC_CTL_EN) r i v s
  | .DBG_WFG_CTL => let s := s.regWrite r i (setBitsN v 16 1 0); if bitN v 16 then startGraph false s else s
  | .SEC_LNK_CTL => opSecLnkCtl i v s
  | .CORE_OWNER => opOwner i v s
  | .CORE_RATE_CTL => (windowsNow i none s).regWrite r i v
  | .CORE_CTX_CTL => opCtxCtl i v s
  | .CORE_SYNC_CTL => opCoreSyncCtl i v s
  | .CORE_DBG_CTL => opHalt i v s
  | _ => s.regWrite r i v

/-! ## An access: R408, R414, R361 -/

/-- Until host ready only the mirror of slot 0 can be written (R361). -/
def served (s : State) (r : Reg) (i : Nat) : Bool := ready s || (r == .FE_PROG_MIRROR && i == 0)

/-- A write of the bits of `mask` of a register. -/
def writeBits (fn : Nat) (r : Reg) (i v mask : Nat) (s : State) : State :=
  if !(mayWrite s fn r i) || !(served s r i) then s
  else if r.info.txn then opShadow r i v mask s
  else writeReg fn r i (mergeWrite r (s.reg r i).toNat v mask) mask s

/-- A byte range of an array outside the registers: OTP_PROG_BUF (Table 17.13) and the key areas (R401). -/
def writeArray (off v : Nat) (s : State) : State :=
  if !(ready s) then s
  else if 0x20100 ≤ off && off < 0x20100 + 136 then
    (List.range 4).foldl (fun s k => s.modRst (fun x => { x with
      buf := smSet 0 (off - 0x20100 + k) (BitVec.ofNat 8 (v / 256 ^ k)) x.buf })) s
  else if 0x710040 ≤ off && off < 0x710000 + 16 * 0x200 then
    let e := off - 0x710000
    let p := e / 0x200
    let k := (e % 0x200) - 0x40
    if 0x40 ≤ e % 0x200 && k / 0x40 < 4 && k % 0x40 / 4 < 16 then opLnkKey p (k / 0x40) (k % 0x40 / 4) v s else s
  else s

/-- A write of four bytes. -/
def write4 (fn off v : Nat) (s : State) : State :=
  match regAt off with
  | some (r, i, b) => writeBits fn r i (v % 2 ^ 32 * 2 ^ (8 * b)) ((2 ^ 32 - 1) * 2 ^ (8 * b)) s
  | none => if fn = 0 then writeArray off (v % 2 ^ 32) s else s

/-- Whether an access has a form that BAR0 serves: 4 or 8 bytes, naturally aligned. -/
def bar0Form (off len : Nat) : Bool := (len == 4 || len == 8) && off % len == 0

/-- A BAR0 write of `len` bytes: discarded unless its form is served; eight bytes over two 32-bit registers write the lower
first. -/
def bar0Write (fn off len v : Nat) (s : State) : State :=
  if !(bar0Form off len) then s
  else if len = 8 then
    match regAt off with
    | some (r, i, 0) =>
      if r.info.width = 64 then writeBits fn r i v (2 ^ 64 - 1) s
      else write4 fn (off + 4) (v / 2 ^ 32) (write4 fn off v s)
    | _ => write4 fn (off + 4) (v / 2 ^ 32) (write4 fn off v s)
  else write4 fn off v s

/-- Whether a write's offset lies in a transactional register. -/
def hitsTxn (off : Nat) : Bool := match regAt off with | some (r, _, _) => r.info.txn | none => false

/-! ## What reads return: R409, R413, R416 -/

/-- What a register holds at this instant. Fields that mirror other state are formed here. -/
def liveValue (s : State) (r : Reg) (i : Nat) : Nat :=
  let v := (s.reg r i).toNat
  match r with
  | .DEV_TIMEBASE => s.timebase
  | .DEV_NUM_CTL => setBitsN v 2 1 (if strictEff s then 1 else 0)
  | .DEV_PART => setBitsN v 16 1 (if s.d2d.guest then 1 else 0)
  | .FE_RING_CMD =>
    let k := s.ring i
    setBitsN (setBitsN (setBitsN v 8 3 k.st) 16 7 (parkedRecs k)) 24 4 k.cause
  | .LNK_BUF_STAT => lnkReplay s i + lnkIngress s i * 2 ^ 16 + lnkEgress s i * 2 ^ 32
  | .CORE_RATE_CNT => ((windowsNow i none s).reg .CORE_RATE_CNT i).toNat
  | .CORE_MARGIN_STAT => Config.margins i s.now % 2 ^ 32
  | .CORE_ACC_STAT => (if (s.core i).accInt then 1 else 0) + (if (s.core i).accTsat then 2 else 0)
  | .CORE_Q_STAT => qStat (s.core i)
  | .CORE_WAIT => coreWaitReg s i
  | .CORE_WAIT_SINCE => (s.core i).waitSince
  | .CORE_DBG_PC => if s.flag F.CORE_DBG_CTL_HALT i then (s.core i).pc.toNat else 0
  | _ => v

/-- What function fn reads from a register. The identity reads zero before boot step 2 is complete (R413); the window
registers read zero without a guest die (Table 15.12); shadows are shown to the PF while TXN_VIEW.SHADOW = 1. -/
def readReg (s : State) (fn : Nat) (r : Reg) (i : Nat) : Nat :=
  if !(mayRead s fn r i) then 0
  else if r.info.base ≤ 0x28 && bootStep s < 2 then 0
  else if isWindowReg r && !s.d2d.guest then 0
  else if r.info.txn && fn = 0 && s.flag F.TXN_VIEW_SHADOW then (shadowOf s r i).toNat
  else liveValue s r i

/-- Offsets that BAR0 reads serve before host ready: the DEV block and FE_PROG(0) to (7) (R361). -/
def servedEarly (a : Nat) : Bool := a < 0x10000 || (0x42000 ≤ a && a < 0x42000 + 8 * 0x20)

/-- A BAR0 read of n bytes; none where it completes with unsupported request. FE_PROG(n) reads the progress record;
OTP_PROG_BUF and OTP_RAW read to the PF alone, and so does SEC_MEAS, whose latch is its command's. -/
def bar0Read (s : State) (fn off n : Nat) : Option Nat :=
  if !(bar0Form off n) then none
  else
    let byte (a : Nat) : Nat :=
      if !(ready s) && !(servedEarly a) then 0
      else match regAt a with
      | some (r, i, b) => bitsN (readReg s fn r i) (8 * b) 8
      | none =>
        if 0x42000 ≤ a && a < 0x42000 + 72 * 0x20 then
          let k := (a - 0x42000) / 0x20
          if fn = 0 || k = 8 + fn then fieldLe (progBytes k (s.prog k)) ((a - 0x42000) % 0x20) 1 else 0
        else if fn = 0 && 0x20100 ≤ a && a < 0x20100 + 136 then (smGet 0 s.rst.buf (a - 0x20100)).toNat
        else if fn = 0 && 0x21000 ≤ a && a < 0x21800 then (otpRaw s (a - 0x21000)).toNat
        else if fn = 0 && 0x700140 ≤ a && a < 0x700280 && a % 64 < 48 then
          let i := (a - 0x700100) / 64
          ((if a % 64 < 8 then measOf s i else smGet [] s.sec.latch i).getD (a % 64) 0).toNat
        else 0
    some ((List.range n).foldl (fun v k => v + byte (off + k) * 256 ^ k) 0)

/-! ## The rows -/

/-- The end of a BAR0 write: which registers are served before host ready is decided at the register. -/
def execRegisterWrite (fn : CtxId) (off : Fin 0x2000000) (len : Fin 4097) (v : Word) (s : State) : Answer :=
  run s (bar0Write fn off len v.toNat s)
/-- SHADOW_WRITE (R414, R416). -/
def execShadowWrite (fn : CtxId) (off : Fin 0x2000000) (len : Fin 4097) (v : Word) (s : State) : Answer :=
  run s (if hitsTxn off then bar0Write fn off len v.toNat s else s)
/-- DEV_ERR_LOG_CTL (R371). -/
def execDevErrLogCtl (v : BitVec 32) (s : State) : Answer := runHost s (opErrLogCtl v.toNat s)

end Sys2Proof.Machine
end

