-- ==== Sys2Proof/Machine/Cp.lean ====
section
/-! DEFINITION. The control processor (R136 to R139, R144 to R146, R149): instruction fetch through its cache and the
device MMU, RV64IMAC with Zicsr and Zifencei in S-mode, exceptions and the QERR interrupt, and the custom instructions
of Table 7.8. RISC-V details that the spec takes by name are PRESUMED from the RISC-V standard (see the log). -/

namespace Sys2Proof.Machine

/-! ## When a control processor may run -/

/-- An S-mode program runs on the core, at an instruction boundary, and nothing stops it: not parked, no released
instruction still to retire, not halted (R392), not held by Frost or a Thaw wave, not in core reset. -/
def cpRuns (s : State) (c : Nat) : Bool :=
  let k := s.core c
  coreState s c == csRunning && k.launched && k.park.isNone && k.retire.isNone && !(s.flag F.CORE_DBG_CTL_HALT c) &&
  !(slotHeld s (c / 16)) && !k.inReset

/-- sstatus.SIE and sie[16]. -/
def qerrEnabled (k : CoreSt) : Bool := bitN k.sstatus.toNat 1 && bitN k.sie.toNat 16

/-- Whether the QERR interrupt is taken at the next boundary. -/
def irqDue (s : State) (c : Nat) : Bool := let k := s.core c; qerr k && qerrEnabled k

/-- A parked instruction that an interrupt ends (R145): all but TEXIT. -/
def interruptible (k : CoreSt) : Bool :=
  match k.park with
  | none => false
  | some (.texit _ _ _) => false
  | _ => true

/-- S-mode trap entry (RISC-V privileged architecture). With no user mode, SPP reads 1. -/
def trapTo (c : Nat) (cause : Nat) (isInt : Bool) (tval : Word) (s : State) : State :=
  s.modCore c (fun k =>
    let st := k.sstatus.toNat
    let st := setBitsN (setBitsN (setBitsN st 5 1 (bitsN st 1 1)) 1 1 0) 8 1 1
    let base := k.stvec.toNat / 4 * 4
    { k with
      sepc := k.pc
      scause := wN (cause + if isInt then 2 ^ 63 else 0)
      stval := tval
      sstatus := wN st
      pc := wN (if isInt && bitN k.stvec.toNat 0 then base + 4 * cause else base) })

/-- A delegated exception: R138 if stvec.BASE is zero, else the trap. -/
def except (c cause : Nat) (tval : Word) (s : State) : State :=
  if (s.core c).stvec.toNat / 4 = 0 then beginExit c (wN (0x80000100 + cause)) false s
  else trapTo c cause false tval s

/-- The QERR interrupt (local interrupt 16). A parked wait is taken off with no effect. -/
def takeIrq (c : Nat) (s : State) : State :=
  let old := coreWait s c
  let s := dropWaits (Waiter.isCore c) s
  trapTo c 16 true 0 (stampWait old c (s.modCore c (fun k => { k with park := none })))

/-! ## Fetch -/

/-- Lines the 64 KiB cache holds. -/
def icLines : Nat := 1024

/-- The result of fetching: the instruction's bits and length and what is left of the host's answer, an exception, a
stop, or a line in a HOST page for which no answer is at hand. -/
inductive Fetch where
  | ok (ins len : Nat) (host : List Byte) (s : State)
  | exc (cause tval : Nat) (s : State)
  | stop (s : State)
  | needHost (ctx addr : Nat)
deriving DecidableEq, Repr

inductive LineGet where
  | ok (l : List Byte) (host : List Byte) (s : State)
  | exc (cause tval : Nat) (s : State)
  | stop (s : State)
  | needHost (ctx addr : Nat)
deriving DecidableEq, Repr

/-- Get the 64-byte line of virtual line number `ln`: from the cache, else from memory into the cache. `va` is the
address reported by an exception. -/
def fetchLine (c ctx ln va : Nat) (host : Option HostAns) (left : List Byte) (s : State) : LineGet :=
  match (s.core c).icache.find? (fun e => e.1 == ln) with
  | some (_, l) => .ok l left s
  | none =>
    let fill (l : List Byte) (s : State) : State :=
      s.modCore c (fun k => { k with icache := ((ln, l) :: k.icache).take icLines })
    match locateCp c ctx (ln * 64) 64 .x s with
    | .exc cause _ s => .exc cause va s
    | .at l =>
      let s := noteAt ctx (ln * 64) l s
      match l.headD (.exc 1) with
      | .host a =>
        match host with
        | none => .needHost ctx a
        | some h =>
          let s := emit (.hostRead ctx a 64) s
          if h.denied then .exc 12 va s
          else if h.poisoned then .exc 1 va (deferred (some ctx) 0 c 14 0 0 s)
          else let d := slice left 0 64; .ok d (left.drop 64) (fill d s)
      | _ =>
        match readPoison c ctx l s with
        | .stop s => .stop s
        | .fault s => .exc 1 va s
        | .clean => let d := readAt s l []; .ok d left (fill d s)

/-- Fetch the instruction at pc. -/
def fetch (c : Nat) (host : Option HostAns) (s : State) : Fetch :=
  let ctx := blkCtx s c
  let pc := (s.core c).pc.toNat
  let left := match host with | some h => h.data | none => []
  if 2 ^ 48 ≤ pc then .exc 1 pc s
  else match fetchLine c ctx (pc / 64) pc host left s with
    | .exc cause v s => .exc cause v s
    | .stop s => .stop s
    | .needHost x a => .needHost x a
    | .ok l left s =>
      let lo := fieldLe l (pc % 64) 2
      if lo % 4 != 3 then .ok lo 2 left s
      else if pc % 64 ≤ 60 then .ok (fieldLe l (pc % 64) 4) 4 left s
      else if 2 ^ 48 ≤ pc + 2 then .exc 1 (pc + 2) s
      else match fetchLine c ctx (pc / 64 + 1) (pc + 2) host left s with
        | .exc cause v s => .exc cause v s
        | .stop s => .stop s
        | .needHost x a => .needHost x a
        | .ok l2 left s => .ok (lo + 65536 * fieldLe l2 0 2) 4 left s

/-! ## Compressed instructions (RV64C): each is another spelling of a 32-bit instruction -/

def enR (op f3 f7 rd rs1 rs2 : Nat) : Nat := op + rd * 128 + f3 * 4096 + rs1 * 32768 + rs2 * 2 ^ 20 + f7 * 2 ^ 25
def enI (op f3 rd rs1 imm : Nat) : Nat := op + rd * 128 + f3 * 4096 + rs1 * 32768 + (imm % 4096) * 2 ^ 20
def enS (op f3 rs1 rs2 imm : Nat) : Nat :=
  op + (imm % 32) * 128 + f3 * 4096 + rs1 * 32768 + rs2 * 2 ^ 20 + (imm / 32 % 128) * 2 ^ 25
/-- B-type from a 13-bit offset, modulo 2^13. -/
def enB (f3 rs1 rs2 imm : Nat) : Nat :=
  0x63 + (bitsN imm 11 1) * 128 + (bitsN imm 1 4) * 256 + f3 * 4096 + rs1 * 32768 + rs2 * 2 ^ 20 +
    (bitsN imm 5 6) * 2 ^ 25 + (bitsN imm 12 1) * 2 ^ 31
/-- JAL from a 21-bit offset, modulo 2^21. -/
def enJ (rd imm : Nat) : Nat :=
  0x6F + rd * 128 + (bitsN imm 12 8) * 4096 + (bitsN imm 11 1) * 2 ^ 20 + (bitsN imm 1 10) * 2 ^ 21 + (bitsN imm 20 1) * 2 ^ 31

/-- Sign-extend an n-bit number to m bits, as a number modulo 2^m. -/
def sextN (n m v : Nat) : Nat := if v < 2 ^ (n - 1) then v else v + 2 ^ m - 2 ^ n

/-- The 32-bit instruction of a 16-bit one; none if reserved or not of RV64C without floating point. -/
def expandC (h : Nat) : Option Nat :=
  let f3 := bitsN h 13 3
  let rd := bitsN h 7 5
  let r2 := bitsN h 2 5
  let rdp := 8 + bitsN h 2 3
  let rsp := 8 + bitsN h 7 3
  let imm6 := bitsN h 2 5 + 32 * bitsN h 12 1
  let s6 := sextN 6 12 imm6
  match h % 4, f3 with
  | 0, 0 =>
    let imm := bitsN h 6 1 * 4 + bitsN h 5 1 * 8 + bitsN h 11 2 * 16 + bitsN h 7 4 * 64
    if imm = 0 then none else some (enI 0x13 0 rdp 2 imm)
  | 0, 2 => some (enI 0x03 2 rdp rsp (bitsN h 6 1 * 4 + bitsN h 10 3 * 8 + bitsN h 5 1 * 64))
  | 0, 3 => some (enI 0x03 3 rdp rsp (bitsN h 10 3 * 8 + bitsN h 5 2 * 64))
  | 0, 6 => some (enS 0x23 2 rsp rdp (bitsN h 6 1 * 4 + bitsN h 10 3 * 8 + bitsN h 5 1 * 64))
  | 0, 7 => some (enS 0x23 3 rsp rdp (bitsN h 10 3 * 8 + bitsN h 5 2 * 64))
  | 1, 0 => some (enI 0x13 0 rd rd s6)
  | 1, 1 => if rd = 0 then none else some (enI 0x1B 0 rd rd s6)
  | 1, 2 => some (enI 0x13 0 rd 0 s6)
  | 1, 3 =>
    if rd = 2 then
      let imm := bitsN h 6 1 * 16 + bitsN h 2 1 * 32 + bitsN h 5 1 * 64 + bitsN h 3 2 * 128 + bitsN h 12 1 * 512
      if imm = 0 then none else some (enI 0x13 0 2 2 (sextN 10 12 imm))
    else if imm6 = 0 then none
    else some (0x37 + rd * 128 + sextN 6 20 imm6 * 4096)
  | 1, 4 =>
    match bitsN h 10 2 with
    | 0 => some (enI 0x13 5 rsp rsp imm6)
    | 1 => some (enI 0x13 5 rsp rsp (imm6 + 0x400))
    | 2 => some (enI 0x13 7 rsp rsp s6)
    | _ =>
      match bitsN h 12 1, bitsN h 5 2 with
      | 0, 0 => some (enR 0x33 0 0x20 rsp rsp rdp)
      | 0, 1 => some (enR 0x33 4 0 rsp rsp rdp)
      | 0, 2 => some (enR 0x33 6 0 rsp rsp rdp)
      | 0, _ => some (enR 0x33 7 0 rsp rsp rdp)
      | _, 0 => some (enR 0x3B 0 0x20 rsp rsp rdp)
      | _, 1 => some (enR 0x3B 0 0 rsp rsp rdp)
      | _, _ => none
  | 1, 5 =>
    let imm := bitsN h 3 3 * 2 + bitsN h 11 1 * 16 + bitsN h 2 1 * 32 + bitsN h 7 1 * 64 + bitsN h 6 1 * 128 +
      bitsN h 9 2 * 256 + bitsN h 8 1 * 1024 + bitsN h 12 1 * 2048
    some (enJ 0 (sextN 12 21 imm))
  | 1, 6 =>
    let imm := bitsN h 3 2 * 2 + bitsN h 10 2 * 8 + bitsN h 2 1 * 32 + bitsN h 5 2 * 64 + bitsN h 12 1 * 256
    some (enB 0 rsp 0 (sextN 9 13 imm))
  | 1, 7 =>
    let imm := bitsN h 3 2 * 2 + bitsN h 10 2 * 8 + bitsN h 2 1 * 32 + bitsN h 5 2 * 64 + bitsN h 12 1 * 256
    some (enB 1 rsp 0 (sextN 9 13 imm))
  | 2, 0 => some (enI 0x13 1 rd rd imm6)
  | 2, 2 =>
    if rd = 0 then none else some (enI 0x03 2 rd 2 (bitsN h 4 3 * 4 + bitsN h 12 1 * 32 + bitsN h 2 2 * 64))
  | 2, 3 =>
    if rd = 0 then none else some (enI 0x03 3 rd 2 (bitsN h 5 2 * 8 + bitsN h 12 1 * 32 + bitsN h 2 3 * 64))
  | 2, 4 =>
    if bitsN h 12 1 = 0 then
      if r2 = 0 then (if rd = 0 then none else some (enI 0x67 0 0 rd 0)) else some (enR 0x33 0 0 rd 0 r2)
    else if r2 = 0 then (if rd = 0 then some 0x00100073 else some (enI 0x67 0 1 rd 0))
    else some (enR 0x33 0 0 rd rd r2)
  | 2, 6 => some (enS 0x23 2 2 r2 (bitsN h 9 4 * 4 + bitsN h 7 2 * 64))
  | 2, 7 => some (enS 0x23 3 2 r2 (bitsN h 10 3 * 8 + bitsN h 7 3 * 64))
  | _, _ => none

/-! ## Integer operations (RV64IM) -/

def sxw (n : Nat) : Word := (BitVec.ofNat 32 n).signExtend 64

/-- RV64IM operation by funct3, with sub/sra selected by `alt` and multiply/divide by `mul`. -/
def alu (f3 : Nat) (alt mul : Bool) (a b : Word) : Word :=
  if mul then
    match f3 with
    | 0 => a * b
    | 1 => BitVec.ofInt 64 (a.toInt * b.toInt / 2 ^ 64)
    | 2 => BitVec.ofInt 64 (a.toInt * (b.toNat : Int) / 2 ^ 64)
    | 3 => wN (a.toNat * b.toNat / 2 ^ 64)
    | 4 => if b = 0 then BitVec.allOnes 64 else BitVec.ofInt 64 (a.toInt.tdiv b.toInt)
    | 5 => if b = 0 then BitVec.allOnes 64 else wN (a.toNat / b.toNat)
    | 6 => if b = 0 then a else BitVec.ofInt 64 (a.toInt.tmod b.toInt)
    | _ => if b = 0 then a else wN (a.toNat % b.toNat)
  else
    match f3 with
    | 0 => if alt then a - b else a + b
    | 1 => a <<< (b.toNat % 64)
    | 2 => if a.toInt < b.toInt then 1 else 0
    | 3 => if a.toNat < b.toNat then 1 else 0
    | 4 => a ^^^ b
    | 5 => if alt then a.sshiftRight (b.toNat % 64) else a >>> (b.toNat % 64)
    | 6 => a ||| b
    | _ => a &&& b

/-- The 32-bit forms; none where RV64 has no such operation. -/
def aluW (f3 : Nat) (alt mul : Bool) (a b : Word) : Option Word :=
  let x : BitVec 32 := a.setWidth 32
  let y : BitVec 32 := b.setWidth 32
  let r : Option (BitVec 32) :=
    if mul then
      match f3 with
      | 0 => some (x * y)
      | 4 => some (if y = 0 then BitVec.allOnes 32 else BitVec.ofInt 32 (x.toInt.tdiv y.toInt))
      | 5 => some (if y = 0 then BitVec.allOnes 32 else BitVec.ofNat 32 (x.toNat / y.toNat))
      | 6 => some (if y = 0 then x else BitVec.ofInt 32 (x.toInt.tmod y.toInt))
      | 7 => some (if y = 0 then x else BitVec.ofNat 32 (x.toNat % y.toNat))
      | _ => none
    else
      match f3 with
      | 0 => some (if alt then x - y else x + y)
      | 1 => some (x <<< (b.toNat % 32))
      | 5 => some (if alt then x.sshiftRight (b.toNat % 32) else x >>> (b.toNat % 32))
      | _ => none
  r.map (fun v => v.signExtend 64)

def branchTaken (f3 : Nat) (a b : Word) : Option Bool :=
  match f3 with
  | 0 => some (a == b)
  | 1 => some (a != b)
  | 4 => some (a.toInt < b.toInt)
  | 5 => some (b.toInt ≤ a.toInt)
  | 6 => some (a.toNat < b.toNat)
  | 7 => some (b.toNat ≤ a.toNat)
  | _ => none

/-- The new word of an AMO (funct5), on operands of n bits. -/
def amoOp (f5 n : Nat) (old src : Nat) : Option Nat :=
  let o := BitVec.ofNat n old
  let v := BitVec.ofNat n src
  match f5 with
  | 0x01 => some v.toNat
  | 0x00 => some (o + v).toNat
  | 0x04 => some (o ^^^ v).toNat
  | 0x0C => some (o &&& v).toNat
  | 0x08 => some (o ||| v).toNat
  | 0x10 => some (if o.toInt ≤ v.toInt then o else v).toNat
  | 0x14 => some (if o.toInt ≤ v.toInt then v else o).toNat
  | 0x18 => some (min o.toNat v.toNat)
  | 0x1C => some (max o.toNat v.toNat)
  | _ => none

/-! ## CSRs: Table 7.1 and the S-mode CSRs -/

/-- Bits of sstatus that software may write: SIE, SPIE, MXR. -/
def sstatusMask : Nat := 0x80022

/-- The value of a CSR; none if S-mode has no such CSR. `cyc` is the value cycle reads. -/
def csrRead (s : State) (c csr cyc : Nat) : Option Word :=
  let k := s.core c
  match csr with
  | 0x100 => some (k.sstatus ||| 0x100)
  | 0x104 => some k.sie
  | 0x105 => some k.stvec
  | 0x106 => some k.scounteren
  | 0x140 => some k.sscratch
  | 0x141 => some k.sepc
  | 0x142 => some k.scause
  | 0x143 => some k.stval
  | 0x144 => some (if qerr k then 0x10000 else 0)
  | 0x180 => some 0
  | 0x5C0 => some (s.reg .CORE_SR_SEED c)
  | 0x5C1 => some (s.reg .CORE_VEC_FLAGS c)
  | 0xC00 => some (wN cyc)
  | 0xC01 => some (wN s.timebase)
  | 0xC02 => some k.instret
  | 0xDC0 => some (wN c)
  | 0xDC1 => some (wN (blkCtx s c))
  | 0xDC2 => some (wN (s.fld F.FAB_NODE_ID))
  | _ => none

/-- Write a CSR. satp and sip keep nothing that software writes. -/
def csrWrite (c csr : Nat) (v : Word) (s : State) : State :=
  let m (f : CoreSt → CoreSt) : State := s.modCore c f
  match csr with
  | 0x100 => m (fun k => { k with sstatus := wN (v.toNat &&& sstatusMask) })
  | 0x104 => m (fun k => { k with sie := v &&& 0x10000 })
  | 0x105 => m (fun k => { k with stvec := wN (v.toNat / 4 * 4 + v.toNat % 2) })
  | 0x106 => m (fun k => { k with scounteren := v &&& 7 })
  | 0x140 => m (fun k => { k with sscratch := v })
  | 0x141 => m (fun k => { k with sepc := wN (v.toNat / 2 * 2) })
  | 0x142 => m (fun k => { k with scause := v })
  | 0x143 => m (fun k => { k with stval := v })
  | 0x5C0 => s.setReg .CORE_SR_SEED c v
  | 0x5C1 => s.setReg .CORE_VEC_FLAGS c (wN (bitsN ((s.reg .CORE_VEC_FLAGS c).toNat &&& (v.toNat ^^^ (2 ^ 64 - 1))) 0 64))
  | _ => s

/-! ## One instruction -/

/-- Retire: the next pc, and instret. -/
def retire (c : Nat) (next : Word) (f : CoreSt → CoreSt) (s : State) : State :=
  s.modCore c (fun k => { (f k) with pc := next, instret := k.instret + 1 })

/-- An illegal instruction (cause 2). stval holds the bits or zero: RISC-V leaves the choice, so it is free. -/
def illegal (c ins : Nat) (s : State) : State :=
  let (b, s) := s.choose
  except c 2 (wN (if b then ins else 0)) s

/-- A load of n bytes at va into rd, sign-extended if `sg`. -/
def cpLoad (c va n rd : Nat) (sg : Bool) (next : Word) (h : HostAns) (left : List Byte) (s : State) : State :=
  let ctx := blkCtx s c
  match locateCp c ctx va n .r s with
  | .exc cause v s => except c cause (wN v) s
  | .at l =>
    let s := askHostAt ctx l (noteAt ctx va l s)
    if anyHost l && h.denied then except c 13 (wN va) s
    else if anyHost l && h.poisoned then except c 5 (wN va) (deferred (some ctx) 0 c 14 0 0 s)
    else match readPoison c ctx l s with
      | .stop s => s
      | .fault s => except c 5 (wN va) s
      | .clean =>
        let v := leNat (readAt s l left)
        retire c next (fun k => k.setX rd (if sg then wN (sextN (8 * n) 64 v) else wN v)) s

/-- A store of n bytes. -/
def cpStore (c va n : Nat) (v : Word) (next : Word) (h : HostAns) (s : State) : State :=
  let ctx := blkCtx s c
  match locateCp c ctx va n .w s with
  | .exc cause t s => except c cause (wN t) s
  | .at l =>
    let s := noteAt ctx va l s
    if anyHost l && h.denied then except c 15 (wN va) s
    else retire c next id (storeAt ctx l (natLe n v.toNat) s)

/-- LR, SC and the AMOs, on 4 or 8 aligned bytes (RISC-V A). -/
def cpAmo (c f5 n rd rs2 va : Nat) (ins : Nat) (next : Word) (s : State) : State :=
  let ctx := blkCtx s c
  let k := s.core c
  let src := (k.getX rs2).toNat % 2 ^ (8 * n)
  let put (v : Nat) (s : State) : State := retire c next (fun k => k.setX rd (wN (sextN (8 * n) 64 v))) s
  let acs : Acs := if f5 = 2 then .r else if f5 = 3 then .w else .rw
  let known := (f5 = 2 && rs2 = 0) || f5 = 3 || (amoOp f5 (8 * n) 0 0).isSome
  if !known then illegal c ins s
  else if va % n != 0 then except c (if f5 = 2 then 4 else 6) (wN va) s
  else match locateCp c ctx va n acs s with
    | .exc cause t s => except c cause (wN t) s
    | .at l =>
      if anyHost l then except c (accessCause acs) (wN va) s
      else
        let s := noteAt ctx va l s
        let a := ((l.filterMap physOf).head?).getD 0
        if f5 = 3 then
          let ok := k.resv == some a
          let s := s.modCore c (fun k => { k with resv := none })
          let s := if ok then storeAt ctx l (natLe n src) s else s
          retire c next (fun k => k.setX rd (if ok then 0 else 1)) s
        else match readPoison c ctx l s with
          | .stop s => s
          | .fault s => except c (accessCause acs) (wN va) s
          | .clean =>
            let old := leNat (readAt s l [])
            if f5 = 2 then put old (s.modCore c (fun k => { k with resv := some a }))
            else match amoOp f5 (8 * n) old src with
              | some v => put old (storeAt ctx l (natLe n v) s)
              | none => s

/-- A CSR instruction (Zicsr). -/
def cpCsr (c ins f3 rd rs1 csr : Nat) (next : Word) (s : State) : State :=
  let k := s.core c
  let src : Word := if 4 ≤ f3 then wN rs1 else k.getX rs1
  let (n, s1) := s.fresh
  let cyc := k.cycle.toNat + Config.freeNat n
  match csrRead s c csr cyc with
  | none => illegal c ins s
  | some old =>
    let s := if csr = 0xC00 then s1.modCore c (fun k => { k with cycle := wN cyc }) else s
    let writes := f3 % 4 = 1 || rs1 != 0
    if writes && 0xC00 ≤ csr then illegal c ins s
    else
      let new := match f3 % 4 with | 1 => src | 2 => old ||| src | _ => old &&& ~~~src
      let s := if writes then csrWrite c csr new s else s
      retire c next (fun k => k.setX rd old) s

/-- SYSTEM instructions other than CSR accesses. ECALL has a row of its own. -/
def cpSystem (c ins : Nat) (next : Word) (s : State) : State :=
  let k := s.core c
  if ins = 0x00100073 then
    let (b, s) := s.choose
    except c 3 (if b then k.pc else 0) s
  else if ins = 0x10200073 then
    let st := k.sstatus.toNat
    retire c k.sepc (fun k => { k with sstatus := wN (setBitsN (setBitsN st 1 1 (bitsN st 5 1)) 5 1 1) }) s
  else if ins = 0x10500073 then retire c next id s
  else if bitsN ins 25 7 = 9 && bitsN ins 7 5 = 0 then retire c next id s
  else illegal c ins s

/-- Execute one 32-bit instruction of RV64IMA, Zicsr or Zifencei whose length was `len`. -/
def cpExec (c ins len : Nat) (h : HostAns) (left : List Byte) (s : State) : State :=
  let k := s.core c
  let pc := k.pc
  let next := pc + wN len
  let rd := bitsN ins 7 5
  let f3 := bitsN ins 12 3
  let rs1 := bitsN ins 15 5
  let rs2 := bitsN ins 20 5
  let f7 := bitsN ins 25 7
  let a := k.getX rs1
  let b := k.getX rs2
  let immI := wN (sextN 12 64 (bitsN ins 20 12))
  let immS := wN (sextN 12 64 (bitsN ins 7 5 + 32 * f7))
  let immB := wN (sextN 13 64 (bitsN ins 8 4 * 2 + bitsN ins 25 6 * 32 + bitsN ins 7 1 * 2048 + bitsN ins 31 1 * 4096))
  let immU := wN (sextN 32 64 (bitsN ins 12 20 * 4096))
  let immJ := wN (sextN 21 64 (bitsN ins 21 10 * 2 + bitsN ins 20 1 * 2048 + bitsN ins 12 8 * 4096 + bitsN ins 31 1 * 2 ^ 20))
  let put (v : Word) : State := retire c next (fun k => k.setX rd v) s
  match bitsN ins 0 7 with
  | 0x37 => put immU
  | 0x17 => put (pc + immU)
  | 0x6F => retire c (pc + immJ) (fun k => k.setX rd next) s
  | 0x67 => if f3 = 0 then retire c (wN ((a + immI).toNat / 2 * 2)) (fun k => k.setX rd next) s else illegal c ins s
  | 0x63 =>
    match branchTaken f3 a b with
    | some t => retire c (if t then pc + immB else next) id s
    | none => illegal c ins s
  | 0x03 =>
    if f3 = 7 then illegal c ins s
    else cpLoad c (a + immI).toNat (2 ^ (f3 % 4)) rd (f3 < 4) next h left s
  | 0x23 => if 4 ≤ f3 then illegal c ins s else cpStore c (a + immS).toNat (2 ^ f3) b next h s
  | 0x13 =>
    if f3 = 1 && f7 / 2 != 0 then illegal c ins s
    else if f3 = 5 && f7 / 2 != 0 && f7 / 2 != 0x10 then illegal c ins s
    else put (alu f3 (f3 = 5 && f7 / 2 = 0x10) false a immI)
  | 0x1B =>
    if (f3 = 1 && f7 != 0) || (f3 = 5 && f7 != 0 && f7 != 0x20) then illegal c ins s
    else match aluW f3 (f3 = 5 && f7 = 0x20) false a immI with
      | some v => put v
      | none => illegal c ins s
  | 0x33 =>
    if f7 = 0 || f7 = 1 || (f7 = 0x20 && (f3 = 0 || f3 = 5)) then put (alu f3 (f7 = 0x20) (f7 = 1) a b) else illegal c ins s
  | 0x3B =>
    if f7 = 0 || f7 = 1 || (f7 = 0x20 && (f3 = 0 || f3 = 5)) then
      match aluW f3 (f7 = 0x20) (f7 = 1) a b with
      | some v => put v
      | none => illegal c ins s
    else illegal c ins s
  | 0x0F =>
    if f3 = 0 then retire c next id s
    else if f3 = 1 then retire c next (fun k => { k with icache := [] }) s
    else illegal c ins s
  | 0x2F =>
    if f3 = 2 then cpAmo c (f7 / 4) 4 rd rs2 a.toNat ins next s
    else if f3 = 3 then cpAmo c (f7 / 4) 8 rd rs2 a.toNat ins next s else illegal c ins s
  | 0x73 =>
    if f3 = 0 then cpSystem c ins next s
    else if f3 = 4 then illegal c ins s
    else cpCsr c ins f3 rd rs1 (bitsN ins 20 12) next s
  | _ => illegal c ins s

/-! ## Which row an instruction belongs to -/

/-- The custom instruction that an encoding of Table 7.8 names, by opcode and funct3; none if reserved or a field that
must be zero is not (R144). -/
def customOk (ins : Nat) : Bool :=
  let f3 := bitsN ins 12 3
  let rs2 := bitsN ins 20 5
  let f7 := bitsN ins 25 7
  match bitsN ins 0 7 with
  | 0x0B => f3 < 4 && rs2 == 0 && f7 < 16
  | 0x2B => (f3 < 4 && rs2 == 0 && f7 < 4) || (f3 == 4 && rs2 == 0 && f7 == 0)
  | 0x5B => match f3 with
    | 0 => f7 == 0
    | 1 => f7 < 2
    | 2 => f7 == 0 && rs2 == 0
    | 4 => f7 == 0
    | 5 => f7 == 0
    | _ => false
  | _ => false

/-- Whether an instruction has a row of its own in the table: ECALL and the custom instructions, TQCTL only as SKIP or
FLUSH. -/
def hasRow (k : CoreSt) (ins : Nat) : Bool :=
  ins == 0x73 ||
  (customOk ins && (!(bitsN ins 0 7 == 0x2B && bitsN ins 12 3 == 3) ||
    (k.getX (bitsN ins 15 5) == 1 || k.getX (bitsN ins 15 5) == 2)))

/-- One standard instruction, or the QERR interrupt that comes before it. An instruction that has a row of its own is
fetched here and executed there. -/
def opCp (c : Nat) (h : HostAns) (s : State) : State :=
  let k := s.core c
  let live := coreState s c == csRunning && k.launched && k.retire.isNone && !(s.flag F.CORE_DBG_CTL_HALT c) &&
    !(slotHeld s (c / 16)) && !k.inReset
  if live && irqDue s c && (k.park.isNone || interruptible k) then takeIrq c s
  else if !(cpRuns s c) then s
  else match fetch c (some h) s with
    | .needHost _ _ => s
    | .exc cause v s => except c cause (wN v) s
    | .stop s => s
    | .ok ins len left s =>
      if hasRow k ins then s
      else if len = 4 then
        if customOk ins then retire c (k.pc + 4) id s else cpExec c ins 4 h left s
      else match expandC ins with
        | some i => cpExec c i 2 h left s
        | none => illegal c ins s

/-- Run a row of its own: the core may run, no interrupt is due, and the instruction it fetches from the device's own
memory is one for which `mine` holds. -/
def opRow (c : Nat) (mine : Nat → Bool) (f : Nat → State → State) (s : State) : State :=
  if !(cpRuns s c) || irqDue s c then s
  else match fetch c none s with
    | .ok ins 4 _ s' => if mine ins then f ins s' else s
    | _ => s

def isCustom (op f3 : Nat) (ins : Nat) : Bool := customOk ins && bitsN ins 0 7 == op && bitsN ins 12 3 == f3

/-- A custom instruction completes: rd, pc + 4, instret. -/
def done4 (c rd : Nat) (v : Word) (s : State) : State := retire c ((s.core c).pc + 4) (fun k => k.setX rd v) s

/-- R146: cause 24 with a code of Table 7.9. -/
def tensorFault (c code : Nat) (s : State) : State := except c 24 (wN code) s

def rs1Of (s : State) (c ins : Nat) : Word := (s.core c).getX (bitsN ins 15 5)
def rs2Of (s : State) (c ins : Nat) : Word := (s.core c).getX (bitsN ins 20 5)
def rdOf (ins : Nat) : Nat := bitsN ins 7 5

/-- Park the core. -/
def parkCore (c : Nat) (p : Park) (s : State) : State :=
  stampWait (coreWait s c) c (s.modCore c (fun k => { k with park := some p }))

/-- Chains pending in a vector queue: at most four are held when a save begins, so a fifth waits (Table 7.23). -/
def pendingChains (k : CoreSt) : Nat := (k.vq.pend.filter (fun b => fieldLe b.bytes 0 1 == 0x80)).length

/-- Read scratchpad bytes for a push: their bytes, or a stop by poison (Table 18.2, class 1). -/
def padRead (c off n : Nat) (s : State) : Option (List Byte) :=
  if poisoned s (padAddr c off) n then none else some (rdBytes s (padAddr c off) n)

/-- TPUSH into queue q (R144, R146 to R149). -/
def opPush (c q ins : Nat) (s : State) : State :=
  let off := (rs1Of s c ins).toNat
  let k := s.core c
  let u := k.queue q
  if off % 64 != 0 || spSize < off + 64 then tensorFault c 1 s
  else match padRead c off 64 s with
    | none => contained (coreCtx s c) 0 c 1 (padAddr c off) 0 s
    | some bytes =>
      let chain := q == 1 && fieldLe bytes 0 1 == 0x80
      if qDepth q ≤ u.pendCount || (chain && 4 ≤ pendingChains k) then parkCore c (.push q) s
      else
        let b := CBlk.of bytes
        let n := 8 * b.nstg
        let stages : Option (List Byte) :=
          if chain && b.caddr % 8 == 0 && b.caddr + n ≤ spSize then padRead c b.caddr n s else some []
        match stages with
        | none => contained (coreCtx s c) 0 c 1 (padAddr c b.caddr) 0 s
        | some st =>
          let gate := bitsN ins 25 4
          let gs := ((List.range 4).filter (fun g => bitN gate g)).map (fun g => (g, (k.queue g).last))
          let blk : QBlk := ⟨u.last + 1, k.order + 1, bytes, st, gs⟩
          let s := s.modCore c (fun k =>
            { (k.setQueue q { u with last := u.last + 1, pend := u.pend ++ [blk] }) with order := k.order + 1 })
          done4 c (rdOf ins) (wN (u.last + 1)) (count c 15 1 s)

/-- TWAIT. -/
def opTwait (c ins : Nat) (s : State) : State :=
  let q := bitsN ins 25 2
  let u := (s.core c).queue q
  let t := rs1Of s c ins
  if t.toNat ≤ u.done then done4 c (rdOf ins) 0 s
  else if u.halt != 0 then done4 c (rdOf ins) (wN u.halt) s
  else
    trace 3 (coreCtx s c) c (if q < 2 then 4 else 3) (q + t.toNat % 2 ^ 32 * 4) 0 (parkCore c (.twait q (rdOf ins) t) s)

/-- The value of a sync identifier operand, if bits [63:20] are clear (Table 7.9, code 2). -/
def sidOf (w : Word) : Option Nat := if w.toNat < 2 ^ 20 then some w.toNat else none

/-- SIG. -/
def opSig (c ins : Nat) (s : State) : State :=
  let ctx := blkCtx s c
  let amt := (rs2Of s c ins).toNat
  match sidOf (rs1Of s c ins) with
  | none => tensorFault c 2 s
  | some sid =>
    match xlateSid ctx sid .coreSignal s with
    | (.no, s) => tensorFault c 3 s
    | (.word a, s) => done4 c 0 0 (signal ctx a amt (trace 5 (coreCtx s c) c sid 0 amt s))
    | (.barrier i, s) => done4 c 0 0 (barArrive i c amt (trace 5 (coreCtx s c) c sid 0 amt s))

/-- SWAIT with funct7[0] = take. The wait parks, and takes part in the arbitration that its arrival starts. -/
def opSwait (c ins : Nat) (s : State) : State :=
  let ctx := blkCtx s c
  match sidOf (rs1Of s c ins) with
  | none => tensorFault c 2 s
  | some sid =>
    match xlateSid ctx sid .wait s with
    | (.word a, s) =>
      parkWait ctx ⟨a, rs2Of s c ins, bitN ins 25, .core c (rdOf ins)⟩ (parkCore c (.swait (rdOf ins)) s)
    | (_, s) => tensorFault c 3 s

/-- SREAD (R230). -/
def opSread (c ins : Nat) (s : State) : State :=
  match sidOf (rs1Of s c ins) with
  | none => tensorFault c 2 s
  | some sid =>
    match xlateSid (blkCtx s c) sid .wait s with
    | (.word a, s) => done4 c (rdOf ins) (rd64 s a) s
    | (_, s) => tensorFault c 3 s

/-- Code 4 of Table 7.9: a core may not use the task queue. -/
def tqNoAccess (s : State) (c q : Nat) : Bool := !(s.flag F.FE_TQ_CTL_EN q) || tqCtx s q != blkCtx s c

/-- Code 5 of Table 7.9: the entry's place in the scratchpad is bad. -/
def tqBadEntry (off : Nat) : Bool := off % 64 != 0 || spSize < off + 64

/-- TQPOP parks as a take-waiter on FILL, TQPUSH on SPACE (R160). A poisoned FILL or SPACE fails the wait as R225 has it for a word
of an identifier (R370; DEDUCED, assumption 182). Where both checks fail, Table 7.9 gives no order: which
code is reported is free. -/
def opTq (c ins : Nat) (pop : Bool) (s : State) : State :=
  let q := bitsN (rs1Of s c ins).toNat 0 10
  let off := (rs2Of s c ins).toNat
  let (four, s) : Bool × State := if tqNoAccess s c q && tqBadEntry off then s.choose else (tqNoAccess s c q, s)
  if tqNoAccess s c q || tqBadEntry off then tensorFault c (if four then 4 else 5) s
  else
    let ctx := blkCtx s c
    let b := tqBase s q
    let s := needs b 64 s
    let w := if pop then b else b + 8
    if poisonAt s w then tensorFault c 3 (contained (some ctx) 8 0 13 w (addrPword s w) s)
    else
    let s := parkCore c (.tq (rdOf ins) q pop) s
    if pop then parkWait ctx ⟨b, 1, true, .tqPop c (rdOf ins) q off⟩ s
    else
      let a := padAddr c off
      let p := poisoned s a 64
      let d := rdBytes s a 64
      let s := if p then consumed (some ctx) (firstPoison s a 64) s else s
      parkWait ctx ⟨b + 8, 1, true, .tqPush c (rdOf ins) q d p⟩ s

/-- CORE_EXIT: a core whose TEXIT waits leaves its launch once all four queues are done (R158). -/
def opCoreExit (c : Nat) (s : State) : State :=
  let k := s.core c
  match k.park with
  | some (.texit rs1 a l) =>
    if coreState s c == csRunning && queuesDone k && !(slotHeld s (c / 16)) && !k.inReset then
      let s := stampWait (coreWait s c) c (s.modCore c (fun k => { k with park := none, launched := false, resv := none }))
      recordExit c (exitStatus rs1 a l) (s.setFld F.CORE_CTX_STAT_STATE c csIdle)
    else s
  | _ => s

/-! ## The commands -/

def execCpInstruction (c : CoreId) (h : HostAns) (s : State) : Answer := run s (opCp c h s)

/-- R136: a0 = -1, no other effect; the program goes on after the ECALL. -/
def execEcall (c : CoreId) (s : State) : Answer :=
  run s (opRow c (· == 0x73) (fun _ s => s.modCore c (fun k => { (k.setX 10 (BitVec.allOnes 64)) with pc := k.pc + 4 })) s)

def execTpushM (c : CoreId) (s : State) : Answer := run s (opRow c (isCustom 0x0B 0) (opPush c 0) s)
def execTpushV (c : CoreId) (s : State) : Answer := run s (opRow c (isCustom 0x0B 1) (opPush c 1) s)
def execTpushL (c : CoreId) (s : State) : Answer := run s (opRow c (isCustom 0x0B 2) (opPush c 2) s)
def execTpushD (c : CoreId) (s : State) : Answer := run s (opRow c (isCustom 0x0B 3) (opPush c 3) s)
def execTwait (c : CoreId) (s : State) : Answer := run s (opRow c (isCustom 0x2B 0) (opTwait c) s)

def execTdone (c : CoreId) (s : State) : Answer :=
  run s (opRow c (isCustom 0x2B 1) (fun i s => done4 c (rdOf i) (wN ((s.core c).queue (bitsN i 25 2)).done) s) s)

def execTflags (c : CoreId) (s : State) : Answer :=
  run s (opRow c (isCustom 0x2B 2) (fun i s =>
    let q := bitsN i 25 2
    let (v, u) := takeFlags ((s.core c).queue q)
    done4 c (rdOf i) (wN v) (s.modQueue c q (fun _ => u))) s)

def execSkip (c : CoreId) (s : State) : Answer :=
  run s (opRow c (fun i => isCustom 0x2B 3 i && rs1Of s c i == 1)
    (fun i s => done4 c 0 0 (s.modQueue c (bitsN i 25 2) skipQ)) s)

def execFlush (c : CoreId) (s : State) : Answer :=
  run s (opRow c (fun i => isCustom 0x2B 3 i && rs1Of s c i == 2)
    (fun i s => done4 c 0 0 (s.modQueue c (bitsN i 25 2) flushHalted)) s)

def execTexit (c : CoreId) (s : State) : Answer :=
  run s (opRow c (isCustom 0x2B 4) (fun i s => beginExit c (rs1Of s c i) false s) s)

def execCoreExit (c : CoreId) (s : State) : Answer := run s (opCoreExit c s)
def execSig (c : CoreId) (s : State) : Answer := run s (opRow c (isCustom 0x5B 0) (opSig c) s)

def execSwaitLook (c : CoreId) (s : State) : Answer :=
  run s (opRow c (fun i => isCustom 0x5B 1 i && !(bitN i 25)) (opSwait c) s)

def execSwaitTake (c : CoreId) (s : State) : Answer :=
  run s (opRow c (fun i => isCustom 0x5B 1 i && bitN i 25) (opSwait c) s)

def execSread (c : CoreId) (s : State) : Answer := run s (opRow c (isCustom 0x5B 2) (opSread c) s)
def execTqpop (c : CoreId) (s : State) : Answer := run s (opRow c (isCustom 0x5B 4) (fun i => opTq c i true) s)
def execTqpush (c : CoreId) (s : State) : Answer := run s (opRow c (isCustom 0x5B 5) (fun i => opTq c i false) s)

end Sys2Proof.Machine
end

