-- ==== Sys2Proof/Machine/MgmtCmds.lean ====
section
/-! DEFINITION. The commands of chapter 20, each with its own meaning. -/

namespace Sys2Proof.Machine

/-- GET_VERSION (R396). -/
def execGetVersion (via : Via) (s : State) : Answer := run s (spdm via (reply 0x100 [0x13]) s)
/-- GET_CAPABILITIES (R396). -/
def execGetCapabilities (via : Via) (s : State) : Answer := run s (spdm via (reply 0x101 []) s)
/-- NEGOTIATE_ALGORITHMS (R396): a request without the algorithms of Table 20.3 is not supported. -/
def execNegotiateAlgorithms (via : Via) (ok : Bool) (s : State) : Answer :=
  run s (spdm via (reply (if ok then 0x102 else spUNSUP) []) s)
/-- GET_DIGESTS (R396): the digest of the chain of slot 0. -/
def execGetDigests (via : Via) (s : State) : Answer :=
  run s (spdm via (fun s => reply 0x103 (Config.sha384 (certChain s)) s) s)
/-- GET_CERTIFICATE (R396). -/
def execGetCertificate (via : Via) (slot : Fin 8) (off len : Fin 65536) (s : State) : Answer :=
  run s (spdm via (opCertificate slot off len) s)
/-- CHALLENGE (R396). -/
def execChallenge (via : Via) (slot : Fin 8) (nonce : List Byte) (s : State) : Answer :=
  run s (spdm via (fun s => if slot = 0 then signed 0x105 nonce s else reply spUNSUP [] s) s)
/-- GET_MEASUREMENTS (R395). -/
def execGetMeasurements (via : Via) (i : Fin 256) (nonce : List Byte) (s : State) : Answer :=
  run s (spdm via (opMeasurements i nonce) s)
/-- KEY_EXCHANGE (R396). -/
def execKeyExchange (via : Via) (slot : Fin 8) (data : List Byte) (s : State) : Answer :=
  run s (spdm via (opKeyExchange via slot data) s)
/-- FINISH (R396). -/
def execFinish (via : Via) (id : Fin 65536) (v : Bool) (s : State) : Answer := run s (spdm via (opFinish id v) s)
/-- HEARTBEAT (R396). -/
def execHeartbeat (via : Via) (id : Fin 65536) (s : State) : Answer := run s (spdm via (inSession id 0x109 (fun s => s)) s)
/-- KEY_UPDATE (R396). -/
def execKeyUpdate (via : Via) (id : Fin 65536) (s : State) : Answer :=
  run s (spdm via (inSession id 0x10A (onSession id (fun x => { x with keys := x.keys + 1 }))) s)
/-- END_SESSION (R396). -/
def execEndSession (via : Via) (id : Fin 65536) (s : State) : Answer :=
  run s (spdm via (inSession id 0x10B (dropSession id)) s)

/-- VDM_RESET (R403). -/
def execVdmReset (via : Via) (s : State) : Answer := run s (vendor (mayChange s via) 1 (mgmtReset 0x201) s)
/-- EXT_CAP (R326, R403). -/
def execExtCap (via : Via) (cap : BitVec 12) (en : Bool) (s : State) : Answer :=
  run s (vendor (mayChange s via) 2 (fun s => reply 0x202 [0] (setExtCap cap.toNat en s)) s)
/-- WFG (R390, R403). -/
def execWfg (via : Via) (chunk : Fin 65536) (s : State) : Answer := run s (vendor (mayAsk s via) 3 (opWfg chunk) s)
/-- VDM_FROST (R372, R403). -/
def execVdmFrost (via : Via) (thaw scope : Bool) (s : State) : Answer :=
  run s (vendor (mayChange s via) 4 (mgmtFrost thaw scope) s)
/-- OTP_NONCE (R404). -/
def execOtpNonce (via : Via) (s : State) : Answer := run s (vendor (mayAsk s via) 5 opNonce s)
/-- OTP_AUTH (R404). -/
def execOtpAuth (via : Via) (t : Fin 16) (g : Fin 4) (body sig : List Byte) (s : State) : Answer :=
  run s (vendor (mayChange s via) 6 (opOtpAuth t g body sig) s)
/-- BOOT_STATUS (R403). -/
def execBootStatus (via : Via) (s : State) : Answer :=
  run s (vendor (mayAsk s via) 7 (fun s => reply 0x207 (0 :: bootStatusBytes s) s) s)

/-- PLDM_SENSOR_READ (R405). -/
def execPldmSensorRead (via : Via) (id : Fin 65536) (s : State) : Answer := run s (opSensor via id s)
/-- EXT_CAP_EFFECTER (R405): the action of vendor command EXT_CAP, under its authorisation. -/
def execExtCapEffecter (via : Via) (cap : BitVec 12) (en : Bool) (s : State) : Answer :=
  run s (if !(mgmtUp s) then s else if mayChange s via then reply 0x380 [0] (setExtCap cap.toNat en s) else refuse 0x380 s)
/-- RESET_EFFECTER (R405): the action of vendor command RESET, under its authorisation. -/
def execResetEffecter (via : Via) (s : State) : Answer :=
  run s (if !(mgmtUp s) then s else if mayChange s via then mgmtReset 0x381 s else refuse 0x381 s)
/-- SENSOR_REFRESH (R405). -/
def execSensorRefresh (s : State) : Answer := run s (opRefresh s)

/-- REQUEST_UPDATE (R406). -/
def execRequestUpdate (agent : Fin 256) (blocks : Fin 385) (slot : Bool) (s : State) : Answer :=
  run s (opRequestUpdate agent blocks slot s)
/-- FIRMWARE_BLOCK_TRANSFER (R406). -/
def execFirmwareBlockTransfer (agent : Fin 256) (data : List Byte) (s : State) : Answer := run s (opFwBlock agent data s)
/-- ACTIVATE_FIRMWARE (R406). -/
def execActivateFirmware (agent : Fin 256) (s : State) : Answer := run s (opActivate agent s)
/-- MCTP_CONTROL_MESSAGE (R403). -/
def execMctpControlMessage (via : Via) (cmd arg : Fin 256) (s : State) : Answer := run s (opMctp via cmd arg s)

/-- SEC_LNK_KEY (R401). -/
def execSecLnkKey (p : PortId) (j : Fin 4) (w : Fin 16) (v : BitVec 32) (s : State) : Answer :=
  runHost s (opLnkKey p j w v.toNat s)
/-- SEC_MEAS_READ (R409). -/
def execSecMeasRead (i : Fin 6) (w : MeasWord) (s : State) : Answer :=
  run s (match w.half with
    | none => opMeasRead i (8 * w.word) 8 s
    | some h => opMeasRead i (8 * w.word + 4 * h) 4 s)

end Sys2Proof.Machine
end

