-- ==== Sys2Proof/Machine/Dispatch.lean ====
section
/-! DEFINITION. One arm per command of the opcode table: a direct call of its meaning. -/

namespace Sys2Proof.Machine

def exec (i : Instr) (s : State) : Host.Outcome State Fault Refusal :=
  match i with
  | .registerWrite fn off len val => Sys2Proof.Machine.execRegisterWrite fn off len val s
  | .shadowWrite fn off len val => Sys2Proof.Machine.execShadowWrite fn off len val s
  | .txnBegin fn => Sys2Proof.Machine.execTxnBegin fn s
  | .txnCommit fn => Sys2Proof.Machine.execTxnCommit fn s
  | .txnApply => Sys2Proof.Machine.execTxnApply s
  | .txnTimeout => Sys2Proof.Machine.execTxnTimeout s
  | .txnAbort fn => Sys2Proof.Machine.execTxnAbort fn s
  | .rateWindowEnd core replica => Sys2Proof.Machine.execRateWindowEnd core replica s
  | .railUndervoltage die => Sys2Proof.Machine.execRailUndervoltage die s
  | .devErrLogCtl val => Sys2Proof.Machine.execDevErrLogCtl val s
  | .cpInstruction core host => Sys2Proof.Machine.execCpInstruction core host s
  | .ecall core => Sys2Proof.Machine.execEcall core s
  | .tpushM core => Sys2Proof.Machine.execTpushM core s
  | .tpushV core => Sys2Proof.Machine.execTpushV core s
  | .tpushL core => Sys2Proof.Machine.execTpushL core s
  | .tpushD core => Sys2Proof.Machine.execTpushD core s
  | .twait core => Sys2Proof.Machine.execTwait core s
  | .tdone core => Sys2Proof.Machine.execTdone core s
  | .tflags core => Sys2Proof.Machine.execTflags core s
  | .skipBlock core => Sys2Proof.Machine.execSkip core s
  | .flushQueue core => Sys2Proof.Machine.execFlush core s
  | .texit core => Sys2Proof.Machine.execTexit core s
  | .coreExit core => Sys2Proof.Machine.execCoreExit core s
  | .sig core => Sys2Proof.Machine.execSig core s
  | .swaitLook core => Sys2Proof.Machine.execSwaitLook core s
  | .swaitTake core => Sys2Proof.Machine.execSwaitTake core s
  | .sread core => Sys2Proof.Machine.execSread core s
  | .tqpop core => Sys2Proof.Machine.execTqpop core s
  | .tqpush core => Sys2Proof.Machine.execTqpush core s
  | .mma core => Sys2Proof.Machine.execMma core s
  | .subsqAdd core => Sys2Proof.Machine.execSubsqAdd core s
  | .absdiffAdd core => Sys2Proof.Machine.execAbsdiffAdd core s
  | .addMax core => Sys2Proof.Machine.execAddMax core s
  | .addMin core => Sys2Proof.Machine.execAddMin core s
  | .andPopc core => Sys2Proof.Machine.execAndPopc core s
  | .xorPopc core => Sys2Proof.Machine.execXorPopc core s
  | .matrixStep core => Sys2Proof.Machine.execMatrixStep core s
  | .tileComplete core => Sys2Proof.Machine.execTileComplete core s
  | .ballastStep core => Sys2Proof.Machine.execBallastStep core s
  | .vld core => Sys2Proof.Machine.execVld core s
  | .vst core => Sys2Proof.Machine.execVst core s
  | .vmov core => Sys2Proof.Machine.execVmov core s
  | .accrd core => Sys2Proof.Machine.execAccrd core s
  | .cvt core => Sys2Proof.Machine.execCvt core s
  | .sel core => Sys2Proof.Machine.execSel core s
  | .fadd core => Sys2Proof.Machine.execFadd core s
  | .fsub core => Sys2Proof.Machine.execFsub core s
  | .fmul core => Sys2Proof.Machine.execFmul core s
  | .fma core => Sys2Proof.Machine.execFma core s
  | .fdiv core => Sys2Proof.Machine.execFdiv core s
  | .fsqrt core => Sys2Proof.Machine.execFsqrt core s
  | .fmax core => Sys2Proof.Machine.execFmax core s
  | .fmin core => Sys2Proof.Machine.execFmin core s
  | .frint core => Sys2Proof.Machine.execFrint core s
  | .fneg core => Sys2Proof.Machine.execFneg core s
  | .fabs core => Sys2Proof.Machine.execFabs core s
  | .fcopysign core => Sys2Proof.Machine.execFcopysign core s
  | .fxorsign core => Sys2Proof.Machine.execFxorsign core s
  | .cmpeq core => Sys2Proof.Machine.execCmpeq core s
  | .cmpne core => Sys2Proof.Machine.execCmpne core s
  | .cmplt core => Sys2Proof.Machine.execCmplt core s
  | .cmple core => Sys2Proof.Machine.execCmple core s
  | .cmpgt core => Sys2Proof.Machine.execCmpgt core s
  | .cmpge core => Sys2Proof.Machine.execCmpge core s
  | .iadd core => Sys2Proof.Machine.execIadd core s
  | .isub core => Sys2Proof.Machine.execIsub core s
  | .imul core => Sys2Proof.Machine.execImul core s
  | .iadds core => Sys2Proof.Machine.execIadds core s
  | .isubs core => Sys2Proof.Machine.execIsubs core s
  | .imax core => Sys2Proof.Machine.execImax core s
  | .imin core => Sys2Proof.Machine.execImin core s
  | .vand core => Sys2Proof.Machine.execVand core s
  | .vor core => Sys2Proof.Machine.execVor core s
  | .vxor core => Sys2Proof.Machine.execVxor core s
  | .vshl core => Sys2Proof.Machine.execVshl core s
  | .vshr core => Sys2Proof.Machine.execVshr core s
  | .vsra core => Sys2Proof.Machine.execVsra core s
  | .faadd core => Sys2Proof.Machine.execFaadd core s
  | .rsum core => Sys2Proof.Machine.execRsum core s
  | .rmax core => Sys2Proof.Machine.execRmax core s
  | .rmin core => Sys2Proof.Machine.execRmin core s
  | .shuf core => Sys2Proof.Machine.execShuf core s
  | .exp2 core => Sys2Proof.Machine.execExp2 core s
  | .log2 core => Sys2Proof.Machine.execLog2 core s
  | .rcp core => Sys2Proof.Machine.execRcp core s
  | .rsqrt core => Sys2Proof.Machine.execRsqrt core s
  | .tanh core => Sys2Proof.Machine.execTanh core s
  | .sin core => Sys2Proof.Machine.execSin core s
  | .cos core => Sys2Proof.Machine.execCos core s
  | .chain core => Sys2Proof.Machine.execChain core s
  | .vectorBlockComplete core => Sys2Proof.Machine.execVectorBlockComplete core s
  | .dmaCopy core vat host => Sys2Proof.Machine.execDmaCopy core vat host s
  | .dmaFill core vat host => Sys2Proof.Machine.execDmaFill core vat host s
  | .dmaAtomic core => Sys2Proof.Machine.execDmaAtomic core s
  | .dmaBlockComplete core vat => Sys2Proof.Machine.execDmaBlockComplete core vat s
  | .launchStart ring => Sys2Proof.Machine.execLaunchStart ring s
  | .save core spad => Sys2Proof.Machine.execSave core spad s
  | .contextSaveComplete core => Sys2Proof.Machine.execContextSaveComplete core s
  | .restore core => Sys2Proof.Machine.execRestore core s
  | .contextRestoreComplete core => Sys2Proof.Machine.execContextRestoreComplete core s
  | .coreOwner core val => Sys2Proof.Machine.execCoreOwner core val s
  | .memCtxInval ctx => Sys2Proof.Machine.execMemCtxInval ctx s
  | .memCtxInvalComplete ctx => Sys2Proof.Machine.execMemCtxInvalComplete ctx s
  | .feTqCtl queue val => Sys2Proof.Machine.execFeTqCtl queue val s
  | .hbmLineRead line found => Sys2Proof.Machine.execHbmLineRead line found s
  | .rowRemapComplete row => Sys2Proof.Machine.execRowRemapComplete row s
  | .hbmWrite addr data poison => Sys2Proof.Machine.execHbmWrite addr data poison s
  | .wcbEntryFlush ch entry => Sys2Proof.Machine.execWcbEntryFlush ch entry s
  | .wcbAgeFlush ch => Sys2Proof.Machine.execWcbAgeFlush ch s
  | .memWcbFlush => Sys2Proof.Machine.execMemWcbFlush s
  | .memWcbFlushComplete => Sys2Proof.Machine.execMemWcbFlushComplete s
  | .scrubRead ch found => Sys2Proof.Machine.execScrubRead ch found s
  | .memTgStart val => Sys2Proof.Machine.execMemTgStart val s
  | .memTgComplete errs => Sys2Proof.Machine.execMemTgComplete errs s
  | .nudge fn word => Sys2Proof.Machine.execNudge fn word s
  | .ringPoll ring => Sys2Proof.Machine.execRingPoll ring s
  | .tailRead ring host => Sys2Proof.Machine.execTailRead ring host s
  | .descriptorFetch ring host => Sys2Proof.Machine.execDescriptorFetch ring host s
  | .nopDesc ring => Sys2Proof.Machine.execNopDesc ring s
  | .copyDesc ring host => Sys2Proof.Machine.execCopyDesc ring host s
  | .fillDesc ring host => Sys2Proof.Machine.execFillDesc ring host s
  | .launchDesc ring => Sys2Proof.Machine.execLaunchDesc ring s
  | .taskqPush ring host => Sys2Proof.Machine.execTaskqPush ring host s
  | .eventRecord ring => Sys2Proof.Machine.execEventRecord ring s
  | .eventWait ring => Sys2Proof.Machine.execEventWait ring s
  | .signalDesc ring => Sys2Proof.Machine.execSignalDesc ring s
  | .waitLook ring => Sys2Proof.Machine.execWaitLook ring s
  | .waitTake ring => Sys2Proof.Machine.execWaitTake ring s
  | .hint ring => Sys2Proof.Machine.execHint ring s
  | .timestamp ring host => Sys2Proof.Machine.execTimestamp ring host s
  | .frost ring => Sys2Proof.Machine.execFrost ring s
  | .feDmaComplete ring seq => Sys2Proof.Machine.execFeDmaComplete ring seq s
  | .completionRecordWrite ring recOk hdrOk => Sys2Proof.Machine.execCompletionRecordWrite ring recOk hdrOk s
  | .feRingCtl ring val hdrOk => Sys2Proof.Machine.execFeRingCtl ring val hdrOk s
  | .arm ring oks => Sys2Proof.Machine.execArm ring oks s
  | .abort ring => Sys2Proof.Machine.execAbort ring s
  | .abortComplete ring oks => Sys2Proof.Machine.execAbortComplete ring oks s
  | .watchdogExpiry ring => Sys2Proof.Machine.execWatchdogExpiry ring s
  | .functionLevelReset fn => Sys2Proof.Machine.execFunctionLevelReset fn s
  | .vfDisable enable num => Sys2Proof.Machine.execVfDisable enable num s
  | .pcieHotReset => Sys2Proof.Machine.execPcieHotReset s
  | .priResponse ctx host => Sys2Proof.Machine.execPriResponse ctx host s
  | .progressMirrorWrite slot ok => Sys2Proof.Machine.execProgressMirrorWrite slot ok s
  | .feFltCtl val => Sys2Proof.Machine.execFeFltCtl val s
  | .bar4Read off len => Sys2Proof.Machine.execBar4Read off len s
  | .bar4Write off data => Sys2Proof.Machine.execBar4Write off data s
  | .syncArbitration pword add => Sys2Proof.Machine.execSyncArbitration pword add s
  | .syncClr val => Sys2Proof.Machine.execSyncClr val s
  | .syncCtxLim ctx val => Sys2Proof.Machine.execSyncCtxLim ctx val s
  | .syncCtxInvalComplete ctx => Sys2Proof.Machine.execSyncCtxInvalComplete ctx s
  | .coreSyncCtl core val => Sys2Proof.Machine.execCoreSyncCtl core val s
  | .syncBarCtl bar val => Sys2Proof.Machine.execSyncBarCtl bar val s
  | .syncRalnCtl v0 val => Sys2Proof.Machine.execSyncRalnCtl v0 val s
  | .barrierArrival bar core amount => Sys2Proof.Machine.execBarrierArrival bar core amount s
  | .slotContribution bar slot => Sys2Proof.Machine.execSlotContribution bar slot s
  | .baseContribution bar base => Sys2Proof.Machine.execBaseContribution bar base s
  | .thawWave wave => Sys2Proof.Machine.execThawWave wave s
  | .blockReceive port a b hdr flits => Sys2Proof.Machine.execBlockReceive port a b hdr flits s
  | .idleFlit port => Sys2Proof.Machine.execIdleFlit port s
  | .data port => Sys2Proof.Machine.execData port s
  | .dataEnd port => Sys2Proof.Machine.execDataEnd port s
  | .replayTimeout port => Sys2Proof.Machine.execReplayTimeout port s
  | .param port => Sys2Proof.Machine.execParam port s
  | .linkdown port => Sys2Proof.Machine.execLinkdown port s
  | .lossOfSignal port lane => Sys2Proof.Machine.execLossOfSignal port lane s
  | .retrain port => Sys2Proof.Machine.execRetrain port s
  | .lnkCtlEn port val => Sys2Proof.Machine.execLnkCtlEn port val s
  | .train port => Sys2Proof.Machine.execTrain port s
  | .lanemap port nums good pol => Sys2Proof.Machine.execLanemap port nums good pol s
  | .trainingTimeout port => Sys2Proof.Machine.execTrainingTimeout port s
  | .autoRetry port => Sys2Proof.Machine.execAutoRetry port s
  | .auth port => Sys2Proof.Machine.execAuth port s
  | .packetRoute port vc => Sys2Proof.Machine.execPacketRoute port vc s
  | .escapeTimeout port vc => Sys2Proof.Machine.execEscapeTimeout port vc s
  | .put host => Sys2Proof.Machine.execPut host s
  | .get host => Sys2Proof.Machine.execGet host s
  | .atomic => Sys2Proof.Machine.execAtomic s
  | .signalRequest => Sys2Proof.Machine.execSignalRequest s
  | .getf host => Sys2Proof.Machine.execGetf host s
  | .ack => Sys2Proof.Machine.execAck s
  | .getData => Sys2Proof.Machine.execGetData s
  | .atomicRsp => Sys2Proof.Machine.execAtomicRsp s
  | .fwdData host => Sys2Proof.Machine.execFwdData host s
  | .mgmtPacket room => Sys2Proof.Machine.execMgmtPacket room s
  | .retransmitTimeout flow seq => Sys2Proof.Machine.execRetransmitTimeout flow seq s
  | .flowRecordExpiry src flow => Sys2Proof.Machine.execFlowRecordExpiry src flow s
  | .fabCtlRead => Sys2Proof.Machine.execFabCtlRead s
  | .fabCtxDom ctx val => Sys2Proof.Machine.execFabCtxDom ctx val s
  | .allreduce ring => Sys2Proof.Machine.execAllreduce ring s
  | .reduceCol ring => Sys2Proof.Machine.execReduceCol ring s
  | .broadcast ring => Sys2Proof.Machine.execBroadcast ring s
  | .allgather ring => Sys2Proof.Machine.execAllgather ring s
  | .reduceScatter ring => Sys2Proof.Machine.execReduceScatter ring s
  | .alltoall ring => Sys2Proof.Machine.execAlltoall ring s
  | .alltoallv ring => Sys2Proof.Machine.execAlltoallv ring s
  | .barrierCol ring => Sys2Proof.Machine.execBarrierCol ring s
  | .ringpass ring => Sys2Proof.Machine.execRingpass ring s
  | .reshard ring => Sys2Proof.Machine.execReshard ring s
  | .collectiveStart group => Sys2Proof.Machine.execCollectiveStart group s
  | .up => Sys2Proof.Machine.execUp s
  | .down => Sys2Proof.Machine.execDown s
  | .wmark => Sys2Proof.Machine.execWmark s
  | .grant => Sys2Proof.Machine.execGrant s
  | .ready => Sys2Proof.Machine.execReady s
  | .done => Sys2Proof.Machine.execDone s
  | .ringBlock => Sys2Proof.Machine.execRingBlock s
  | .colAbort => Sys2Proof.Machine.execColAbort s
  | .segmentTimeout group peer kind num => Sys2Proof.Machine.execSegmentTimeout group peer kind num s
  | .colGrpCtl group val => Sys2Proof.Machine.execColGrpCtl group val s
  | .d2dFrame v0 offer data flips => Sys2Proof.Machine.execD2dFrame v0 offer data flips s
  | .d2dReplayTimeout v0 => Sys2Proof.Machine.execD2dReplayTimeout v0 s
  | .moduleRetrainComplete v0 bad => Sys2Proof.Machine.execModuleRetrainComplete v0 bad s
  | .guestRequest write addr len data => Sys2Proof.Machine.execGuestRequest write addr len data s
  | .guestRateRelease window => Sys2Proof.Machine.execGuestRateRelease window s
  | .calenderFastLoop x => Sys2Proof.Machine.execCalenderFastLoop x s
  | .powerMeasurement watts vin => Sys2Proof.Machine.execPowerMeasurement watts vin s
  | .measurementOnlyExit => Sys2Proof.Machine.execMeasurementOnlyExit s
  | .rampInterval => Sys2Proof.Machine.execRampInterval s
  | .phaseSlotExpiry => Sys2Proof.Machine.execPhaseSlotExpiry s
  | .equalisation rates => Sys2Proof.Machine.execEqualisation rates s
  | .ageingTrim rates => Sys2Proof.Machine.execAgeingTrim rates s
  | .rateOutlier die ageing => Sys2Proof.Machine.execRateOutlier die ageing s
  | .isoRateChange rates => Sys2Proof.Machine.execIsoRateChange rates s
  | .pwrCap val => Sys2Proof.Machine.execPwrCap val s
  | .thermtrip die => Sys2Proof.Machine.execThermtrip die s
  | .coolantOutOfRange => Sys2Proof.Machine.execCoolantOutOfRange s
  | .vsb => Sys2Proof.Machine.execVsb s
  | .supply bad => Sys2Proof.Machine.execSupply bad s
  | .pwrGood low => Sys2Proof.Machine.execPwrGood low s
  | .resetN low => Sys2Proof.Machine.execResetN low s
  | .perstN low => Sys2Proof.Machine.execPerstN low s
  | .mgmtWdog => Sys2Proof.Machine.execMgmtWdog s
  | .devSysRst val => Sys2Proof.Machine.execDevSysRst val s
  | .devCoreRst val => Sys2Proof.Machine.execDevCoreRst val s
  | .coreResetEnd => Sys2Proof.Machine.execCoreResetEnd s
  | .resetStretchEnd => Sys2Proof.Machine.execResetStretchEnd s
  | .resetEnd => Sys2Proof.Machine.execResetEnd s
  | .otpLoad => Sys2Proof.Machine.execOtpLoad s
  | .firmwareVerification => Sys2Proof.Machine.execFirmwareVerification s
  | .d2dTraining pins bad => Sys2Proof.Machine.execD2dTraining pins bad s
  | .hbmTrainPhase ch x => Sys2Proof.Machine.execHbmTrainPhase ch x s
  | .computeSelftest failed => Sys2Proof.Machine.execComputeSelftest failed s
  | .hostReady => Sys2Proof.Machine.execHostReady s
  | .otpProgram val => Sys2Proof.Machine.execOtpProgram val s
  | .otpProgramComplete ok => Sys2Proof.Machine.execOtpProgramComplete ok s
  | .frostN low => Sys2Proof.Machine.execFrostN low s
  | .freeze scope => Sys2Proof.Machine.execFreeze scope s
  | .stopMarker port => Sys2Proof.Machine.execStopMarker port s
  | .localCut => Sys2Proof.Machine.execLocalCut s
  | .roundMarker port => Sys2Proof.Machine.execRoundMarker port s
  | .dump => Sys2Proof.Machine.execDump s
  | .dumpComplete => Sys2Proof.Machine.execDumpComplete s
  | .thaw forward => Sys2Proof.Machine.execThaw forward s
  | .thawMarker port => Sys2Proof.Machine.execThawMarker port s
  | .sample ctx ok => Sys2Proof.Machine.execSample ctx ok s
  | .resetBank ctx ok => Sys2Proof.Machine.execResetBank ctx ok s
  | .sampleReset ctx ok => Sys2Proof.Machine.execSampleReset ctx ok s
  | .traceBudgetWindow => Sys2Proof.Machine.execTraceBudgetWindow s
  | .traceDrainComplete => Sys2Proof.Machine.execTraceDrainComplete s
  | .waitForGraph => Sys2Proof.Machine.execWaitForGraph s
  | .waitForGraphComplete ok => Sys2Proof.Machine.execWaitForGraphComplete ok s
  | .halt core val => Sys2Proof.Machine.execHalt core val s
  | .getVersion via => Sys2Proof.Machine.execGetVersion via s
  | .getCapabilities via => Sys2Proof.Machine.execGetCapabilities via s
  | .negotiateAlgorithms via supported => Sys2Proof.Machine.execNegotiateAlgorithms via supported s
  | .getDigests via => Sys2Proof.Machine.execGetDigests via s
  | .getCertificate via slot off len => Sys2Proof.Machine.execGetCertificate via slot off len s
  | .challenge via slot nonce => Sys2Proof.Machine.execChallenge via slot nonce s
  | .getMeasurements via index nonce => Sys2Proof.Machine.execGetMeasurements via index nonce s
  | .keyExchange via slot data => Sys2Proof.Machine.execKeyExchange via slot data s
  | .finish via session verified => Sys2Proof.Machine.execFinish via session verified s
  | .heartbeat via session => Sys2Proof.Machine.execHeartbeat via session s
  | .keyUpdate via session => Sys2Proof.Machine.execKeyUpdate via session s
  | .endSession via session => Sys2Proof.Machine.execEndSession via session s
  | .vdmReset via => Sys2Proof.Machine.execVdmReset via s
  | .extCap via cap en => Sys2Proof.Machine.execExtCap via cap en s
  | .wfg via chunk => Sys2Proof.Machine.execWfg via chunk s
  | .vdmFrost via thaw scope => Sys2Proof.Machine.execVdmFrost via thaw scope s
  | .otpNonce via => Sys2Proof.Machine.execOtpNonce via s
  | .otpAuth via typ gen body sig => Sys2Proof.Machine.execOtpAuth via typ gen body sig s
  | .bootStatus via => Sys2Proof.Machine.execBootStatus via s
  | .pldmSensorRead via id => Sys2Proof.Machine.execPldmSensorRead via id s
  | .extCapEffecter via cap en => Sys2Proof.Machine.execExtCapEffecter via cap en s
  | .resetEffecter via => Sys2Proof.Machine.execResetEffecter via s
  | .sensorRefresh => Sys2Proof.Machine.execSensorRefresh s
  | .firmwareBlockTransfer agent data => Sys2Proof.Machine.execFirmwareBlockTransfer agent data s
  | .activateFirmware agent => Sys2Proof.Machine.execActivateFirmware agent s
  | .secLnkKey port area word val => Sys2Proof.Machine.execSecLnkKey port area word val s
  | .secMeasRead index word => Sys2Proof.Machine.execSecMeasRead index word s
  | .vsbLoss => Sys2Proof.Machine.execVsbLoss s
  | .vfEnable num => Sys2Proof.Machine.execVfEnable num s
  | .coolantInRange => Sys2Proof.Machine.execCoolantInRange s
  | .mctpControlMessage via cmd arg => Sys2Proof.Machine.execMctpControlMessage via cmd arg s
  | .requestUpdate agent blocks slot => Sys2Proof.Machine.execRequestUpdate agent blocks slot s

end Sys2Proof.Machine
end

