-- ==== Sys2Proof/Machine/Upset.lean ====
section
/-! DEFINITION. Upsets: the errors of stores and control state that no command brings (Table 18.2, classes 1, 2, 4, 5, 6
and 9). One may strike at each tick of the clock; whether, where and what is free (DESIGN CHOICE, assumption 98). -/

namespace Sys2Proof.Machine

/-- An uncorrectable word of a scratchpad: it holds the poison marker (class 1; R370 for a sync region). -/
def upsetWord (c off : Nat) (s : State) : State := setPoison (padAddr c (off % spSize / 8 * 8)) true s

/-- A write-combining entry of a slice's channels whose quarter in MEMBUF is lost: what it holds is poisoned. -/
def upsetEntry (b m : Nat) (s : State) : State :=
  let l := (s.mem.wcb.filter (fun e => e.1 / 160 == b)).flatMap (fun e => e.2.map (fun w => (e.1, w)))
  match l[m % max l.length 1]? with
  | none => s
  | some (ch, w) =>
    let s := s.modMem (fun x => { x with wcb := smSet [] ch ((wcbOf s ch).map (fun v => if v == w then { v with poi := true } else v)) x.wcb })
    setPoison (64 * w.line) true s

/-- An uncorrectable quarter of a Vat slice, by the partition it lies in (Table 18.2, class 2). -/
def upsetQuarter (a m : Nat) (s : State) : State :=
  match region s a with
  | .vat b .sync => deferred none 1 b 2 a 0 ((List.range 8).foldl (fun s i => setPoison (a + 8 * i) true s) s)
  | .vat b .scratch => deferred none 1 b 2 a 0 (setPoison a true s)
  | .vat b .membuf => deferred none 1 b 2 a 0 (upsetEntry b m s)
  | .vat b .col =>
    let gs := (s.col.filter (fun kv => grpState s kv.1 == csReady && s.fld F.COL_GRP_CTL_SLICE kv.1 == b)).map (·.1)
    let s := deferred none 1 b 2 a 0 s
    match gs[m % max gs.length 1]? with
    | some g => groupError g rPOISON statGROUPERR s
    | none => s
  | .vat b .link => linkDown (4 * b + m % 4) none (corrected none 1 b 2 a s)
  | _ => s

/-- A parity error of an instruction-cache line: it is dropped, and fetched again when it is needed (class 4). -/
def upsetLine (c m : Nat) (s : State) : State :=
  let l := (s.core c).icache
  if l.isEmpty then s
  else corrected none 0 c 4 0 (s.modCore c (fun k => { k with icache := l.eraseIdx (m % l.length) }))

/-- Table 18.3: the unit kind of a fatal code of class 6. -/
def parityKind : Nat → Nat
  | 3 => 6 | 4 => 7 | 5 => 8 | 6 => 5 | _ => 9

/-- One upset: its kind, and the place that a free number names. -/
def upset (kind m : Nat) (s : State) : State :=
  let c := m % 192
  match kind with
  | 0 => corrected none 0 c 1 (padAddr c (m / 192 % spSize / 8 * 8)) s
  | 1 => upsetWord c (m / 192) s
  | 2 => let a := vatBase + m % (4 * sliceSize) / 64 * 64; corrected none 1 (a / sliceSize % 4) 2 a s
  | 3 => upsetQuarter (vatBase + m % (4 * sliceSize) / 64 * 64) (m / (4 * sliceSize)) s
  | 4 => upsetLine c (m / 192) s
  | 5 => contained (coreCtx s c) 0 c 5 0 0 s
  | 6 => { s with resid := 1 + m % 2 }
  | k => fatal (parityKind (k - 4)) 0 (k - 4) 0 s

/-- A tick: a nanosecond passes, and an upset may strike. -/
def tick1 (s : State) : State :=
  let s := passTime 1 s
  if !(running s) then s
  else
    let (hit, s) := s.choose
    if !hit then s
    else
      let (i, s) := s.fresh
      let (j, s) := s.fresh
      { settle (upset (Config.freeNat i % 12) (Config.freeNat j) s) with pending := s.pending }

end Sys2Proof.Machine
end

