-- ==== Sys2Proof/Machine/Step.lean ====
section
/-! DEFINITION. One step: the command at the front of the queue is carried out; with none waiting a nanosecond passes, in
which an upset may strike the hardware. -/

namespace Sys2Proof.Machine

/-- A step. The block takes the oldest waiting command. On an empty queue its clock ticks: one nanosecond passes, with what
Table 19.2 counts in it, and an upset of Table 18.2 may strike (DESIGN CHOICE, assumption 3). -/
def step (s : State) : Host.Outcome State Fault Refusal :=
  match s.pending with
  | [] => .next (tick1 s)
  | c :: rest => exec c { s with pending := rest }

/-- The command that a table word spells, at the front of the queue. -/
def State.withFetchWord (s : State) (nbits w : Nat) : State :=
  match Sys2Proof.decodeTableWord nbits w with
  | some c => { s with pending := c :: s.pending }
  | none => s

end Sys2Proof.Machine
end

