-- ==== Sys2Proof/Safety.lean ====
section
/-! DEFINITION. What every step keeps: nothing that a command raised is left over, and no step stops. -/

namespace Sys2Proof.Machine

/-- Contained errors have ended their contexts (R368), fatal errors have met their policy (R369), the log has taken every error
(R371), and no command is left half done at memory that is held. -/
def Settled (s : State) : Prop := s.kills = [] ∧ s.fatals = [] ∧ s.errs = [] ∧ s.stall = false

/-- The device runs, and no command is half done. -/
def On (s : State) : Prop := running s = true ∧ s.stall = false

/-- The command i ends on s as its effect u says: exec answers endOf s u, which is s itself where u met memory that is held. -/
def Effect (i : Instr) (s u : State) : Prop := exec i s = .next (endOf s u)

/-- The command i completes on s with the effect u: it met nothing that is held, and exec answers what u settles into. -/
def Does (i : Instr) (s u : State) : Prop := u.stall = false ∧ exec i s = .next { settle u with pending := s.pending }

/-- Nothing is left to do once a command is over: no error waits, the steps of boot that need no command are done, no trace record waits for its writer, and no engine of
the fabric, the collectives or the barriers has a step to take. -/
def Calm (s : State) : Prop :=
  running s = true ∧ Settled s ∧ s.dbg.formed = [] ∧ settleFlow s = s

end Sys2Proof.Machine
end

