-- ==== Sys2Proof/Certificates/Slice0/Obligations.lean ====
section
/-! DEFINITION. The statements about the machine. -/

open Sys2Proof Sys2Proof.Machine

/-- A step carries out the command at the front of the queue. For every command c and state s, the step of s with c in
front of its waiting commands is exec of c on s with the rest of the queue; with no command waiting, the clock ticks
(the model's choice, assumption 3). (R411, 01_device_architecture.md) -/
def Obligations.StepTakesFront : Prop :=
  (∀ (c : Instr) (rest : List Instr) (s : State),
    step { s with pending := c :: rest } = exec c { s with pending := rest }) ∧
  (∀ s : State, s.pending = [] → step s = .next (tick1 s))

/-- No command stops the device, and none touches the commands that wait behind it. For every command and every state exec
answers a next state - neither a fault nor a refusal, since every error has its consequence in the state - and the
next state has the queue of the state before. (R366, R411, 18_ras_and_frost.md, 01_device_architecture.md) -/
def Obligations.ExecAlwaysGoesOn : Prop :=
  ∀ (i : Instr) (s : State), ∃ t, exec i s = .next t ∧ t.pending = s.pending

/-- Every step keeps the canonical form of memory, and leaves no error without its consequence. Whichever command is
carried out, whatever it raises, and at a tick: if memory lists its bytes by rising address and none that equals what
an unlisted byte reads as, it does so after the step, so equal memories stay equal data. And if no error waited for
the log, for the end of its context or for the policy before the step, and no command was half done, the same holds
after it. (R177, R181, R366, R368, R369, R371, 08_vat_and_stacked_memory.md) -/
def Obligations.StepKeepsMemory : Prop :=
  ∀ s t : State, Memory.wf s.mem = true → step s = .next t → Memory.wf t.mem = true ∧ (Settled s → Settled t)

/-- What an error leaves: its count, its record in the host's log, the end of its context, or the policy for fatal errors.
A report adds one to the counter of its severity, up to 65,535, and changes no other register and no memory. The log
of an error that is not held back by the 1 ms rule is one 64-byte record of Table 18.4 at its place in the ring, then
MSI-X vector 1 of the PF, and TAIL goes on by one. A write that fails sets FAIL, a full log counts LOST, and a log out
of service writes nothing. Errors of one instant go in ascending unit. A contained error sets KILLED of its context,
aborts its rings, and ends its launches on their cores as by TEXIT with 0x80000200. A fatal error is reported through
management, its code is in DEV_RST_CAUSE, and it raises a system reset or brings the device into Frost as ACT says.
(R366, R368, R369, R371, 18_ras_and_frost.md) -/
def Obligations.ErrorsTakeEffect : Prop :=
  (∀ (s : State) (e : Err), e.sev < 4 →
    let u := reportErr e s
    u.fld (errCounter e.sev) = min (s.fld (errCounter e.sev) + 1) 65535 ∧ (∀ k < 4, k ≠ e.sev → u.fld (errCounter k) = s.fld (errCounter k)) ∧
    (∀ r i, regKey r i ≠ regKey .DEV_ERR_CNT 0 → u.reg r i = s.reg r i) ∧ u.mem = s.mem ∧ u.cores = s.cores ∧
    u.errs = s.errs ++ [(s.timebase, e.charged)] ∧
    u.kills = s.kills ++ (if e.sev = 2 then (e.ctx.filter (· < 64)).toList else []) ∧
    u.fatals = s.fatals ++ (if e.sev = 3 then [e.code] else [])) ∧
  (∀ (s : State) (t : Nat) (e : Err), s.errs = [(t, e)] → s.flag F.DEV_ERR_LOG_CTL_EN = true → s.flag F.DEV_ERR_LOG_STAT_FAIL = false →
    s.errStop = false → (e.sev ≠ 0 ∨ smGet 0 s.errAt (e.kind * 4096 + e.index) ≤ t + s.tbase) →
    let n := 2 ^ s.fld F.DEV_ERR_LOG_CTL_LOG2N
    let f := s.fld F.DEV_ERR_LOG_STAT_TAIL
    let room := (f + 2 ^ 32 - s.fld F.DEV_ERR_LOG_HEAD_HEAD) % 2 ^ 32 < n
    let u := flushErrs s
    u.errs = [] ∧ u.mem = s.mem ∧
    (room → Config.freeBool s.free = false → u.fld F.DEV_ERR_LOG_STAT_TAIL = (f + 1) % 2 ^ 32 ∧
      u.out = .msix 0 1 :: .hostWrite 0 (s.fld F.DEV_ERR_LOG_BASE_ADDR * 4096 + 64 * (f % n)) (errBytes e (phaseOf f n) t) false :: s.out) ∧
    (room → Config.freeBool s.free = true → u.flag F.DEV_ERR_LOG_STAT_FAIL = true ∧ u.errStop = true ∧ u.out = s.out) ∧
    (¬room → u.fld F.DEV_ERR_LOG_STAT_LOST = min (s.fld F.DEV_ERR_LOG_STAT_LOST + 1) 65535 ∧ u.out = s.out)) ∧
  (∀ s : State, s.flag F.DEV_ERR_LOG_CTL_EN = false ∨ s.flag F.DEV_ERR_LOG_STAT_FAIL = true ∨ s.errStop = true →
    flushErrs s = { s with errs := [] }) ∧
  (∀ (s : State) (t : Nat) (a b : Err), a.kind * 4096 + a.index < b.kind * 4096 + b.index →
    flushErrs { s with errs := [(t, b), (t, a)] } = flushErrs { s with errs := [(t, a), (t, b)] }) ∧
  (∀ (e : Err) (phase t : Nat), e.sev < 4 → phase < 2 → e.kind < 16 → e.index < 4096 →
    let l := errBytes e phase t
    l.length = 64 ∧ fieldLe l 0 1 = e.sev + 128 * phase ∧ (∀ c, e.ctx = some c → c < 64 → fieldLe l 1 1 = c + 128) ∧
    (e.ctx = none → fieldLe l 1 1 = 0) ∧ fieldLe l 2 2 = e.kind + 16 * e.index ∧ fieldLe l 4 2 = e.code % 65536 ∧
    fieldLe l 8 8 = e.addr % 2 ^ 64 ∧ fieldLe l 16 8 = t % 2 ^ 64 ∧ fieldLe l 24 8 = e.info % 2 ^ 64 ∧ fieldLe l 32 32 = 0) ∧
  (∀ (s : State) (c : Nat), s.kills = [c] → c < 64 →
    let u := settleKills 64 s
    bitN (u.reg .DEV_ERR_CTX 0).toNat c = true ∧ u.kills = [] ∧
    (∀ r, (s.ring r).st ≠ rsOff → ringCtx s r = c → (u.ring r).st = rsAborting) ∧
    ∀ l ∈ s.fe.launches, l.ctx = c → l.started = true → ∀ j ∈ coresOf l.mask, (s.core j).launch = some (l.ring, l.seq) →
      (s.core j).launched = true → (∀ x a b, (s.core j).park ≠ some (.texit x a b)) →
      ∃ a b, (u.core j).park = some (.texit (wN 0x80000200) a b)) ∧
  (∀ (s : State) (code : Nat), s.rst.level = 0 → s.rst.off = false → s.rst.vsb = true → code < 65536 →
    let u := settleFatals [code] s
    (mgFatal, code) ∈ u.sec.events ∧ u.fld F.DEV_RST_CAUSE_FATAL_CODE = code ∧
    (s.flag F.DEV_ERR_POLICY_ACT = false → u.rst.level = 2 ∧ bitN (u.fld F.DEV_RST_CAUSE_SRC) 7 = true ∧ u.fld F.DEV_RST_CAUSE_LEVEL = 2 ∧
      u.fld F.DEV_RST_CNT_SYS = min (s.fld F.DEV_RST_CNT_SYS + 1) (2 ^ 32 - 1)) ∧
    (s.flag F.DEV_ERR_POLICY_ACT = true → frostState s = fsRUN → u.rst.level = 0 ∧ frostState u = fsSTOPPING ∧
      u.fld F.DEV_FROST_STAT_SRC = fsrcPOLICY ∧ u.frost.scope = s.fld F.DEV_ERR_POLICY_HOLD_FABRIC) ∧
    (s.flag F.DEV_ERR_POLICY_ACT = true → frostState s ≠ fsRUN →
      frostState u = frostState s ∧ u.fld F.DEV_FROST_STAT_ENTRIES = min (s.fld F.DEV_FROST_STAT_ENTRIES + 1) (2 ^ 32 - 1)))

/-- The state after reset keeps what every step keeps. The state after reset has its memory in canonical form with no byte
listed, no error waiting, and no command waiting or half done. (R366, R348) -/
def Obligations.ResetSettled : Prop :=
  Memory.wf State.reset.mem = true ∧ Settled State.reset ∧ State.reset.pending = [] ∧ State.reset.mem.cells = []

/-- The end of a command adds nothing to a calm state. Where no error waits, no trace record waits and no engine has a
step to take, a command whose effect on s is u answers u itself. So every statement below that gives an effect u gives
the whole next state, and its frame, for each u that is calm. (R366, 01_device_architecture.md) -/
def Obligations.CalmStatesRest : Prop :=
  ∀ (i : Instr) (s u : State), Does i s u → u.pending = s.pending → Calm u → exec i s = .next u

/-- A code that is not a NaN decodes to a value that converts back to the code, in every mode, with no flag. This holds of
every code of the eight floating formats, of every integer code of 4, 8, 16, 32 and 40 bits, and of every FA40 image
but the zeros with a nonzero FRAC, which become the zero of their sign. So no bit of a value is lost. (R32, R35, R41,
R44, R56, 03_number_formats.md) -/
def Obligations.CodesConvertBack : Prop :=
  (∀ f ∈ [fFP32, fBF16, fFP16, fE5M2, fE4M3, fE3M2, fE2M3, fE2M1], ∀ code < 2 ^ (1 + f.eb + f.mb),
    (decodeFp f code).isNaN = false → ∀ (c : Ctl) (U : Nat), toFp f c U (decodeFp f code) = ⟨code, 0⟩) ∧
  (∀ n ∈ [4, 8, 16, 32, 40], ∀ code < 2 ^ n, ∀ (c : Ctl) (U : Nat),
    toInt n true c U (numOfInt (toSigned n code)) = ⟨code, 0⟩ ∧ toInt n false c U (numOfInt (code : Int)) = ⟨code, 0⟩) ∧
  (∀ code < 2 ^ 40, (decodeFa40 code).isNaN = false →
    fa40OfNum (decodeFa40 code) =
      (if code / 2 ^ 29 % 1024 = 0 then code / 2 ^ 39 * 2 ^ 39 else code, false))

/-- Every rounding mode picks t or u as its rule says, and a split is exact. For a magnitude m 2^e on a coarser grid 2^q,
the pick is t, the quotient, or t + 1. It is t with nothing raised where m is on the grid. RTZ picks t, RUP and RDN
the side named, RNE the nearest with ties to even, RTO an odd magnitude, and SR picks u exactly when R + U is 2^32 or
more. The pieces of an FP32 value have at most 8 significant bits and sum to it. (R44, R46, R37, R36) -/
def Obligations.RoundingPicks : Prop :=
  (∀ (r : Rnd) (U : Nat) (neg : Bool) (m : Nat) (e q : Int), e < q →
    let d := 2 ^ (q - e).toNat
    let t := m / d
    let k := (roundGrid r U neg m e q).1
    ((roundGrid r U neg m e q).2 = true ↔ m % d ≠ 0) ∧ (k = t ∨ k = t + 1) ∧ (m % d = 0 → k = t) ∧
    (r = .rtz → k = t) ∧ (r = .rup → m % d ≠ 0 → (k = t ↔ neg = true)) ∧
    (r = .rdn → m % d ≠ 0 → (k = t ↔ neg = false)) ∧ (r = .rto → m % d ≠ 0 → k % 2 = 1) ∧
    (r = .rne → 2 * (max (k * d) m - min (k * d) m) ≤ d ∧ (2 * (m % d) = d → k % 2 = 0)) ∧
    (r = .sr → m % d ≠ 0 → (k = t + 1 ↔ 2 ^ 32 ≤ m % d * 2 ^ 32 / d + U))) ∧
  (∀ code < 2 ^ 32, ∀ n m e, decodeFp fFP32 code = .fin n m e →
    ∃ h mid low, splitPieces (.fin n m e) = [some (.fin n h e), mid, low] ∧
      (∃ a b, (mid = none ∧ a = 0 ∨ mid = some (.fin n a e) ∧ a ≠ 0) ∧ (low = none ∧ b = 0 ∨ low = some (.fin n b e) ∧ b ≠ 0) ∧
        h + a + b = m ∧ ∀ x ∈ [h, a, b], x ≠ 0 → 2 ^ (Nat.log2 x - 7) ∣ x))

/-- Comparisons with NaN and zero operands, and what they raise. With a NaN operand NE is true and the others false. LT,
LE, GT and GE then raise NV, EQ and NE only for a signalling NaN. Nothing else is raised. The two zeros are equal, for
each of the six. (R58) -/
def Obligations.Comparisons : Prop :=
  (∀ (op : Nat) (a b : Machine.Num), op ∈ [0x20, 0x21, 0x22, 0x23, 0x24, 0x25] →
    ((a.isNaN = true ∨ b.isNaN = true) →
      ((cmpRes op a b).1 = true ↔ op = 0x21) ∧
      (op ∈ [0x22, 0x23, 0x24, 0x25] → (cmpRes op a b).2 = flNV) ∧
      (op ∈ [0x20, 0x21] → (cmpRes op a b).2 = (if a.isSig || b.isSig then flNV else 0))) ∧
    (a.isNaN = false → b.isNaN = false → (cmpRes op a b).2 = 0)) ∧
  (∀ (m n : Bool),
    (cmpRes 0x20 (.zero m) (.zero n)).1 = true ∧ (cmpRes 0x21 (.zero m) (.zero n)).1 = false ∧
    (cmpRes 0x22 (.zero m) (.zero n)).1 = false ∧ (cmpRes 0x23 (.zero m) (.zero n)).1 = true ∧
    (cmpRes 0x24 (.zero m) (.zero n)).1 = false ∧ (cmpRes 0x25 (.zero m) (.zero n)).1 = true)

/-- The row of a matrix opcode. -/
def matRow (op : Nat) (c : CoreId) : Instr :=
  match op with
  | 1 => .mma c
  | 2 => .subsqAdd c
  | 3 => .absdiffAdd c
  | 4 => .addMax c
  | 5 => .addMin c
  | 6 => .andPopc c
  | _ => .xorPopc c

/-- 2 to an integer power. -/
def two (e : Int) : Rat := if 0 ≤ e then 2 ^ e.toNat else 1 / 2 ^ (-e).toNat

/-- The rational value of a number that is finite. -/
def numVal : Machine.Num → Rat
  | .fin n m e => (if n then -1 else 1) * (m : Rat) * two e
  | _ => 0

/-- A rational without its fraction, and without its sign. -/
def truncRat (x : Rat) : Int := if 0 ≤ x then x.floor else -(-x).floor
def absRat (x : Rat) : Rat := if x < 0 then -x else x

/-- Each of the seven matrix operations starts from the head of its queue, or halts it. A block that R67 rejects, a
reserved OP among them, or that accumulates in the other mode than the tile's, halts the queue with code 1. An
accepted one begins, with ceil(K / P) steps per pass where it runs, unless it is a START that waits for a read of the
accumulator. Under START the mode bit is its mode and each enabled PE holds the identity. Every other PE keeps its
contents, no register, no other core and no byte of memory changes. (R67, R71, R72, R73, R75, R76, R90, R150, R151) -/
def Obligations.MatrixOperationsStart : Prop :=
  ∀ (s : State) (c : CoreId) (q : QBlk), On s → headReady s c.val 0 = some q →
    let b := MBlk.of q.bytes
    let k := s.core c.val
    ((b.op = 0 ∨ 7 < b.op) → Does (.mma c) s (haltQueue c.val 0 1 s)) ∧
    (1 ≤ b.op → b.op ≤ 7 →
    (b.ok = false ∨ b.acc = 0 ∧ b.intMode ≠ k.accInt → Does (matRow b.op c) s (haltQueue c.val 0 1 s)) ∧
    (b.ok = true → b.acc = 1 → accReadsDone readsAcc k q.order = false → Does (matRow b.op c) s s) ∧
    (b.ok = true → (b.acc = 0 → b.intMode = k.accInt) → (b.acc = 1 → accReadsDone readsAcc k q.order = true) →
      ∃ u, Does (matRow b.op c) s u ∧ u.mem = s.mem ∧ u.regs = s.regs ∧ (∀ j, j ≠ c.val → u.core j = s.core j) ∧
        (∃ o, (u.core c.val).mop = some o ∧ o.ticket = q.ticket ∧ o.bytes = q.bytes ∧ o.step = 0 ∧ o.flags = 0 ∧
          o.steps = (if b.runs then ceilDiv b.k b.p * b.passes else 0)) ∧
        (b.acc = 1 → (u.core c.val).accInt = b.intMode ∧
          ∀ r x, x < 128 → accGet (u.core c.val) (128 * r + x) =
            if r ∈ b.rows ∧ x ∈ b.cols then identity b else accGet k (128 * r + x)) ∧
        (b.acc = 0 → (u.core c.val).accInt = k.accInt ∧ (u.core c.val).acc = k.acc)))

/-- Steps, promotions, tile completion and ballast. A step of clean operands that the array may take moves on by one,
changes no memory, no other core, and no disabled PE. Outside iso-rate mode it changes no register but its core's
CORE_RATE_CNT. The partial of a floating group is its sum on the grid of 22 bits below its largest term, rounded to
odd onto that of 20 bits, with infinities and NaN as R83 has them. FA40 addition rounds the exact sum to 30 bits to
nearest even, clamps above the largest value and gives a zero below the smallest. An integer promotion is the sum
clamped to 40 bits, its SAT bit set when it clamps and kept otherwise. A tropical one leaves the largest, or smallest,
of the accumulator and the terms, and drops NaN terms unless STRICT. A tile that has made all its steps gives its
flags and leaves the queue, the accumulator as it is. A ballast step, where the Calender puts ballast on an array that
may issue nothing, counts as an array step of an enabled monitor whose window goes on and changes no PE, mode bit or
flag. Anywhere else it does nothing. (R23, R64, R75, R80, R82, R83, R86, R87, R89, R90, R152,
05_accumulation_and_reproducibility.md) -/
def Obligations.MatrixSteps : Prop :=
  (∀ (s : State) (c : CoreId) (o : MatOp), On s → (s.core c.val).mop = some o →
    let b := MBlk.of o.bytes
    (o.step < o.steps → arrayMayStep s c.val o = true → stepPoison s c.val b o.step = false →
      ∃ u, Does (.matrixStep c) s u ∧ u.mem = s.mem ∧ (∀ j, j ≠ c.val → u.core j = s.core j) ∧
        (isoOn s = false → ∀ r i, regKey r i ≠ regKey .CORE_RATE_CNT c.val → u.reg r i = s.reg r i) ∧
        (u.core c.val).acc = (stepPEs s c.val b o (s.core c.val)).acc ∧
        (∃ p, (u.core c.val).mop = some p ∧ p.step = o.step + 1 ∧ p.steps = o.steps ∧ p.bytes = o.bytes) ∧
        (∀ r x, x < 128 → ¬(r ∈ b.rows ∧ x ∈ b.cols) →
          accGet (u.core c.val) (128 * r + x) = accGet (s.core c.val) (128 * r + x)) ∧
        (u.core c.val).accInt = (s.core c.val).accInt) ∧
    (o.steps ≤ o.step → (s.core c.val).inReset = false →
      ∃ u, Does (.tileComplete c) s u ∧ (u.core c.val).mop = none ∧ (u.core c.val).acc = (s.core c.val).acc ∧
        u.mem = s.mem ∧ (u.core c.val).mq = ((s.core c.val).mq.complete o.ticket).orFlags o.flags)) ∧
  (∀ (s : State) (c : CoreId), On s →
    let puts := s.flag F.PWR_BALLAST_EN = true ∧ s.fld F.PWR_THR_STAT_BALLAST ≠ 0 ∧ ballastArray s c.val = true
    (¬puts → Does (.ballastStep c) s s) ∧
    (puts → ∃ u, Does (.ballastStep c) s u ∧ (u.core c.val).acc = (s.core c.val).acc ∧ u.mem = s.mem ∧
      (u.core c.val).accInt = (s.core c.val).accInt ∧ (u.core c.val).accTsat = (s.core c.val).accTsat ∧
      (u.core c.val).mq = (s.core c.val).mq ∧ (u.core c.val).mop = (s.core c.val).mop ∧
      (∀ j, j ≠ c.val → u.core j = s.core j) ∧
      (isoOn s = false → ∀ r i, regKey r i ≠ regKey .CORE_RATE_CNT c.val → u.reg r i = s.reg r i) ∧
      (isoOn s = false → s.flag F.CORE_RATE_CTL_EN c.val = true → s.fld F.CORE_RATE_CTL_WIN c.val = (s.core c.val).win →
        s.timebase / winLen (s.core c.val).win = (s.core c.val).winAt / winLen (s.core c.val).win →
        (u.core c.val).arraySteps = (s.core c.val).arraySteps + 1))) ∧
  (∀ (b : MBlk) (strict : Bool) (old : Nat) (ts : List Machine.Num), b.tropical = false → b.intMode = true →
    let v := toSigned 40 (old % 2 ^ 40) + (ts.map numToInt).sum
    let r := promote b strict old ts
    toSigned 40 r.1 = (if 2 ^ 39 - 1 < v then 2 ^ 39 - 1 else if v < -2 ^ 39 then -2 ^ 39 else v) ∧
    (bitN r.1 40 = true ↔ bitN old 40 = true ∨ 2 ^ 39 - 1 < v ∨ v < -2 ^ 39) ∧
    (r.2 = if 2 ^ 39 - 1 < v ∨ v < -2 ^ 39 then flSA else 0)) ∧
  (∀ ts : List Machine.Num, (∀ n m e, Machine.Num.fin n m e ∈ ts → m ≠ 0) →
    ((∀ t ∈ ts, t.isFinNum = true) → ∀ eg : Int, (∃ n m e, Machine.Num.fin n m e ∈ ts ∧ expOf m e = eg) →
      (∀ n m e, Machine.Num.fin n m e ∈ ts → expOf m e ≤ eg) →
      let q := (ts.map (fun t => truncRat (numVal t * two (22 - eg)))).sum
      let sticky := q.natAbs % 4 ≠ 0 ∨ ∃ t ∈ ts, (truncRat (numVal t * two (22 - eg)) : Rat) ≠ numVal t * two (22 - eg)
      ∃ w : Nat, (sticky → w = q.natAbs / 4 / 2 * 2 + 1) ∧ (¬sticky → w = q.natAbs / 4) ∧
        numVal (partialAdd ts).1 = (if q < 0 then -1 else 1) * (w : Rat) * two (eg - 20) ∧ (partialAdd ts).2 = 0 ∧
        (w = 0 → (partialAdd ts).1 = .zero false)) ∧
    ((∀ t ∈ ts, t.isZero = true) → partialAdd ts = (.zero (ts.all Machine.Num.isNeg), 0)) ∧
    ((∃ t ∈ ts, t.isNaN = true) → partialAdd ts = (.nan false, 0)) ∧
    ((∀ t ∈ ts, t.isNaN = false) → .inf false ∈ ts → .inf true ∈ ts → partialAdd ts = (.nan false, flNV)) ∧
    ((∀ t ∈ ts, t.isNaN = false) → ∀ n : Bool, .inf n ∈ ts → .inf (!n) ∉ ts → partialAdd ts = (.inf n, 0))) ∧
  (∀ a b : Machine.Num, a.isFinNum = true → b.isFinNum = true → (∀ n m e, a = .fin n m e ∨ b = .fin n m e → m ≠ 0) →
    let v := numVal a + numVal b
    let y := decodeFa40 (fa40Add a b).1
    let x := absRat v
    (fa40Add a b).2.2 = 0 ∧ (v = 0 → y.isZero = true ∧ (a.isZero = true → b.isZero = true → (y.isNeg = true ↔ a.isNeg = true ∧ b.isNeg = true)) ∧
      (a.isZero = false → y.isNeg = false)) ∧
    ((fa40Add a b).2.1 = true ↔ (2 ^ 30 - 1 / 2 : Rat) * two 482 ≤ x) ∧
    ((fa40Add a b).2.1 = true → numVal y = (if v < 0 then -1 else 1) * (2 ^ 30 - 1 : Rat) * two 482) ∧
    (v ≠ 0 → x < (2 ^ 30 - 1 / 2 : Rat) * two (-540) → y.isZero = true ∧ (y.isNeg = true ↔ v < 0)) ∧
    ((2 ^ 30 - 1 / 2 : Rat) * two (-540) ≤ x → (fa40Add a b).2.1 = false → ∀ e : Int, two e ≤ x → x < two (e + 1) →
      ∃ k : Nat, numVal y = (if v < 0 then -1 else 1) * (k : Rat) * two (e - 29) ∧ absRat ((k : Rat) * two (e - 29) - x) ≤ two (e - 30) ∧
        (absRat ((k : Rat) * two (e - 29) - x) = two (e - 30) → k % 2 = 0))) ∧
  (∀ a b : Machine.Num, (a.isNaN = true ∨ b.isNaN = true → (fa40Add a b).1 = fa40NaN) ∧
    (∀ n, fa40Add (.inf n) (.inf (!n)) = (fa40NaN, false, flNV) ∧ fa40Add (.inf n) (.inf n) = (fa40Inf n, false, 0) ∧
      (b.isFinNum = true → fa40Add (.inf n) b = (fa40Inf n, false, 0) ∧ fa40Add b (.inf n) = (fa40Inf n, false, 0)))) ∧
  (∀ (b : MBlk) (strict : Bool) (old : Nat) (ts : List Machine.Num), b.tropical = false → b.intMode = false →
    let p := partialAdd ts
    let a := fa40Add (decodeFa40 (old % 2 ^ 40)) p.1
    let r := promote b strict old ts
    r.1 % 2 ^ 40 = a.1 % 2 ^ 40 ∧ (bitN r.1 40 = true ↔ bitN old 40 = true ∨ a.2.1 = true) ∧ r.2 = p.2 ||| a.2.2 ||| (if a.2.1 then flSA else 0)) ∧
  (∀ (b : MBlk) (strict : Bool) (old : Nat) (ts : List Machine.Num), b.tropical = true → ts ≠ [] →
    let acc := accNum b.intMode (old % 2 ^ 40)
    let y := accNum b.intMode ((promote b strict old ts).1 % 2 ^ 40)
    acc.isNaN = false → (∀ t ∈ ts, t.isNaN = false ∧ ∃ c < 2 ^ 40, t = accNum b.intMode c) →
      y ∈ acc :: ts ∧ (∀ t ∈ acc :: ts, (if b.op = opADDMIN then numLt t y else numLt y t) = false) ∧
      bitN (promote b strict old ts).1 40 = bitN old 40 ∧ (promote b strict old ts).2 = 0) ∧
  (∀ (isMin : Bool) (ts : List Machine.Num), ts ≠ [] →
    ((partialTrop isMin true ts).isNaN = true ↔ ∃ t ∈ ts, t.isNaN = true) ∧
    ((partialTrop isMin false ts).isNaN = true ↔ ∀ t ∈ ts, t.isNaN = true))

/-- The rows of the register-mode opcodes. -/
def vecRows : List (Nat × (CoreId → Instr)) := [
  (0x01, .vld), (0x02, .vst), (0x03, .vmov), (0x04, .accrd), (0x05, .cvt), (0x06, .sel), (0x10, .fadd), (0x11, .fsub),
  (0x12, .fmul), (0x13, .fma), (0x14, .fdiv), (0x15, .fsqrt), (0x16, .fmax), (0x17, .fmin), (0x18, .frint), (0x1C, .fneg),
  (0x1D, .fabs), (0x1E, .fcopysign), (0x1F, .fxorsign), (0x20, .cmpeq), (0x21, .cmpne), (0x22, .cmplt), (0x23, .cmple),
  (0x24, .cmpgt), (0x25, .cmpge)] ++ [(0x30, .iadd), (0x31, .isub), (0x32, .imul), (0x33, .iadds), (0x34, .isubs), (0x35, .imax),
  (0x36, .imin), (0x37, .vand), (0x38, .vor), (0x39, .vxor), (0x3A, .vshl), (0x3B, .vshr), (0x3C, .vsra), (0x40, .faadd),
  (0x48, .rsum), (0x49, .rmax), (0x4A, .rmin), (0x50, .shuf), (0x60, .exp2), (0x61, .log2), (0x62, .rcp), (0x63, .rsqrt),
  (0x64, .tanh), (0x65, .sin), (0x66, .cos)]

/-- Whether VST or a chain stores: the block b of core c at the head of the vector queue, with what it writes. -/
def vstBytes (s : State) (c : Nat) (b : VBlk) : SMap Nat × Nat :=
  storeElems s c b.mem b.saddr b.et b.ctl b.maskz (rndWord s c b.tid b.ixb b.ixp b.mem) b.vl
    (fun j => vGet (s.core c) b.vs1 b.et j) (fun j => b.enabled (s.core c) j)

/-- Input i of element j of a chain: an accumulator read, or a load. -/
def chainIn (s : State) (c : Nat) (b : CBlk) (j i : Nat) : Res :=
  match b.ins[i]? with
  | some p => if p.acc then accElem (s.core c) (p.addr % 128) b.et (Ctl.ofByte b.ctlb) j
    else loadElem s c p b.saddr b.et (Ctl.ofByte b.ctlb) 0 j
  | none => ⟨0, 0⟩

/-- Whether element j of a chain is enabled: its predicate bit, counted in the capacity of the block's type. -/
def chainEn (s : State) (c : Nat) (b : CBlk) (j : Nat) : Bool := pBit (s.core c) b.pred (j % etCap b.et)

/-- The stages of a chain on element j: a code for each stage, and the flags. -/
def chainRun (s : State) (c : Nat) (b : CBlk) (gs : List Stage) (j : Nat) : List Nat × Nat :=
  runStages b.et gs (strictEff s) (chainIn s c b j) gs [] 0

/-- The code that a stage delivers for operand values given by source number. -/
def stageCode (et : Nat) (gs : List Stage) (strict : Bool) (g : Stage) (val : Nat → Nat) : Nat :=
  let a (i : Nat) : Nat := val ((g.src[i]?).getD 0)
  if g.opc = 0x06 then (if a 0 = 1 then a 1 else a 2)
  else if isCmp g.opc then (if (cmpRes g.opc (etNum g.et (a 0)) (etNum g.et (a 1))).1 then 1 else 0)
  else if g.opc = 0x05 then (cvtRes (srcType et gs ((g.src[0]?).getD 0)) g.et (Ctl.ofByte g.ctlb) 0 (a 0)).code
  else (lane g.opc g.et (Ctl.ofByte g.ctlb) strict (a 0) (a 1) (a 2)).code

/-- What a chain writes. -/
def chainBytes (s : State) (c : Nat) (b : CBlk) (gs : List Stage) : SMap Nat × Nat :=
  storeElems s c b.out b.saddr ((gs.getLast?.map (·.et)).getD b.et) (Ctl.ofByte b.ctlb) b.maskz
    (rndWord s c b.tid b.ixb b.ixp b.out) b.vl
    (fun j => if chainEn s c b j then (chainRun s c b gs j).1.getLastD 0 else 0) (chainEn s c b)

/-- Flags that a chain raises before it stores. -/
def chainFlags (s : State) (c : Nat) (b : CBlk) (gs : List Stage) : Nat :=
  orFlags ((List.range b.vl).map (fun j => if chainEn s c b j then
    (chainRun s c b gs j).2 ||| orFlags ((usedIns gs).map (fun i => (chainIn s c b j i).flags)) else 0))

/-- Bit address, in the scratchpad, of element j of a pattern. -/
def patBitAt (p : Pat) (j : Nat) : Nat := 8 * p.segAt (p.sq j).1 + (p.sq j).2 * fmtBits p.fd.fmt

/-- Bit x of core c's scratchpad once the bytes of a map have been stored. -/
def bitAfter (s : State) (c : Nat) (m : SMap Nat) (x : Nat) : Bool :=
  bitN (smGet (rd8 s (padAddr c (x / 8))).toNat m (x / 8)) (x % 8)

/-- Every register-mode instruction, a chain and a completion run from the head of the vector queue. For each of the 50
register-mode rows, a head block waits while the core is paced, and a read of the accumulator until the tiles before
it are complete. Then one that R111 rejects halts the queue with code 1. An accepted one, clean in what it loads,
issues its steps, writes its results and stays started with its flags. VST and a chain store, at the bits of its
pattern, the code of each enabled element, converted for the output's format and scaled by its block's scale where it
has one, zero for a disabled element under MASKZ, and change no other bit. A chain that R127 accepts, clean in what it
loads, delivers the result of its last stage, each stage working on inputs and earlier results of the element. It
writes no vector register, no predicate and no accumulator, and no memory for VL = 0. Completion ORs the flags into
the queue and CORE_VEC_FLAGS. (R72, R111, R114, R116, R117, R118, R125, R127, R128, R130, R151, R329) -/
def Obligations.VectorBlocksRun : Prop :=
  (∀ (s : State) (c : CoreId) (q : QBlk) (e : Nat × (CoreId → Instr)), On s → headReady s c.val 1 = some q →
    e ∈ vecRows →
    let b := VBlk.of q.bytes
    let k := s.core c.val
    let waits := s.pwr.paced.contains c.val = true ∨ e.1 = 4 ∧ tilesDone k q.order = false
    b.opc = e.1 →
    (waits → Does (e.2 c) s s) ∧
    (¬waits → b.ok k = false → Does (e.2 c) s (haltQueue c.val 1 1 s)) ∧
    (¬waits → b.ok k = true → e.1 ≠ 2 →
      (e.1 = 1 → ∀ j < b.vl, b.enabled k j = true → patPoison s c.val b.mem b.saddr j = false) →
      let t := vecIssue c.val b.steps s
      let r := runVec t c.val b k (strictEff t)
      Does (e.2 c) s (vecDone c.val q r.2 (t.setCore c.val r.1))) ∧
    (¬waits → b.ok k = true → e.1 = 2 →
      let t := vecIssue c.val b.steps s
      let r := vstBytes t c.val b
      Does (e.2 c) s (vecDone c.val q r.2 (storeRuns (blkCtx t c.val) c.val r.1 0 [] t)))) ∧
  (∀ (s : State) (c : CoreId) (q : QBlk), On s → headReady s c.val 1 = some q → fieldLe q.bytes 0 1 = 0x80 →
    let b := CBlk.of q.bytes
    let gs := stagesOf b.nstg q.stages
    let k := s.core c.val
    let waits := s.pwr.paced.contains c.val = true ∨ readsAcc q.bytes q.stages = true ∧ tilesDone k q.order = false
    (waits → Does (.chain c) s s) ∧
    (¬waits → b.ok k gs = false → Does (.chain c) s (haltQueue c.val 1 1 s)) ∧
    (¬waits → b.ok k gs = true →
      (∀ j < b.vl, ∀ i ∈ usedIns gs, ∀ p, b.ins[i]? = some p → p.acc = false → patPoison s c.val p b.saddr j = false) →
      let t := vecIssue c.val (b.steps gs) s
      let r := chainBytes t c.val b gs
      let u := vecDone c.val q (r.2 ||| chainFlags t c.val b gs) (storeRuns (blkCtx t c.val) c.val r.1 0 [] t)
      Does (.chain c) s u ∧ (u.core c.val).vreg = k.vreg ∧ (u.core c.val).preg = k.preg ∧
        (u.core c.val).acc = k.acc ∧ (b.vl = 0 → u.mem = s.mem))) ∧
  (∀ (et : Nat) (gs : List Stage) (strict : Bool) (inp : Nat → Res), (∀ (i : Nat) (g : Stage), gs[i]? = some g → ∀ x ∈ g.used, x < 3 ∨ 8 ≤ x ∧ x < 8 + i) →
    let l := (runStages et gs strict inp gs [] 0).1
    l.length = gs.length ∧ ∀ (i : Nat) (g : Stage), gs[i]? = some g → elementOp g.opc = true →
      l[i]? = some (stageCode et gs strict g (fun x => if x < 3 then (inp x).code else (l[x - 8]?).getD 0))) ∧
  (∀ (s : State) (ctx c : Nat) (m : SMap Nat), c < 192 → smSorted m = true → (∀ e ∈ m, e.1 < spSize ∧ e.2 < 256) →
    syncRegionOn s c = false →
    let u := storeRuns ctx c m 0 [] s
    (∀ k < spSize, (rd8 u (padAddr c k)).toNat = smGet (rd8 s (padAddr c k)).toNat m k) ∧
    (∀ a, (∀ k < spSize, a ≠ padAddr c k) → rd8 u a = rd8 s a)) ∧
  (∀ (s : State) (c : Nat) (p : Pat) (saddr t : Nat) (ctl : Ctl) (maskz : Bool) (rnd : Nat → Nat) (vl : Nat) (val : Nat → Nat)
      (en : Nat → Bool), p.fd.share = 0 →
    let m := (storeElems s c p saddr t ctl maskz rnd vl val en).1
    let bits := fmtBits p.fd.fmt
    let code := fun j => if rawCopy t p.fd then (if 6 ≤ t then val j % 2 ^ 41 else val j)
      else (toCode p.fd.fmt false ctl (rnd j) (etNum t (val j))).code
    let apart := fun x j => x < patBitAt p j ∨ patBitAt p j + bits ≤ x
    smSorted m = true ∧ (∀ e ∈ m, e.2 < 256) ∧
    (∀ x, (∀ j < vl, en j = true ∨ maskz = true → apart x j) → bitAfter s c m x = bitN (rd8 s (padAddr c (x / 8))).toNat (x % 8)) ∧
    (∀ x, (∀ j < vl, en j = true ∨ maskz = true → ∀ y < 8, apart (x / 8 * 8 + y) j) → ∀ e ∈ m, e.1 ≠ x / 8) ∧
    (∀ j < vl, en j = true ∨ maskz = true → ∀ i < bits, (∀ h < vl, j < h → en h = true ∨ maskz = true → apart (patBitAt p j + i) h) →
      bitAfter s c m (patBitAt p j + i) = (en j && bitN (code j) i))) ∧
  (∀ (s : State) (c : Nat) (p : Pat) (saddr t : Nat) (ctl : Ctl) (maskz : Bool) (rnd : Nat → Nat) (vl : Nat) (val : Nat → Nat)
      (en : Nat → Bool), p.fd.share ≠ 0 →
    let m := (storeElems s c p saddr t ctl maskz rnd vl val en).1
    let bits := fmtBits p.fd.fmt
    let apart := fun x j => x < patBitAt p j ∨ patBitAt p j + bits ≤ x
    (∀ h < vl, ∀ j < vl, ∀ y < 8, apart (8 * (saddr + p.scaleIx h) + y) j) → ∀ j < vl,
      let xs := ((List.range vl).filter (fun h => p.scaleIx h == p.scaleIx j && en h)).map (fun h => etNum t (val h))
      let sc := blockScale p.fd.fmt ctl.fit xs
      smGet 256 m (saddr + p.scaleIx j) = (if xs.isEmpty then (if maskz then 0 else 256) else sc) ∧
      (en j = true → rawCopy t p.fd = false → ∀ i < bits, (∀ h < vl, j < h → en h = true ∨ maskz = true → apart (patBitAt p j + i) h) →
        bitAfter s c m (patBitAt p j + i) =
          (sc != 0xFF && bitN (toCode p.fd.fmt false ctl (rnd j) (scaleNum (127 - (sc : Int)) (etNum t (val j)))).code i))) ∧
  (∀ (s : State) (c : CoreId) (r : RunBlk) (l : List RunBlk), On s → (s.core c.val).vq.run = r :: l →
    r.executed = true →
    ∃ u, Does (.vectorBlockComplete c) s u ∧ u.mem = s.mem ∧
      (u.core c.val).vq = ((s.core c.val).vq.complete r.ticket).orFlags r.flags ∧
      u.reg .CORE_VEC_FLAGS c.val = wN ((s.reg .CORE_VEC_FLAGS c.val).toNat ||| r.flags % 64))

/-- What a register-mode instruction writes, element by element, and that it writes nothing else. No byte of a register
but VD changes, no predicate but the PD of a compare, and no element from VL on. A disabled element keeps its
destination or, under MASKZ, is zero. An enabled element is the result of its sources as they were before, in the
width of the type, and element 0 of a reduction is that of all. The accumulator and the queues stay as they are.
(R110, R112, R113, R118, R119, R120, R122, R123) -/
def Obligations.VectorResults : Prop :=
  ∀ (s : State) (c : Nat) (b : VBlk) (k : CoreSt) (strict : Bool), b.ok k = true → b.opc ≠ 2 → b.vd < 32 → b.et < 8 →
    let k' := (runVec s c b k strict).1
    let n := etBytes b.et
    let red := 0x48 ≤ b.opc ∧ b.opc ≤ 0x4A
    k'.acc = k.acc ∧ k'.x = k.x ∧ (∀ q, k'.queue q = k.queue q) ∧
    (isCmp b.opc = false → k'.preg = k.preg) ∧ (isCmp b.opc = true → k'.vreg = k.vreg) ∧
    (∀ a, a < 2048 * b.vd ∨ 2048 * b.vd + 2048 ≤ a → vByte k' a = vByte k a) ∧
    (∀ p j, p < 8 → j < 1024 → p ≠ b.pd → pBit k' p j = pBit k p j) ∧ (∀ j, b.vl ≤ j → j < 1024 → pBit k' b.pd j = pBit k b.pd j) ∧
    (isCmp b.opc = false → ¬red → ∀ j, b.vl ≤ j → j < etCap b.et → vGet k' b.vd b.et j = vGet k b.vd b.et j) ∧
    (isCmp b.opc = false → ¬red → ∀ j < b.vl, b.enabled k j = false →
      vGet k' b.vd b.et j = if b.maskz then 0 else vGet k b.vd b.et j) ∧
    ((0x10 ≤ b.opc ∧ b.opc ≤ 0x1F ∨ 0x30 ≤ b.opc ∧ b.opc ≤ 0x40 ∨ 0x60 ≤ b.opc) → ∀ j < b.vl, b.enabled k j = true →
      vGet k' b.vd b.et j = (lane b.opc b.et b.ctl strict (vGet k b.vs1 b.et j) (vGet k b.vs2 b.et j)
        (vGet k b.vs3 b.et j)).code % 2 ^ (8 * n)) ∧
    (b.opc = 0x01 → ∀ j < b.vl, b.enabled k j = true →
      vGet k' b.vd b.et j = (loadElem s c b.mem b.saddr b.et b.ctl 0 j).code % 2 ^ (8 * n)) ∧
    (b.opc = 0x04 → ∀ j < b.vl, b.enabled k j = true →
      vGet k' b.vd b.et j = (accElem k b.arow b.et b.ctl j).code % 2 ^ (8 * n)) ∧
    (b.opc = 0x05 → ∀ j < b.vl, b.enabled k j = true →
      vGet k' b.vd b.et j = (cvtRes b.st b.et b.ctl (rndWord s c b.tid b.ixb b.ixp b.mem j) (vGet k b.vs1 b.st j)).code % 2 ^ (8 * n)) ∧
    (red → vGet k' b.vd b.et 0 = (reduce k b strict).code % 2 ^ (8 * n)) ∧
    (b.opc = 0x03 → ∀ j < b.vl, b.enabled k j = true → vGet k' b.vd b.et j = vGet k b.vs1 b.et j) ∧
    (b.opc = 0x06 → ∀ j < b.vl, b.enabled k j = true →
      vGet k' b.vd b.et j = if pBit k b.pd j then vGet k b.vs1 b.et j else vGet k b.vs2 b.et j) ∧
    (b.opc = 0x50 → ∀ j < b.vl, b.enabled k j = true →
      let i := vGet k b.vs2 b.et j % 65536
      vGet k' b.vd b.et j = if i < etCap b.et then vGet k b.vs1 b.et i else 0) ∧
    (red → ∀ j, 0 < j → j < etCap b.et → vGet k' b.vd b.et j = vGet k b.vd b.et j) ∧
    (isCmp b.opc = true → ∀ j < b.vl, b.enabled k j = true →
      pBit k' b.pd j = (cmpRes b.opc (etNum b.et (vGet k b.vs1 b.et j)) (etNum b.et (vGet k b.vs2 b.et j))).1) ∧
    (isCmp b.opc = true → ∀ j < b.vl, b.enabled k j = false →
      pBit k' b.pd j = if b.maskz then false else pBit k b.pd j)

/-- The 64 bytes of the virtual line ln of core c are l. Either its instruction cache holds them and t is s, or it does not, all
of them lie in the device's own memory, which may be executed, is not held and holds no poison there, and t is s with the line
in the cache (R137, R141, R142). -/
def HasLine (s : State) (c ln : Nat) (l : List Byte) (t : State) : Prop :=
  (∃ n, (s.core c).icache.find? (fun e => e.1 == ln) = some (n, l)) ∧ t = s ∨
  (s.core c).icache.find? (fun e => e.1 == ln) = none ∧
    ∃ w, locateCp c (blkCtx s c) (ln * 64) 64 .x s = .at w ∧ (∀ b ∈ w, ∃ a, b = .phys a ∧ poisonAt s a = false) ∧
      l = readAt s w [] ∧ t = (noteAt (blkCtx s c) (ln * 64) w s).modCore c (fun k => { k with icache := ((ln, l) :: k.icache).take icLines })

/-- Core c may run its program, no interrupt is due, and the 4 bytes at its pc are the instruction ins; t is s with its lines
in the instruction cache. -/
def AtPc (s : State) (c ins : Nat) (t : State) : Prop :=
  let pc := (s.core c).pc.toNat
  cpRuns s c = true ∧ irqDue s c = false ∧ ins % 4 = 3 ∧
  ((pc < 2 ^ 48 ∧ pc % 64 ≤ 60 ∧ ∃ l, HasLine s c (pc / 64) l t ∧ fieldLe l (pc % 64) 4 = ins) ∨
   (pc + 2 < 2 ^ 48 ∧ pc % 64 = 62 ∧ ∃ l m r, HasLine s c (pc / 64) l m ∧ HasLine m c (pc / 64 + 1) r t ∧
     fieldLe l 62 2 % 4 = 3 ∧ ins = fieldLe l 62 2 + 65536 * fieldLe r 0 2))

/-- The same with a compressed instruction, of 2 bytes, at the pc. -/
def AtPc2 (s : State) (c ins : Nat) (t : State) : Prop :=
  let pc := (s.core c).pc.toNat
  cpRuns s c = true ∧ irqDue s c = false ∧ ins % 4 ≠ 3 ∧ pc < 2 ^ 48 ∧ pc % 64 ≤ 62 ∧
  ∃ l, HasLine s c (pc / 64) l t ∧ fieldLe l (pc % 64) 2 = ins

/-- Nothing of the state but core c differs. -/
def OnlyCore (c : Nat) (s t : State) : Prop := { t with cores := s.cores } = s ∧ ∀ j, j ≠ c → t.core j = s.core j

/-- Nothing differs but the note of which parts of memory have been accessed, from which the counters of Table 19.3 take what the
spec leaves open (R380). -/
def Noted (s t : State) : Prop := ∃ n, t = { s with dbg := { s.dbg with touched := n } }

/-- The TPUSH row of queue q. -/
def pushRow (q : Nat) (c : CoreId) : Instr :=
  match q with
  | 0 => .tpushM c
  | 1 => .tpushV c
  | 2 => .tpushL c
  | _ => .tpushD c

/-- Identifier v of context ctx names, for the operation op, the word at a: the context's table is enabled and has the
entry, which lies in HBM that is not held, is not poisoned, is a valid entry of a word for op, and the word is backed, clean and not
held (R224, R225). -/
def NamesWord (s : State) (ctx v : Nat) (op : SidOp) (a : Nat) : Prop :=
  let e := s.fld F.SYNC_CTX_TBL_ADDR ctx * 4096 + 4 * v
  let x := rdNat s e 4
  s.flag F.SYNC_CTX_TBL_EN ctx = true ∧ v < s.fld F.SYNC_CTX_LIM_LIMIT ctx ∧ rangeHbm s e 4 = true ∧ heldRange s e 4 = false ∧
  poisonAt s e = false ∧ bitsN x 24 8 = 0 ∧ (op = .wait → bitN x 23 = true) ∧ (op = .remote → bitN x 22 = true) ∧
  bitsN x 20 2 = 1 ∧ pwordAddr s (bitsN x 0 20) = some a ∧ poisonAt s a = false ∧ heldRange s a 8 = false

/-- Identifier v of context ctx names the enabled barrier i of that context. -/
def NamesBarrier (s : State) (ctx v i : Nat) : Prop :=
  let e := s.fld F.SYNC_CTX_TBL_ADDR ctx * 4096 + 4 * v
  let x := rdNat s e 4
  s.flag F.SYNC_CTX_TBL_EN ctx = true ∧ v < s.fld F.SYNC_CTX_LIM_LIMIT ctx ∧ rangeHbm s e 4 = true ∧ heldRange s e 4 = false ∧
  poisonAt s e = false ∧ bitsN x 24 8 = 0 ∧ bitsN x 20 2 = 2 ∧ bitsN x 8 12 = 0 ∧ bitsN x 0 8 = i ∧
  s.flag F.SYNC_BAR_CTL_EN i = true ∧ s.fld F.SYNC_BAR_CTL_CTX i = ctx

/-- The context has no identifier v. -/
def NoSid (s : State) (ctx v : Nat) : Prop := s.flag F.SYNC_CTX_TBL_EN ctx = false ∨ s.fld F.SYNC_CTX_LIM_LIMIT ctx ≤ v

/-- The descriptor seq of ring r is complete with a status and a value. -/
def IsDone (s : State) (r seq status : Nat) (v : Word) : Prop :=
  ∃ e, (s.ring r).find seq = some e ∧ e.phase = .done ∧ e.status = status ∧ e.value = v

/-- What the standard instructions of the control processor do: integer, jump, branch, load, store, atomic, CSR, system
and compressed ones. The meaning of a standard instruction is that of the RISC-V architecture, which R136 names and
the spec does not restate (assumptions 29 to 33, PRESUMED). An instruction at pc, in the cache or in executable
memory, writes rd for OP, OP-32, OP-IMM, OP-IMM-32, LUI and AUIPC, takes or passes a branch, links for JAL and JALR.
Each of these moves pc, adds 1 to instret and changes nothing outside its core, and x0 reads zero whatever is written.
A load of bytes of the device that are not poisoned reads them, little-endian, and a store of such bytes stores them.
An AMO gives the old value and stores the new one, LR reserves, SC stores only under the reservation, and a misaligned
one traps. A CSR instruction gives the old value and writes, sets or clears; those of Table 7.1 read and write what
the table names. SRET returns to sepc. A fence, WFI and SFENCE.VMA move on, and FENCE.I empties the core's instruction
cache. ECALL sets a0 to -1 and pc on by 4, and changes nothing else. A compressed instruction acts as the 32-bit one
it stands for. Any other instruction without a row of its own is executed by cpExec. (R136, R137, R141, R142, R144,
R145, R10, 07_core_programming.md) -/
def Obligations.StandardInstructions : Prop :=
  (∀ (s t : State) (c : CoreId) (h : HostAns) (ins : Nat), On s → AtPc s c.val ins t →
    let k := t.core c.val
    let op := bitsN ins 0 7
    let f3 := bitsN ins 12 3
    let f7 := bitsN ins 25 7
    let rd := bitsN ins 7 5
    let a := k.getX (bitsN ins 15 5)
    let b := k.getX (bitsN ins 20 5)
    let immI := wN (sextN 12 64 (bitsN ins 20 12))
    let ctx := blkCtx t c.val
    let goesAt : State → Word → (Nat → Word) → Prop := fun m pc x => ∃ u, Does (.cpInstruction c h) s u ∧ OnlyCore c.val m u ∧
      (u.core c.val).pc = pc ∧ (u.core c.val).instret = k.instret + 1 ∧ ∀ r, (u.core c.val).getX r = x r
    let goes := goesAt t
    let sets : Word → Nat → Word := fun v r => if r = 0 then 0 else if r = rd then v else k.getX r
    let writes : Word → Prop := fun v => goes (k.pc + 4) (sets v)
    let jumps : Word → Prop := fun pc => goes pc (fun r => if r = 0 then 0 else if r = rd then k.pc + 4 else k.getX r)
    (hasRow k ins = false → customOk ins = false → Effect (.cpInstruction c h) s (cpExec c.val ins 4 h h.data t)) ∧
    (op = 0x33 → (f7 = 0 ∨ f7 = 1 ∨ f7 = 0x20 ∧ (f3 = 0 ∨ f3 = 5)) → writes (alu f3 (f7 = 0x20) (f7 = 1) a b)) ∧
    (op = 0x3B → (f7 = 0 ∨ f7 = 1 ∨ f7 = 0x20 ∧ (f3 = 0 ∨ f3 = 5)) → ∀ v, aluW f3 (f7 = 0x20) (f7 = 1) a b = some v → writes v) ∧
    (op = 0x13 → (f3 = 1 → f7 / 2 = 0) → (f3 = 5 → f7 / 2 = 0 ∨ f7 / 2 = 0x10) →
      writes (alu f3 (f3 = 5 && f7 / 2 = 0x10) false a immI)) ∧
    (op = 0x1B → (f3 = 0 ∨ f3 = 1 ∧ f7 = 0 ∨ f3 = 5 ∧ (f7 = 0 ∨ f7 = 0x20)) →
      ∀ v, aluW f3 (f3 = 5 && f7 = 0x20) false a immI = some v → writes v) ∧
    (op = 0x37 → writes (wN (sextN 32 64 (bitsN ins 12 20 * 4096)))) ∧
    (op = 0x17 → writes (k.pc + wN (sextN 32 64 (bitsN ins 12 20 * 4096)))) ∧
    (op = 0x6F → jumps (k.pc + wN (sextN 21 64 (bitsN ins 21 10 * 2 + bitsN ins 20 1 * 2048 + bitsN ins 12 8 * 4096 +
      bitsN ins 31 1 * 2 ^ 20)))) ∧
    (op = 0x67 → f3 = 0 → jumps (wN ((a + immI).toNat / 2 * 2))) ∧
    (op = 0x63 → ∀ taken, branchTaken f3 a b = some taken →
      goes (if taken then k.pc + wN (sextN 13 64 (bitsN ins 8 4 * 2 + bitsN ins 25 6 * 32 + bitsN ins 7 1 * 2048 +
        bitsN ins 31 1 * 4096)) else k.pc + 4) (fun r => k.getX r)) ∧
    (op = 0x0F → f3 = 0 → goes (k.pc + 4) (fun r => k.getX r)) ∧
    (op = 0x0F → f3 = 1 → ∃ u, Does (.cpInstruction c h) s u ∧ OnlyCore c.val t u ∧ (u.core c.val).icache = [] ∧
      (u.core c.val).pc = k.pc + 4) ∧
    (op = 0x03 → f3 ≠ 7 → ∀ w, locateCp c.val ctx (a + immI).toNat (2 ^ (f3 % 4)) .r t = .at w →
      anyHost w = false → (∀ x ∈ w.filterMap physOf, poisonAt t x = false) →
      let v := leNat (readAt t w [])
      goesAt (noteAt ctx (a + immI).toNat w t) (k.pc + 4) (sets (if f3 < 4 then wN (sextN (8 * 2 ^ (f3 % 4)) 64 v) else wN v))) ∧
    (op = 0x23 → f3 < 4 →
      let va := (a + wN (sextN 12 64 (rd + 32 * f7))).toNat
      ∀ w, locateCp c.val ctx va (2 ^ f3) .w t = .at w → anyHost w = false →
        Does (.cpInstruction c h) s (retire c.val (k.pc + 4) id (storeAt ctx w (natLe (2 ^ f3) b.toNat) (noteAt ctx va w t)))) ∧
    (op = 0x2F → f3 = 2 ∨ f3 = 3 → let n := 2 ^ f3; let va := a.toNat; let f5 := f7 / 4; let src := b.toNat % 2 ^ (8 * n)
      let here : List ByteAt → Prop := fun w => anyHost w = false ∧ ∀ x ∈ w.filterMap physOf, poisonAt t x = false
      (va % n ≠ 0 → f5 = 3 ∨ (amoOp f5 (8 * n) 0 0).isSome = true → Does (.cpInstruction c h) s (except c.val 6 (wN va) t)) ∧
      (va % n ≠ 0 → f5 = 2 → bitsN ins 20 5 = 0 → Does (.cpInstruction c h) s (except c.val 4 (wN va) t)) ∧
      (va % n = 0 → f5 = 2 → bitsN ins 20 5 = 0 → ∀ w, locateCp c.val ctx va n .r t = .at w → here w →
        ∃ u, Does (.cpInstruction c h) s u ∧ OnlyCore c.val (noteAt ctx va w t) u ∧ (u.core c.val).pc = k.pc + 4 ∧
          (u.core c.val).resv = some (((w.filterMap physOf).head?).getD 0) ∧
          ∀ r, (u.core c.val).getX r = sets (wN (sextN (8 * n) 64 (leNat (readAt t w [])))) r) ∧
      (va % n = 0 → f5 = 3 → ∀ w, locateCp c.val ctx va n .w t = .at w → anyHost w = false →
        let m := (noteAt ctx va w t).modCore c.val (fun k => { k with resv := none })
        let held := k.resv = some (((w.filterMap physOf).head?).getD 0)
        (held → Does (.cpInstruction c h) s (retire c.val (k.pc + 4) (fun k => k.setX rd 0) (storeAt ctx w (natLe n src) m))) ∧
        (¬held → Does (.cpInstruction c h) s (retire c.val (k.pc + 4) (fun k => k.setX rd 1) m))) ∧
      (va % n = 0 → ∀ w, locateCp c.val ctx va n .rw t = .at w → here w →
        let old := leNat (readAt t w [])
        ∀ v, amoOp f5 (8 * n) old src = some v → Does (.cpInstruction c h) s
          (retire c.val (k.pc + 4) (fun k => k.setX rd (wN (sextN (8 * n) 64 old))) (storeAt ctx w (natLe n v) (noteAt ctx va w t))))) ∧
    (op = 0x73 → f3 ≠ 0 → f3 ≠ 4 → let csr := bitsN ins 20 12
      csr ≠ 0xC00 → ∀ old, csrRead t c.val csr 0 = some old →
        let v : Word := if 4 ≤ f3 then wN (bitsN ins 15 5) else a
        let new := if f3 % 4 = 1 then v else if f3 % 4 = 2 then old ||| v else old &&& ~~~v
        let writes := f3 % 4 = 1 ∨ bitsN ins 15 5 ≠ 0
        (writes → 0xC00 ≤ csr → ∃ x, Does (.cpInstruction c h) s (except c.val 2 x { t with free := t.free + 1 })) ∧
        (writes → csr < 0xC00 → Does (.cpInstruction c h) s (retire c.val (k.pc + 4) (fun k => k.setX rd old) (csrWrite c.val csr new t))) ∧
        (¬writes → Does (.cpInstruction c h) s (retire c.val (k.pc + 4) (fun k => k.setX rd old) t))) ∧
    (ins = 0x10200073 → goes k.sepc (fun r => k.getX r) ∧ ∃ u, Does (.cpInstruction c h) s u ∧
      bitN (u.core c.val).sstatus.toNat 1 = bitN k.sstatus.toNat 5 ∧ bitN (u.core c.val).sstatus.toNat 5 = true) ∧
    (ins = 0x10500073 ∨ op = 0x73 ∧ f3 = 0 ∧ f7 = 9 ∧ rd = 0 → goes (k.pc + 4) (fun r => k.getX r)) ∧
    (ins = 0x00100073 → ∃ v, Does (.cpInstruction c h) s (except c.val 3 v { t with free := t.free + 1 })) ∧
    (ins = 0x73 →
      ∃ u, Does (.ecall c) s u ∧ OnlyCore c.val t u ∧ (u.core c.val).getX 10 = BitVec.allOnes 64 ∧
        (u.core c.val).pc = k.pc + 4 ∧ ∀ r, r ≠ 10 → (u.core c.val).getX r = k.getX r)) ∧
  (∀ a b : Word, alu 0 false false a b = a + b ∧ alu 0 true false a b = a - b ∧ alu 4 false false a b = a ^^^ b ∧
    alu 0 false true a b = a * b ∧ alu 2 false false a b = (if a.toInt < b.toInt then 1 else 0) ∧
    (b ≠ 0 → alu 5 false true a b = wN (a.toNat / b.toNat) ∧ alu 7 false true a b = wN (a.toNat % b.toNat)) ∧
    alu 5 false true a 0 = BitVec.allOnes 64 ∧ alu 7 false true a 0 = a) ∧
  (∀ n o v : Nat, n = 32 ∨ n = 64 → o < 2 ^ n → v < 2 ^ n →
    amoOp 1 n o v = some v ∧ amoOp 0 n o v = some ((o + v) % 2 ^ n) ∧ amoOp 4 n o v = some (o ^^^ v) ∧
    amoOp 0xC n o v = some (o &&& v) ∧ amoOp 8 n o v = some (o ||| v) ∧ amoOp 0x18 n o v = some (min o v) ∧
    amoOp 0x1C n o v = some (max o v) ∧ amoOp 0x10 n o v = some (if toSigned n o ≤ toSigned n v then o else v) ∧
    amoOp 0x14 n o v = some (if toSigned n o ≤ toSigned n v then v else o)) ∧
  (∀ (s : State) (c x : Nat) (v : Word),
    csrRead s c 0x5C0 x = some (s.reg .CORE_SR_SEED c) ∧ csrRead s c 0x5C1 x = some (s.reg .CORE_VEC_FLAGS c) ∧
    csrRead s c 0xDC0 x = some (wN c) ∧ csrRead s c 0xDC1 x = some (wN (blkCtx s c)) ∧ csrRead s c 0xDC2 x = some (wN (s.fld F.FAB_NODE_ID)) ∧
    (csrWrite c 0x5C0 v s).reg .CORE_SR_SEED c = v ∧ (csrWrite c 0x5C1 v s).reg .CORE_VEC_FLAGS c = s.reg .CORE_VEC_FLAGS c &&& ~~~v ∧
    ((csrWrite c 0x141 v s).core c).sepc = wN (v.toNat / 2 * 2) ∧ ((csrWrite c 0x140 v s).core c).sscratch = v) ∧
  (∀ (s t : State) (c : CoreId) (h : HostAns) (ins : Nat), On s → AtPc2 s c.val ins t →
    (∀ i, expandC ins = some i → Effect (.cpInstruction c h) s (cpExec c.val i 2 h h.data t)) ∧
    (expandC ins = none → ∃ v, Does (.cpInstruction c h) s (except c.val 2 v { t with free := t.free + 1 }))) ∧
  (expandC 0 = none ∧ ∀ rd < 32, ∀ q < 32, ∀ i < 64,
    let im := 4 * (i % 32) + 4096 * (i / 32)
    expandC (0x0001 + 128 * rd + im) = some (0x13 + 128 * rd + 32768 * rd + 2 ^ 20 * (if i < 32 then i else i + 4032)) ∧
    expandC (0x4001 + 128 * rd + im) = some (0x13 + 128 * rd + 2 ^ 20 * (if i < 32 then i else i + 4032)) ∧
    expandC (0x0002 + 128 * rd + im) = some (0x1013 + 128 * rd + 32768 * rd + 2 ^ 20 * i) ∧
    (rd ≠ 2 → i ≠ 0 → expandC (0x6001 + 128 * rd + im) = some (0x37 + 128 * rd + 4096 * (if i < 32 then i else i + 0xFFFC0))) ∧
    (q ≠ 0 → expandC (0x8002 + 128 * rd + 4 * q) = some (0x33 + 128 * rd + 2 ^ 20 * q) ∧
      expandC (0x9002 + 128 * rd + 4 * q) = some (0x33 + 128 * rd + 32768 * rd + 2 ^ 20 * q)) ∧
    (rd ≠ 0 → expandC (0x8002 + 128 * rd) = some (0x67 + 32768 * rd) ∧ expandC (0x9002 + 128 * rd) = some (0xE7 + 32768 * rd) ∧
      expandC (0x6002 + 128 * rd + 4096 * (i / 4 % 2) + 32 * (i % 4) + 4 * (i / 8)) = some (0x3003 + 128 * rd + 0x10000 + 2 ^ 20 * (8 * i))) ∧
    expandC (0xE002 + 4 * q + 1024 * (i % 8) + 128 * (i / 8)) =
      some (0x3023 + 128 * (8 * i % 32) + 0x10000 + 2 ^ 20 * q + 2 ^ 25 * (8 * i / 32)))

/-- Exceptions, the QERR interrupt, reserved encodings of the custom opcodes and faults of tensor instructions. With
stvec.BASE zero an exception ends the launch on the core with status 0x80000100 plus its cause. Otherwise sepc holds
pc, scause the cause, stval its value, SPIE the old SIE, SIE is 0 and pc is the base. A halted queue interrupts an
enabled core at its next boundary with cause 2^63 + 16, and a wait it had parked leaves its word. A reserved encoding
of a custom opcode is cause 2, a bad offset, identifier, table entry, task queue or entry place of a tensor
instruction cause 24 with its code of Table 7.9. None of them changes memory. Where codes 4 and 5 both hold, which of
the two is reported is a free choice, which the table leaves open (assumption 37). The use of sepc, scause, SPIE, SIE
and the vectored base is that of the RISC-V architecture, and stval of an illegal instruction is free (assumptions 29
and 32, PRESUMED). (R138, R145, R151, R146, R144, R160, R224) -/
def Obligations.TrapsAreTaken : Prop :=
  (∀ (s : State) (c cause : Nat) (v : Word), (s.core c).stvec.toNat / 4 = 0 →
    except c cause v s = beginExit c (wN (0x80000100 + cause)) false s) ∧
  (∀ (s : State) (c cause : Nat) (v : Word), (s.core c).stvec.toNat / 4 ≠ 0 →
    let k := s.core c
    let u := except c cause v s
    OnlyCore c s u ∧ (u.core c).sepc = k.pc ∧ (u.core c).scause = wN cause ∧ (u.core c).stval = v ∧
      bitN (u.core c).sstatus.toNat 1 = false ∧ bitN (u.core c).sstatus.toNat 5 = bitN k.sstatus.toNat 1 ∧
      (u.core c).pc = wN (k.stvec.toNat / 4 * 4) ∧ ∀ r, (u.core c).getX r = k.getX r) ∧
  (∀ (s : State) (c : Nat) (cause : Nat) (v : Word), (except c cause v s).mem = s.mem ∧ (except c cause v s).regs = s.regs) ∧
  (∀ (s : State) (c : CoreId) (h : HostAns), On s →
    let k := s.core c.val
    coreState s c.val = csRunning → k.launched = true → k.retire = none → s.flag F.CORE_DBG_CTL_HALT c.val = false →
    slotHeld s (c.val / 16) = false → k.inReset = false → (k.park = none ∨ interruptible k = true) → irqDue s c.val = true →
    ∃ u, Does (.cpInstruction c h) s u ∧ (u.core c.val).sepc = k.pc ∧ (u.core c.val).park = none ∧
      (u.core c.val).scause = wN (2 ^ 63 + 16) ∧
      (u.core c.val).pc = wN (k.stvec.toNat / 4 * 4 + if bitN k.stvec.toNat 0 then 64 else 0) ∧
      bitN (u.core c.val).sstatus.toNat 1 = false ∧ u.mem = s.mem ∧ u.regs = s.regs ∧
      (∀ w ∈ u.sync.waits, w.who.isCore c.val = false)) ∧
  (∀ (s t : State) (c : CoreId) (ins : Nat), On s → AtPc s c.val ins t →
    let x := rs1Of t c.val ins
    let y := (rs2Of t c.val ins).toNat
    let ctx := blkCtx t c.val
    let q := bitsN x.toNat 0 10
    (∀ h, bitsN ins 0 7 = 0x0B ∧ 4 ≤ bitsN ins 12 3 ∨ bitsN ins 0 7 = 0x2B ∧ 5 ≤ bitsN ins 12 3 ∨
        bitsN ins 0 7 = 0x5B ∧ (bitsN ins 12 3 = 3 ∨ 6 ≤ bitsN ins 12 3) →
      ∃ v, Does (.cpInstruction c h) s (except c.val 2 v { t with free := t.free + 1 })) ∧
    (∀ q < 4, isCustom 0x0B q ins = true → x.toNat % 64 ≠ 0 ∨ spSize < x.toNat + 64 →
      Does (pushRow q c) s (except c.val 24 1 t)) ∧
    (∀ row : Instr, isCustom 0x5B 0 ins = true ∧ row = .sig c ∨ isCustom 0x5B 1 ins = true ∧ bitN ins 25 = false ∧ row = .swaitLook c ∨
        isCustom 0x5B 1 ins = true ∧ bitN ins 25 = true ∧ row = .swaitTake c ∨ isCustom 0x5B 2 ins = true ∧ row = .sread c →
      (2 ^ 20 ≤ x.toNat → Does row s (except c.val 24 2 t)) ∧
      (x.toNat < 2 ^ 20 → NoSid t ctx x.toNat → Does row s (except c.val 24 3 t))) ∧
    (∀ row : Instr, isCustom 0x5B 4 ins = true ∧ row = .tqpop c ∨ isCustom 0x5B 5 ins = true ∧ row = .tqpush c →
      let no := t.flag F.FE_TQ_CTL_EN q = false ∨ tqCtx t q ≠ ctx
      let bad := y % 64 ≠ 0 ∨ spSize < y + 64
      (no → ¬bad → Does row s (except c.val 24 4 t)) ∧ (¬no → bad → Does row s (except c.val 24 5 t)) ∧
      (no → bad → ∃ code ∈ [4, 5], Does row s (except c.val 24 code { t with free := t.free + 1 }))))

/-- TPUSH puts a copy of the block at the tail of its queue and returns its ticket. With room in the queue and 64 clean
bytes at an aligned offset, TPUSH to queue q appends a block with those bytes, the ticket after the queue's last and
the last tickets of the queues that GATE names, and rd holds the ticket. A chain takes its stage words with it, which
must be clean, where CHAIN_ADDR is a multiple of 8 and they lie in the scratchpad. No other queue, core, register or
byte of memory changes. With no room, and for a chain with four chains pending (assumption 37), the processor parks at
the instruction. (R144, R147, R145, R126, R149) -/
def Obligations.BlocksArePushed : Prop :=
  ∀ (s t : State) (c : CoreId) (ins q : Nat), On s → q < 4 → AtPc s c.val ins t →
    isCustom 0x0B q ins = true →
    let off := (rs1Of t c.val ins).toNat
    let k := t.core c.val
    let u := k.queue q
    let bytes := rdBytes t (padAddr c.val off) 64
    let chain := q = 1 ∧ fieldLe bytes 0 1 = 0x80
    let b := CBlk.of bytes
    let held := chain ∧ b.caddr % 8 = 0 ∧ b.caddr + 8 * b.nstg ≤ spSize
    let full := qDepth q ≤ u.pendCount ∨ chain ∧ 4 ≤ pendingChains k
    off % 64 = 0 → off + 64 ≤ spSize → poisoned t (padAddr c.val off) 64 = false →
    (full → Does (pushRow q c) s (parkCore c.val (.push q) t)) ∧
    (¬full → (held → poisoned t (padAddr c.val b.caddr) (8 * b.nstg) = false) →
      ∃ v, Does (pushRow q c) s v ∧ v.mem = t.mem ∧ v.regs = t.regs ∧ (∀ j, j ≠ c.val → v.core j = t.core j) ∧
        (v.core c.val).pc = k.pc + 4 ∧ (v.core c.val).getX (rdOf ins) = (if rdOf ins = 0 then 0 else wN (u.last + 1)) ∧
        ((v.core c.val).queue q).last = u.last + 1 ∧ ((v.core c.val).queue q).done = u.done ∧
        (∃ x, ((v.core c.val).queue q).pend = u.pend ++ [x] ∧ x.ticket = u.last + 1 ∧ x.bytes = bytes ∧
          (held → x.stages = rdBytes t (padAddr c.val b.caddr) (8 * b.nstg)) ∧
          ∀ g n, (g, n) ∈ x.gates ↔ g < 4 ∧ bitN ins (25 + g) = true ∧ n = (k.queue g).last) ∧
        (∀ p < 4, p ≠ q → (v.core c.val).queue p = k.queue p))

/-- TWAIT, TDONE, TFLAGS, SKIP, FLUSH, TEXIT and the exit of a core. TWAIT returns 0 when DONE has reached rs1, else the
halt code of a halted queue, else parks. TDONE reads DONE. TFLAGS reads the flag byte and clears it. SKIP discards the
halted block of the queue named and resumes it, FLUSH empties it if it is halted, and TQCTL with another value only
moves on. TEXIT flushes halted queues and parks. Once every queue is done, the core is IDLE with nothing launched, its
launch, if any, has its status, and with the last core of the launch the launch is over and its descriptor complete
with the first status that is not zero. No other core and no memory changes. (R144, R145, R147, R151, R152, R158) -/
def Obligations.QueueInstructions : Prop :=
  (∀ (s t : State) (c : CoreId) (ins : Nat), On s → AtPc s c.val ins t →
    let k := t.core c.val
    let q := bitsN ins 25 2
    let u := k.queue q
    let x := rs1Of t c.val ins
    (isCustom 0x2B 0 ins = true → x.toNat ≤ u.done → Does (.twait c) s (done4 c.val (rdOf ins) 0 t)) ∧
    (isCustom 0x2B 0 ins = true → u.done < x.toNat → u.halt ≠ 0 →
      Does (.twait c) s (done4 c.val (rdOf ins) (wN u.halt) t)) ∧
    (isCustom 0x2B 0 ins = true → u.done < x.toNat → u.halt = 0 →
      ∃ v, Does (.twait c) s v ∧ (v.core c.val).park = some (.twait q (rdOf ins) x) ∧ (v.core c.val).pc = k.pc ∧
        v.mem = t.mem ∧ v.regs = t.regs ∧ (∀ j, j ≠ c.val → v.core j = t.core j)) ∧
    (isCustom 0x2B 1 ins = true → Does (.tdone c) s (done4 c.val (rdOf ins) (wN u.done) t)) ∧
    (isCustom 0x2B 2 ins = true →
      ∃ v, Does (.tflags c) s v ∧ OnlyCore c.val t v ∧ ((v.core c.val).queue q).flags = 0 ∧
        (v.core c.val).getX (rdOf ins) = (if rdOf ins = 0 then 0 else wN u.flags) ∧ (v.core c.val).pc = k.pc + 4 ∧
        ∀ p < 4, p ≠ q → (v.core c.val).queue p = k.queue p) ∧
    (isCustom 0x2B 3 ins = true → x = 1 →
      ∃ v, Does (.skipBlock c) s v ∧ OnlyCore c.val t v ∧ (v.core c.val).pc = k.pc + 4 ∧
        (∀ p < 4, p ≠ q → (v.core c.val).queue p = k.queue p) ∧
        (u.halt = 0 → (v.core c.val).queue q = u) ∧
        (∀ n, u.halt ≠ 0 → u.haltedTicket = some n → (∀ b ∈ u.run, b.failed ≠ 0 → b.ticket = n) →
          ((v.core c.val).queue q).halt = 0 ∧ (∀ b ∈ ((v.core c.val).queue q).pend, b.ticket ≠ n) ∧
          ∀ b ∈ ((v.core c.val).queue q).run, b.ticket ≠ n)) ∧
    (isCustom 0x2B 3 ins = true → x = 2 →
      ∃ v, Does (.flushQueue c) s v ∧ OnlyCore c.val t v ∧ (v.core c.val).pc = k.pc + 4 ∧
        (∀ p < 4, p ≠ q → (v.core c.val).queue p = k.queue p) ∧
        (u.halt = 0 → (v.core c.val).queue q = u) ∧
        (u.halt ≠ 0 → ((v.core c.val).queue q).halt = 0 ∧ ((v.core c.val).queue q).pend = [])) ∧
    (isCustom 0x2B 3 ins = true → x ≠ 1 → x ≠ 2 → ∀ h, ∃ v, Does (.cpInstruction c h) s v ∧ OnlyCore c.val t v ∧
      (v.core c.val).pc = k.pc + 4 ∧ ∀ p < 4, (v.core c.val).queue p = k.queue p) ∧
    (isCustom 0x2B 4 ins = true →
      ∃ v, Does (.texit c) s v ∧ v.mem = t.mem ∧ v.regs = t.regs ∧ (v.core c.val).pc = k.pc ∧
        (∀ j, j ≠ c.val → v.core j = t.core j) ∧
        (∃ h, (v.core c.val).park = some (.texit x h 0)) ∧ ∀ p < 4, ((v.core c.val).queue p).halt = 0 ∧
          ((k.queue p).halt ≠ 0 → ((v.core c.val).queue p).pend = []))) ∧
  (∀ (s : State) (c : CoreId) (x : Word) (a l : Nat), On s → (s.core c.val).park = some (.texit x a l) →
    coreState s c.val = csRunning → queuesDone (s.core c.val) = true → slotHeld s (c.val / 16) = false →
    (s.core c.val).inReset = false →
    let st := exitStatus x a l
    ∃ u, Does (.coreExit c) s u ∧ coreState u c.val = csIdle ∧ (u.core c.val).park = none ∧
      (u.core c.val).launched = false ∧ (u.core c.val).launch = none ∧ u.mem = s.mem ∧
      (∀ j, j ≠ c.val → u.core j = s.core j) ∧
      ∀ r seq, (s.core c.val).launch = some (r, seq) →
        (∀ y ∈ u.fe.launches, y.ring = r → y.seq = seq → smGet 0 y.exited c.val = exitMark st) ∧
        ∀ y, s.fe.launches.find? (fun y => y.ring == r && y.seq == seq) = some y →
          let e := smSet 0 c.val (exitMark st) y.exited
          (∀ j ∈ coresOf y.mask, smGet 0 e j ≠ 0) →
          (∀ z ∈ u.fe.launches, ¬(z.ring = r ∧ z.seq = seq)) ∧
          ((s.ring r).find seq ≠ none → IsDone u r seq 0 (wN ((((coresOf y.mask).map (fun j => (smGet 0 e j).toNat % 2 ^ 32)).find?
            (fun v => v != 0)).getD 0))))

/-- SIG, SWAIT, SREAD, TQPOP and TQPUSH. SIG performs a signal of rs2 on a word, or as many arrivals at a barrier, and
completes. SWAIT parks and takes part in an arbitration at once. If nobody else waits on the word and it has reached
the threshold, rd is the word's value at release and a take has taken the threshold from it; if it has not, the core
stays parked. SREAD reads the word. TQPOP and TQPUSH on an enabled queue of the core's context park on FILL and on
SPACE as take-waiters of 1 and arbitrate at once. A poisoned FILL fails TQPOP as an identifier's word does (assumption
182). (R144, R219, R224, R225, R227, R229, R230, R160) -/
def Obligations.SyncInstructions : Prop :=
  ∀ (s t : State) (c : CoreId) (ins : Nat), On s → AtPc s c.val ins t →
    let rd := rdOf ins
    let x := (rs1Of t c.val ins).toNat
    let y := rs2Of t c.val ins
    let ctx := blkCtx t c.val
    (isCustom 0x5B 0 ins = true → x < 2 ^ 20 → ∀ a, NamesWord t ctx x .coreSignal a →
      ∃ n, Noted t n ∧ Does (.sig c) s (done4 c.val 0 0 (signal ctx a y.toNat (trace 5 (coreCtx t c.val) c.val x 0 y.toNat n)))) ∧
    (isCustom 0x5B 0 ins = true → x < 2 ^ 20 → ∀ i, NamesBarrier t ctx x i →
      ∃ n, Noted t n ∧ Does (.sig c) s (done4 c.val 0 0 (barArrive i c.val y.toNat (trace 5 (coreCtx t c.val) c.val x 0 y.toNat n)))) ∧
    (isCustom 0x5B 1 ins = true → bitN ins 25 = false → x < 2 ^ 20 → ∀ a, NamesWord t ctx x .wait a →
      ∃ n, Noted t n ∧ let w := parkWait ctx ⟨a, y, false, .core c.val rd⟩ (parkCore c.val (.swait rd) n)
      Does (.swaitLook c) s w ∧
      ((∀ p ∈ t.sync.waits, p.addr ≠ a) → y.toNat ≤ (rd64 t a).toNat → w.mem = t.mem ∧ (w.core c.val).park = none ∧
        (w.core c.val).pc = (t.core c.val).pc + 4 ∧ (w.core c.val).getX rd = (if rd = 0 then 0 else rd64 t a)) ∧
      ((∀ p ∈ t.sync.waits, p.addr ≠ a) → (rd64 t a).toNat < y.toNat → w.mem = t.mem ∧
        (w.core c.val).park = some (.swait rd) ∧ (w.core c.val).pc = (t.core c.val).pc)) ∧
    (isCustom 0x5B 1 ins = true → bitN ins 25 = true → x < 2 ^ 20 → ∀ a, NamesWord t ctx x .wait a →
      ∃ n, Noted t n ∧ let w := parkWait ctx ⟨a, y, true, .core c.val rd⟩ (parkCore c.val (.swait rd) n)
      Does (.swaitTake c) s w ∧
      ((∀ p ∈ t.sync.waits, p.addr ≠ a) → y.toNat ≤ (rd64 t a).toNat → (w.core c.val).park = none ∧
        (w.core c.val).pc = (t.core c.val).pc + 4 ∧ (w.core c.val).getX rd = (if rd = 0 then 0 else rd64 t a - y) ∧
        rd64 w a = rd64 t a - y) ∧
      ((∀ p ∈ t.sync.waits, p.addr ≠ a) → (rd64 t a).toNat < y.toNat → w.mem = t.mem ∧
        (w.core c.val).park = some (.swait rd) ∧ (w.core c.val).pc = (t.core c.val).pc)) ∧
    (isCustom 0x5B 2 ins = true → x < 2 ^ 20 → ∀ a, NamesWord t ctx x .wait a →
      ∃ n, Noted t n ∧ Does (.sread c) s (done4 c.val rd (rd64 t a) n)) ∧
    (∀ q, q = bitsN x 0 10 → t.flag F.FE_TQ_CTL_EN q = true → tqCtx t q = ctx → y.toNat % 64 = 0 → y.toNat + 64 ≤ spSize →
      heldRange t (tqBase t q) 64 = false →
      (isCustom 0x5B 4 ins = true →
        (poisonAt t (tqBase t q) = false → ∃ n, Noted t n ∧ Does (.tqpop c) s
          (parkWait ctx ⟨tqBase t q, 1, true, .tqPop c.val rd q y.toNat⟩ (parkCore c.val (.tq rd q true) n))) ∧
        (poisonAt t (tqBase t q) = true → ∃ n, Noted t n ∧ Does (.tqpop c) s (except c.val 24 3
          (contained (some ctx) 8 0 13 (tqBase t q) (addrPword t (tqBase t q)) n)))) ∧
      (isCustom 0x5B 5 ins = true → poisonAt t (tqBase t q + 8) = false → poisoned t (padAddr c.val y.toNat) 64 = false →
        ∃ n, Noted t n ∧ Does (.tqpush c) s (parkWait ctx ⟨tqBase t q + 8, 1, true,
          .tqPush c.val rd q (rdBytes t (padAddr c.val y.toNat) 64) false⟩ (parkCore c.val (.tq rd q false) n))))

/-- SAVE, RESTORE and their completions. SAVE of a RUNNING core makes it SAVING and ends its parked instruction, after a
released one has retired; in any other state it sets BADREQ. RESTORE of an IDLE or SAVED core makes it RESTORING; in
any other state it sets BADREQ. Once every started block of a SAVING core is done its image is written and it is
SAVED, with nothing launched and empty queues. A restore whose image is not whole, clean, well formed and of the owner
leaves the core IDLE with ERR set, any other RUNNING at the pc and with the general registers of the image. That a
SAVED core holds no block, so that its queues are empty, and that an image which is not whole, or is poisoned, is
rejected, are the model's (assumptions 40 and 39, DEDUCED). (R162, R163, R164, R101, R102, R222) -/
def Obligations.ContextSwitch : Prop :=
  ∀ (s : State) (c : CoreId), On s →
    let k := s.core c.val
    let a := saveArea s c.val
    let h := rdBytes s a 0x1000
    let n := if bitN (fieldLe h 0 8) 8 then imageSize else 0x28000
    (ready s = true → ∀ spad : Bool,
      (coreState s c.val = csRunning →
        ∃ u, Does (.save c spad) s u ∧ coreState u c.val = csSaving ∧ (u.core c.val).park = none ∧ (u.core c.val).retire = none ∧
          (∀ w ∈ u.sync.waits, w.who.isCore c.val = false) ∧ (u.core c.val).saveSpad = spad ∧ u.mem = s.mem ∧
          (∀ j, j ≠ c.val → u.core j = s.core j) ∧
          (k.retire = none → (∀ r, (u.core c.val).getX r = k.getX r) ∧ (u.core c.val).pc = k.pc) ∧
          ∀ rd v id, k.retire = some (rd, v, id) → (u.core c.val).getX rd = (if rd = 0 then 0 else v) ∧
            (u.core c.val).pc = k.pc + 4) ∧
      (coreState s c.val ≠ csRunning → Does (.save c spad) s (badReq c.val s))) ∧
    (ready s = true →
      (coreState s c.val = csIdle ∨ coreState s c.val = csSaved →
        Does (.restore c) s (s.setFld F.CORE_CTX_STAT_STATE c.val csRestoring)) ∧
      (coreState s c.val ≠ csIdle → coreState s c.val ≠ csSaved → Does (.restore c) s (badReq c.val s))) ∧
    (coreState s c.val = csSaving → startedDone k = true →
      heldRange s a (if k.saveSpad then imageSize else 0x28000) = false →
      ∃ u, Does (.contextSaveComplete c) s u ∧ coreState u c.val = csSaved ∧ (u.core c.val).launched = false ∧
        (∀ q, (u.core c.val).queue q = QueueSt.reset) ∧ (∀ j, j ≠ c.val → u.core j = s.core j) ∧
        (rangeHbm s a (if k.saveSpad then imageSize else 0x28000) = true →
          u.mem = (writeImage c.val (blkCtx s c.val) a k.saveSpad false
            (touchRange a (if k.saveSpad then imageSize else 0x28000) s)).mem)) ∧
    (coreState s c.val = csRestoring → k.inReset = false → heldRange s a n = false →
      let good := rangeHbm s a n = true ∧ poisoned s a 0x28000 = false ∧ fieldLe h 0 8 % 64 = s.fld F.CORE_OWNER_CTX c.val ∧
        imageOk h (rdBytes s (a + 0x2000) accImageSize) (rdBytes s (a + 0x27000) 128) = true
      (¬good → ∃ m, Noted s m ∧ Does (.contextRestoreComplete c) s
        ((m.setFld F.CORE_CTX_STAT_STATE c.val csIdle).setFld F.CORE_CTX_STAT_ERR c.val 1)) ∧
      (good → ∃ u, Does (.contextRestoreComplete c) s u ∧ coreState u c.val = csRunning ∧ (u.core c.val).launched = true ∧
        (bitN (fieldLe h 0 8) 8 = false → (u.core c.val).pc = wN (fieldLe h 8 8) ∧ u.mem = s.mem ∧
          (∀ j, j ≠ c.val → u.core j = s.core j) ∧
          ∀ r, 1 ≤ r → r ≤ 31 → (u.core c.val).getX r = wN (fieldLe h (0x10 + 8 * (r - 1)) 8))))

/-- CORE_OWNER, MEM_CTX_INVAL and FE_TQ_CTL. CORE_OWNER is written only while the core is IDLE or SAVED, else BADREQ is
set, and for a context that exists; after a save the vector registers are undefined to another owner. MEM_CTX_INVAL of
a context that exists sets GO, and its completion takes the new table base, empties the instruction caches of the
context's cores and clears GO. A task queue is enabled where it is placed wholly in the sync-page partition above the
word area, for a context that exists, with an empty header; otherwise EN stays 0. A clear of EN ends the queue's waits
and leaves its header as it is (assumption 148). (R143, R159, R161, R162, R164, R192, R221, R383) -/
def Obligations.OwnershipAndTranslation : Prop :=
  ∀ s : State, On s →
    (∀ (c : CoreId) (v : BitVec 32), ready s = true →
      (coreState s c.val ≠ csIdle → coreState s c.val ≠ csSaved → Does (.coreOwner c v) s (badReq c.val s)) ∧
      (coreState s c.val = csIdle ∨ coreState s c.val = csSaved →
        (bitN v.toNat 8 = true → ctxExists s (v.toNat % 64) = false → Does (.coreOwner c v) s s) ∧
        ((bitN v.toNat 8 = true → ctxExists s (v.toNat % 64) = true) →
          ∃ u, Does (.coreOwner c v) s u ∧ u.fld F.CORE_OWNER_CTX c.val = v.toNat % 64 ∧
            u.flag F.CORE_OWNER_EN c.val = bitN v.toNat 8 ∧ (∀ j, j ≠ c.val → u.core j = s.core j) ∧
            ((s.core c.val).stale = false → u.cores = s.cores ∧ u.mem = s.mem) ∧
            ((s.core c.val).stale = true → u.reg .CORE_OWNER c.val ≠ s.reg .CORE_OWNER c.val →
              (u.core c.val).vreg = [] ∧ (u.core c.val).vseed ≠ 0)))) ∧
    (∀ x : CtxId, ready s = true →
      (ctxExists s x.val = true → Does (.memCtxInval x) s (s.setFld F.MEM_CTX_INVAL_GO x.val 1)) ∧
      (ctxExists s x.val = false → Does (.memCtxInval x) s s)) ∧
    (∀ x : CtxId,
      (s.flag F.MEM_CTX_INVAL_GO x.val = false → Does (.memCtxInvalComplete x) s s) ∧
      (s.flag F.MEM_CTX_INVAL_GO x.val = true →
        ∃ u, Does (.memCtxInvalComplete x) s u ∧ u.flag F.MEM_CTX_INVAL_GO x.val = false ∧
          u.mem = { s.mem with ptBase := smSet 0 x.val (s.reg .MEM_CTX_PTBASE x.val) s.mem.ptBase } ∧
          (∀ c, blkCtx s c = x.val → (u.core c).icache = []) ∧ (∀ c, blkCtx s c ≠ x.val → u.core c = s.core c))) ∧
    (∀ (q : Fin 1024) (v : BitVec 32), ready s = true → s.flag F.FE_TQ_CTL_EN q.val = false →
      let w := s.regWrite .FE_TQ_CTL q.val (setBitsN v.toNat 16 1 0)
      let fits := bitN v.toNat 16 = true ∧ 4 ≤ w.fld F.FE_TQ_CTL_LOG2N q.val ∧ tqPlaced w q.val = true ∧ ctxExists w (tqCtx w q.val) = true
      (fits → ∃ u, Does (.feTqCtl q v) s u ∧ u.flag F.FE_TQ_CTL_EN q.val = true ∧ rd64 u (tqBase w q.val) = 0 ∧
          rd64 u (tqBase w q.val + 8) = wN (tqSize w q.val) ∧ rd64 u (tqBase w q.val + 16) = 0 ∧
          rd64 u (tqBase w q.val + 24) = 0 ∧
          ∀ a, (a < tqBase w q.val ∨ tqBase w q.val + 64 ≤ a) → rd8 u a = rd8 s a) ∧
      (¬fits → Does (.feTqCtl q v) s w)) ∧
    (∀ (q : Fin 1024) (v : BitVec 32), ready s = true → s.flag F.FE_TQ_CTL_EN q.val = true →
      (bitN v.toNat 16 = true → Does (.feTqCtl q v) s s) ∧
      (bitN v.toNat 16 = false →
        ∃ u, Does (.feTqCtl q v) s u ∧ u.flag F.FE_TQ_CTL_EN q.val = false ∧ u.mem = s.mem ∧
          ∀ w ∈ u.sync.waits, w ∈ s.sync.waits ∧ (∀ c rd d, w.who ≠ .tqPop c rd q.val d) ∧
            (∀ c rd d p, w.who ≠ .tqPush c rd q.val d p) ∧ ∀ r n d p, w.who ≠ .tqRing r n q.val d p))

/-- The signal of a block or descriptor: none, or the word that its identifier names, with what it adds (R225, R226). -/
def SignalIs (s : State) (ctx : Nat) (local_ : Bool) (sid add : Nat) (g : Option (Nat × Word)) : Prop :=
  local_ = false ∧ g = none ∨ local_ = true ∧ ∃ a, NamesWord s ctx sid .signal a ∧ g = some (a, wN add)

/-- The n bytes at va that an ATOMIC of core c names lie at a, may be read and written, and are not held. -/
def WordAt (s : State) (c ctx va n a : Nat) : Prop :=
  inWindow va = true ∧ va + n ≤ winBase + spSize ∧ a = padAddr c (va - winBase) ∨
  inWindow va = false ∧ va + n ≤ 2 ^ 48 ∧ ∃ left, xlate s ctx va .rw = .ok a left ∧ physCheck s a (min n left) true = .ok ∧
    heldRange s a n = false

/-- COPY, FILL and ATOMIC blocks start from the head of their queue, move what they name, and complete. A block that R154
or R156 rejects, or whose signal names nothing, halts its queue with code 1. An accepted COPY or FILL starts and runs
from its first byte. One of a single row between scratchpad offsets, or for the Vat queue between addresses of the
core's window, with no wait parked on a word, writes each byte as R153 gives and no other; a block of size zero writes
nothing. An FADD32 in Reproducible mode is rejected with a contained error. An ATOMIC of a clean word of the device
updates it and puts the old value at RET; one of a fabric address sends its request. A complete block raises its
signal. (R29, R141, R150, R153, R154, R155, R156, R151, R226, 07_core_programming.md) -/
def Obligations.DmaBlocks : Prop :=
  (∀ (s : State) (c : CoreId) (vat : Bool) (h : HostAns) (q : QBlk), On s →
    headReady s c.val (qOf vat) = some q →
    let b := DBlk.of q.bytes
    let ctx := blkCtx s c.val
    let row : Instr := if b.op = 2 then .dmaFill c vat h else .dmaCopy c vat h
    ¬(vat = true ∧ b.op = 3) →
    (b.ok vat = false ∨ b.sigEn = true ∧ b.sigRemote = false ∧ NoSid s ctx b.sigId → Does row s (haltQueue c.val (qOf vat) 1 s)) ∧
    (b.ok vat = true → ∀ g, SignalIs s ctx (b.sigEn && !b.sigRemote) b.sigId b.sigAdd g →
      ∃ m, Noted s m ∧ let u := runBlock c.val q.ticket vat h 0 (startBlock c.val (qOf vat) q g m)
      Effect row s u ∧
      (b.total = 0 → (b.sigEn && b.sigRemote) = false → (∀ r ∈ ((s.core c.val).queue (qOf vat)).run, r.ticket ≠ q.ticket) →
        Does row s u ∧ u.mem = s.mem ∧
        ∃ r ∈ ((u.core c.val).queue (qOf vat)).run, r.ticket = q.ticket ∧ r.executed = true ∧ r.sig = g))) ∧
  (∀ (s : State) (c : CoreId) (vat : Bool) (h : HostAns) (q : QBlk), On s → headReady s c.val (qOf vat) = some q → s.sync.waits = [] →
    (∀ r ∈ ((s.core c.val).queue (qOf vat)).run, r.ticket ≠ q.ticket) →
    let b := DBlk.of q.bytes
    let base := if vat then winBase else 0
    let row : Instr := if b.op = 2 then .dmaFill c vat h else .dmaCopy c vat h
    let src := padAddr c.val (b.src - base)
    let dst := padAddr c.val (b.dst - base)
    b.ok vat = true → b.sigEn = false → b.sfab = false → b.dfab = false → b.cnt1 = 1 → b.cnt2 = 1 → 0 < b.len0 →
    base ≤ b.dst → b.dst + b.len0 ≤ base + spSize →
    (b.op = 1 → base ≤ b.src → b.src + b.len0 ≤ base + spSize → poisoned s src b.len0 = false →
      (b.src + b.len0 ≤ b.dst ∨ b.dst + b.len0 ≤ b.src) →
      ∃ u, Does row s u ∧ (∀ i < b.len0, rd8 u (dst + i) = rd8 s (src + i)) ∧
        ∀ a, (a < dst ∨ dst + b.len0 ≤ a) → rd8 u a = rd8 s a) ∧
    (b.op = 2 → ∃ u, Does row s u ∧ (∀ i < b.len0, rd8 u (dst + i) = ((natLe 8 b.src)[i % 8]?).getD 0) ∧
      ∀ a, (a < dst ∨ dst + b.len0 ≤ a) → rd8 u a = rd8 s a)) ∧
  (∀ (s : State) (c : CoreId) (q : QBlk), On s → headReady s c.val 3 = some q →
    let b := DBlk.of q.bytes
    let ctx := blkCtx s c.val
    let repro := b.aop = 0x10 ∧ bitN (s.reg .DEV_REPRO_CTL 0).toNat ctx = true
    b.op = 3 →
    (repro → Does (.dmaAtomic c) s (contained (some ctx) 0 c.val 12 0 19 (haltQueue c.val 3 1 s))) ∧
    (¬repro → (b.atomOk = false ∨ b.sigEn = true ∧ b.sigRemote = false ∧ NoSid s ctx b.sigId) →
      Does (.dmaAtomic c) s (haltQueue c.val 3 1 s)) ∧
    (¬repro → b.atomOk = true → ∀ g, SignalIs s ctx (b.sigEn && !b.sigRemote) b.sigId b.sigAdd g →
      let t := startBlock c.val 3 q g s
      (b.dfab = true → ∃ m, Noted t m ∧ Does (.dmaAtomic c) s (modRun c.val 3 q.ticket (fun r => { r with outst := 1 })
        (count c.val 14 1 (mvReq (b.mv c.val ctx q.ticket true) 3 (bitsN b.dst 48 16) 0 (bitsN b.dst 0 48) b.src b.cmp b.aop 0 []
          [(false, padAddr c.val b.ret, 8)] m)))) ∧
      (b.dfab = false → ∀ n a, aopBytes b.aop = some n → WordAt s c.val ctx b.dst n a → poisoned s a n = false →
        ∃ m, Noted t m ∧ let r := atomicAt ctx a b.aop b.src b.cmp m
        let u := settleBlock c.val 3 q.ticket (store ctx (padAddr c.val b.ret) (natLe 8 r.1) false (count c.val 14 2 (count c.val 13 1 r.2)))
        Does (.dmaAtomic c) s u ∧
        (s.sync.waits = [] → (a + n ≤ padAddr c.val b.ret ∨ padAddr c.val b.ret + 8 ≤ a) →
          rdNat u (padAddr c.val b.ret) 8 = rdNat s a n)))) ∧
  (∀ (s : State) (c : CoreId) (vat : Bool), On s →
    let done := ((s.core c.val).queue (qOf vat)).run.find? (fun r => r.executed && r.failed = 0)
    (done = none → Does (.dmaBlockComplete c vat) s s) ∧
    (∀ r, done = some r →
      Does (.dmaBlockComplete c vat) s (completeBlock c.val (qOf vat) r.ticket 0 (raiseSig (blkCtx s c.val) r.sig s))))

/-- A launch starts every core of its mask as the monitor does, or is rejected if a core changed hands. For the oldest
launch of the ring that can start - if the context still owns every core, each masked core is RUNNING at the entry
address with x cleared but for a0, a1 and a2, its queues, tickets and flags cleared, SIE 0, and its vector registers
and accumulator as they were. No other core changes and no memory. Otherwise the launch is REJECTED. (R157, R433,
R203, 07_core_programming.md) -/
def Obligations.LaunchesStart : Prop :=
  ∀ (s : State) (r : RingId) (l : Launch), On s →
    s.fe.launches.find? (fun l => l.ring == r.val && canStart s l) = some l →
    (maskOwned s l.ctx l.mask = false →
      Does (.launchStart r) s (rejectDesc l.ring l.seq (s.modFe (fun f => { f with
        launches := f.launches.filter (fun x => !(x.ring == l.ring && x.seq == l.seq)) })))) ∧
    (maskOwned s l.ctx l.mask = true →
      ∃ u, Does (.launchStart r) s u ∧ u.mem = s.mem ∧ u.sync = s.sync ∧
        (∀ i c, (coresOf l.mask)[i]? = some c →
          let k := u.core c
          coreState u c = csRunning ∧ k.pc = l.entry ∧ k.getX 10 = l.arg ∧ k.getX 11 = wN i ∧
          k.getX 12 = wN (coresOf l.mask).length ∧ (∀ x, x ∉ [10, 11, 12] → k.getX x = 0) ∧
          (∀ q < 4, k.queue q = QueueSt.reset) ∧ bitN k.sstatus.toNat 1 = false ∧ u.reg .CORE_VEC_FLAGS c = 0 ∧
          k.acc = (s.core c).acc ∧ k.vreg = (s.core c).vreg ∧ k.preg = (s.core c).preg) ∧
        (∀ c, c ∉ coresOf l.mask → u.core c = s.core c))

/-- A write of memory is read back, changes no other byte and keeps the canonical form. After a write of bytes at a
device-physical address, each of those addresses reads as written and every other address reads as before, whatever
the write-combining buffers then flush; the memory keeps its canonical form. With empty buffers, a poisoned write
leaves each HBM byte it wrote poisoned. (R176, R177, R181, 08_vat_and_stacked_memory.md) -/
def Obligations.MemoryReadsWhatWasWritten : Prop :=
  ∀ (s : State) (a : Nat) (bs : List Byte) (p : Bool),
    (∀ (i : Nat) (h : i < bs.length), rd8 (putBytes a bs p s) (a + i) = bs[i]) ∧
    (∀ b, b < a ∨ a + bs.length ≤ b → rd8 (putBytes a bs p s) b = rd8 s b) ∧
    (Memory.wf s.mem = true → Memory.wf (putBytes a bs p s).mem = true) ∧
    (p = true → s.mem.wcb = [] → ∀ i < bs.length, region s (a + i) = .hbm → poisonAt (putBytes a bs p s) (a + i) = true)

/-- Line reads, scrubs and writes of HBM. Up to three bad symbols are corrected, and more, a wrong line or a failed
command are uncorrectable. For a line that is not held and not poisoned a clean read changes no byte, no poison, no
register and no core, a corrected one no byte and no poison, and an uncorrectable one poisons the line and counts it.
A scrub reads the channel's next line and moves on by 64 bytes. A write changes its own bytes and no others. A read or
write of a line that is held waits, behind those that already do. Before boot step 5, or of an address that is no HBM,
neither has an effect. (R176, R179, R180, R181, R182, R183, R185, R190, R356, R178) -/
def Obligations.HbmAccesses : Prop :=
  (∀ x : LineIn, lineOutcome x =
    if x.wrong = true ∨ x.parity = true ∨ 3 < x.bad.val then .uncorrectable
    else if 0 < x.bad.val then .corrected else if x.dieCe = true then .dieCorrected else .clean) ∧
  ∀ s : State, On s →
    (∀ (l : Fin 10737418240) (x : LineIn), hbmUp s = false ∨ inHbm s (64 * l.val) = false → Does (.hbmLineRead l x) s s) ∧
    (∀ (l : Fin 10737418240) (x : LineIn), hbmUp s = true → inHbm s (64 * l.val) = true → heldRange s (64 * l.val) 64 = true →
      Does (.hbmLineRead l x) s (holdAcc (.line l.val x) s)) ∧
    (∀ (l : Fin 10737418240) (x : LineIn), hbmUp s = true → inHbm s (64 * l.val) = true → heldRange s (64 * l.val) 64 = false →
      smGet false s.mem.poison (64 * l.val) = false →
      let ch := (hbmChan (localIlv s) (64 * l.val)).1
      ∃ u, Does (.hbmLineRead l x) s u ∧ (∀ a, rd8 u a = rd8 s a) ∧
        (lineOutcome x = .clean → u.mem.poison = s.mem.poison ∧ u.cores = s.cores ∧ u.regs = s.regs ∧ u.mem.msb.contains l.val = true) ∧
        (lineOutcome x = .dieCorrected → u.mem.poison = s.mem.poison) ∧
        (lineOutcome x = .corrected → u.mem.poison = s.mem.poison) ∧
        (lineOutcome x = .uncorrectable → smGet false u.mem.poison (64 * l.val) = true ∧
          u.fld F.MEM_CH_STAT_UE ch = min (s.fld F.MEM_CH_STAT_UE ch + 1) (2 ^ F.MEM_CH_STAT_UE.width - 1))) ∧
    (∀ (ch : ChanId) (x : LineIn),
      let a := chanAddr (localIlv s) ch.val (smGet 0 s.mem.scrub ch.val)
      let reads := s.flag F.MEM_SCRUB_CTL_EN = true ∧ hbmUp s = true ∧ heldRange s a 64 = false
      (¬reads → Does (.scrubRead ch x) s s) ∧
      (reads → ∃ u, Does (.scrubRead ch x) s u ∧ (∀ a, rd8 u a = rd8 s a) ∧
        (lineOutcome x ≠ .uncorrectable → u.mem.poison = s.mem.poison) ∧
        smGet 0 u.mem.scrub ch.val = (smGet 0 s.mem.scrub ch.val + 64) % chanBytes)) ∧
    (∀ (a : Fin 687194767360) (d : List Byte) (p : Bool),
      let e := d.take (64 - a.val % 64)
      (hbmUp s = false ∨ inHbm s a.val = false → Does (.hbmWrite a d p) s s) ∧
      (hbmUp s = true → inHbm s a.val = true → heldRange s a.val e.length = true →
        Does (.hbmWrite a d p) s (holdAcc (.write 0 a.val e p) s)) ∧
      (hbmUp s = true → inHbm s a.val = true → heldRange s a.val e.length = false →
        Does (.hbmWrite a d p) s (store 0 a.val e p s) ∧
        (∀ (i : Nat) (h : i < e.length), rd8 (store 0 a.val e p s) (a.val + i) = e[i]) ∧
        (∀ b, b < a.val ∨ a.val + e.length ≤ b → rd8 (store 0 a.val e p s) b = rd8 s b)))

/-- Flushing the write-combining buffers changes no value. Flushes of an entry by number and by age, of all entries, and a
pending MEM_WCB_FLUSH leave every byte of memory as it reads; so neither does the order of two flushes matter, and a
read during a flush gives the bytes merged before it. (R177) -/
def Obligations.FlushesChangeNoValue : Prop :=
  ∀ s : State, On s →
    (∀ (ch : ChanId) (n : Fin 256), ∃ u, Does (.wcbEntryFlush ch n) s u ∧ ∀ a, rd8 u a = rd8 s a) ∧
    (∀ ch : ChanId, ∃ u, Does (.wcbAgeFlush ch) s u ∧ ∀ a, rd8 u a = rd8 s a) ∧
    (ready s = true → ∃ u, Does .memWcbFlush s u ∧ ∀ a, rd8 u a = rd8 s a) ∧
    (∃ u, Does .memWcbFlushComplete s u ∧ ∀ a, rd8 u a = rd8 s a) ∧
    (∀ (chs : List Nat) (a : Nat), rd8 (flushChans chs s) a = rd8 s a) ∧
    (∀ (x y : List Nat) (a : Nat), rd8 (flushChans y (flushChans x s)) a = rd8 (flushChans x (flushChans y s)) a)

/-- What each flush event writes out, and the end of a row's copy. Entry n of a channel leaves its buffer; the oldest
leaves when it reaches the age limit; MEM_WCB_CTL.FLUSH marks every entry, shows FLUSH and counts no later one, and
when its entries are written FLUSH reads 0. Where nothing is named, nothing is flushed. A row that was copied without
error enters its channel's remap table and the repair log, or shows that the table is full; the copy waits while the
channel is under test or in self-refresh. A line that could not be corrected in the copy is poisoned, and no copy
changes a byte. (R176, R182, R183, R184, 08_vat_and_stacked_memory.md) -/
def Obligations.BuffersFlush : Prop :=
  ∀ s : State, On s →
    (∀ (ch : ChanId) (n : Fin 256), ((wcbOf s ch.val)[n.val]? = none → Does (.wcbEntryFlush ch n) s s) ∧
      ∀ e, (wcbOf s ch.val)[n.val]? = some e → ∃ u, Does (.wcbEntryFlush ch n) s u ∧ wcbOf u ch.val = (wcbOf s ch.val).erase e) ∧
    (∀ ch : ChanId, (wcbOf s ch.val = [] → Does (.wcbAgeFlush ch) s s) ∧
      ∀ (e : WcbEntry) (l : List WcbEntry), wcbOf s ch.val = e :: l →
        ∃ u, Does (.wcbAgeFlush ch) s u ∧ wcbOf u ch.val = l ∧ e.born + s.fld F.MEM_WCB_CTL_AGE * 100 ≤ u.now) ∧
    (ready s = true → ∃ u, Does .memWcbFlush s u ∧ u.flag F.MEM_WCB_CTL_FLUSH = true ∧
      ∀ ch, wcbOf u ch = (wcbOf s ch).map (fun e => { e with flushing := true })) ∧
    (s.flag F.MEM_WCB_CTL_FLUSH = true →
      ∃ u, Does .memWcbFlushComplete s u ∧ u.flag F.MEM_WCB_CTL_FLUSH = false) ∧
    (s.flag F.MEM_WCB_CTL_FLUSH = false → Does .memWcbFlushComplete s s) ∧
    (∀ (ch : ChanId) (found : List LineIn),
      (s.mem.remapping.find? (fun r => r.1 == ch.val) = none → Does (.rowRemapComplete ⟨ch, found⟩) s s) ∧
      ∀ row, s.mem.remapping.find? (fun r => r.1 == ch.val) = some (ch.val, row) →
        s.mem.selfRefresh = false → (∀ t, s.mem.tg = some t → t.ch ≠ ch.val) →
        let t := smGet [] s.mem.remapped ch.val
        ∃ u, Does (.rowRemapComplete ⟨ch, found⟩) s u ∧ (∀ a, rd8 u a = rd8 s a) ∧
          (∀ i < 16, ∀ x, found[i]? = some x → lineOutcome x = .uncorrectable →
            smGet false u.mem.poison (chanAddr (localIlv s) ch.val (1024 * row + 64 * i) / 64 * 64) = true) ∧
          ((∀ x ∈ found, lineOutcome x = .clean) → u.mem.remapping = s.mem.remapping.erase (ch.val, row) ∧
            (64 ≤ t.length → u.flag F.MEM_CH_STAT_REMAP_FULL ch.val = true) ∧
            (t.length < 64 → smGet [] u.mem.remapped ch.val = t ++ [row] ∧ u.mem.repairLog = s.mem.repairLog ++ [(ch.val, row)] ∧
              u.fld F.MEM_CH_STAT_REMAP_USED ch.val = t.length + 1)))

/-- The traffic generator starts, is refused, and ends, and HBM training goes phase by phase. A START while a test runs,
while a context is enabled or with too many lines sets ERR. Otherwise with at least one line it sets BUSY for the
channel and pattern written. At the end BUSY is clear, ERRS holds the lines in error, and no byte but those of the
tested lines has changed; the test waits for self-refresh to end and for a row of its lines that is being copied.
During boot step 5 a channel's next phase that passes is counted, and the last unit of all leaves HBM zero and
completes the step. A failure of phase 1 fails training and stops boot with code HBM, and so does one of phase 2 (the
model's choice, assumption 176). Phase 3 passes on good margins or else with a traffic-generator region, and without
either retrains the stack at the lower rate. A failure of phase 4 does so too, or fails training where the stack
already runs at it. (R186, R187, R188, R189, R190, R360, 08_vat_and_stacked_memory.md) -/
def Obligations.HbmIsTestedAndTrained : Prop :=
  (∀ s : State, On s →
    (ready s = true → ∀ v : Word,
      let w := s.regWrite .MEM_TG_CTL 0 (setBitsN v.toNat 16 1 0)
      let n := w.fld F.MEM_TG_CTL_LINES
      let bars := w.mem.tg.isSome = true ∨ (∃ c < 64, w.flag F.MEM_CTX_PTBASE_EN c = true) ∨ 16777216 < n
      (bitN v.toNat 16 = false → Does (.memTgStart v) s w) ∧
      (bitN v.toNat 16 = true → bars → Does (.memTgStart v) s (w.setFld F.MEM_TG_STAT_ERR 0 1)) ∧
      (bitN v.toNat 16 = true → ¬bars → n = 0 → ∃ u, Does (.memTgStart v) s u ∧ u.mem = s.mem ∧ (u.prog 4).st = 2) ∧
      (bitN v.toNat 16 = true → ¬bars → 0 < n →
        ∃ u, Does (.memTgStart v) s u ∧ u.flag F.MEM_TG_STAT_BUSY = true ∧
          (∃ t, u.mem.tg = some t ∧ t.lines = n ∧ t.ch = w.fld F.MEM_TG_CTL_CH ∧ t.pat = w.fld F.MEM_TG_CTL_PAT) ∧
          (∀ a, rd8 u a = rd8 s a))) ∧
    (∀ e : Fin 65536, (s.mem.tg = none → Does (.memTgComplete e) s s) ∧
      ∀ t : TgRun, s.mem.tg = some t → t.lines < 2 ^ 25 →
        s.mem.selfRefresh = false → (∀ r ∈ s.mem.remapping, r.1 = t.ch → 64 * t.lines ≤ 1024 * r.2) →
        ∃ u, Does (.memTgComplete e) s u ∧ u.mem.tg = none ∧ u.flag F.MEM_TG_STAT_BUSY = false ∧
          u.fld F.MEM_TG_STAT_ERRS = min e.val t.lines ∧
          ∀ a, (∀ i < t.lines, a < chanAddr (localIlv s) t.ch (64 * i) ∨ chanAddr (localIlv s) t.ch (64 * i) + 64 ≤ a) →
            rd8 u a = rd8 s a)) ∧
  (∀ (s : State) (ch : ChanId) (x : TrainIn), On s →
    let n := smGet 0 s.mem.phases ch.val
    let low := bitN (s.fld F.MEM_TRAIN_STAT_DEGR) (stackOf ch.val)
    let lim := if low then 38 else 31
    let good := lim ≤ x.rdEye ∧ lim ≤ x.wrEye ∧ 40 ≤ x.height
    (bootStep s ≠ 4 ∨ bootFailed s = true ∨ 4 ≤ n → Does (.hbmTrainPhase ch x) s s) ∧
    (bootStep s = 4 → bootFailed s = false →
      (n = 0 ∧ x.pass = true → Does (.hbmTrainPhase ch x) s (phaseDone ch.val 1 s)) ∧
      (n = 1 ∧ x.pass = true → Does (.hbmTrainPhase ch x) s (phaseDone ch.val 2 (repairRows ch.val x.noSpare s))) ∧
      ((n = 0 ∨ n = 1) ∧ x.pass = false → ∃ u, Does (.hbmTrainPhase ch x) s u ∧ u.flag F.MEM_TRAIN_STAT_FAIL = true ∧
        bootFailed u = true ∧ u.fld F.DEV_BOOT_STAT_CODE = 5) ∧
      (n = 2 ∧ (good ∨ x.tg = true) → ∃ u, Does (.hbmTrainPhase ch x) s u ∧ smGet 0 u.mem.phases ch.val = 3 ∧
        (u.flag F.MEM_CH_MARGIN_TG ch.val = true ↔ ¬good)) ∧
      (n = 2 ∧ ¬good ∧ x.tg = false ∧ low = false → ∃ u, Does (.hbmTrainPhase ch x) s u ∧
        bitN (u.fld F.MEM_TRAIN_STAT_DEGR) (stackOf ch.val) = true ∧
        bitN (u.fld F.MEM_TRAIN_STAT_FALLBACK) (stackOf ch.val) = true ∧ smGet 0 u.mem.phases ch.val ≤ 2) ∧
      (n = 3 ∧ x.pass = true → Does (.hbmTrainPhase ch x) s (phaseDone ch.val 4 s)) ∧
      (n = 3 ∧ x.pass = false ∧ low = true →
        ∃ u, Does (.hbmTrainPhase ch x) s u ∧ bootFailed u = true ∧ u.fld F.DEV_BOOT_STAT_CODE = 5) ∧
      (n = 3 ∧ x.pass = false ∧ low = false → Does (.hbmTrainPhase ch x) s (stackFails ch.val s))) ∧
    (∀ m, smGet 0 (phaseDone ch.val m s).mem.phases ch.val = m) ∧
    (∀ m, trainUnits (s.modMem (fun y => { y with phases := smSet 0 ch.val m y.phases })) = 2560 →
      bootStep (phaseDone ch.val m s) = 5 ∧ ∀ a < hbmEnd, rd8 (phaseDone ch.val m s) a = 0))

/-- The ring is ACTIVE with a read of TAIL outstanding, or the write of its header failed and it is FAULTED with cause 2. -/
def GoesOn (s : State) (r : Nat) : Prop :=
  (s.ring r).st = rsActive ∧ (s.ring r).tailOut = true ∨ (s.ring r).st = rsFaulted ∧ (s.ring r).cause = 2

/-- The rows that dispatch a descriptor of ring r, but for the collectives, with their opcodes. -/
def descRows (r : RingId) (h : HostAns) : List (Nat × Instr) :=
  [(0x00, .nopDesc r), (0x01, .copyDesc r h), (0x02, .fillDesc r h), (0x08, .launchDesc r), (0x09, .taskqPush r h),
   (0x10, .eventRecord r), (0x11, .eventWait r), (0x18, .signalDesc r), (0x19, .waitLook r), (0x19, .waitTake r),
   (0x28, .hint r), (0x30, .timestamp r h), (0x38, .frost r)]

/-- Nudges, polls, reads of TAIL, fetches and FE_RING_CTL. A nudge by the function that owns an enabled IDLE ring takes it
out of IDLE, any other does nothing. A poll comes when the interval of FE_POLL_CTL has passed since the last, and
reads TAIL of an IDLE or ACTIVE ring, also while an earlier read is outstanding. A failed read of TAIL is cause 1. Of
an IDLE ring a TAIL that is HEAD changes nothing, another takes it out of IDLE. Of an ACTIVE ring, or a FAULTED one
that ARM waits for, a TAIL beyond N is cause 3 and another is kept. A descriptor that is fetched waits, with its
bytes, and no other ring changes. A failed fetch is cause 1. EN of FE_RING_CTL is set where R199 allows it, and then
the ring is IDLE, with HEAD 0, or FAULTED with cause 2 where its header cannot be written. It is cleared only while
the ring is OFF or IDLE. (R195, R196, R198, R199, R201, R202, R212, R213, 09_command_submission.md) -/
def Obligations.RingsFetch : Prop :=
  ∀ (s : State) (r : RingId), On s →
    let k := s.ring r.val
    let tail (h : HostAns) := fieldLe h.data 0 4
    let far (t : Nat) := ringN s r.val < (t + 2 ^ 32 - k.head) % 2 ^ 32
    (ready s = true → ∀ (fn : CtxId) (w : BitVec 32), w.toNat % 4096 = r.val →
      (s.flag F.FE_RING_CTL_EN r.val = true → ringCtx s r.val = fn.val → k.st = rsIdle →
        Does (.nudge fn w) s (leaveIdle r.val s) ∧ GoesOn (leaveIdle r.val s) r.val) ∧
      (s.flag F.FE_RING_CTL_EN r.val = false ∨ ringCtx s r.val ≠ fn.val ∨ k.st ≠ rsIdle → Does (.nudge fn w) s s)) ∧
    ((k.st = rsIdle ∨ k.st = rsActive) →
      ∃ u, Does (.ringPoll r) s u ∧ (u.ring r.val).tailOut = true ∧ (k.tailOut = true → (u.ring r.val).tailMore = k.tailMore + 1) ∧
        k.pollAt + s.fld F.FE_POLL_CTL_INTERVAL * 1000 ≤ u.now ∧ (u.ring r.val).pollAt = u.now ∧
        u.out = .hostRead (ringCtx s r.val) (ringHdr s r.val) 4 :: s.out ∧ u.mem = s.mem) ∧
    (k.st ≠ rsIdle → k.st ≠ rsActive → Does (.ringPoll r) s s) ∧
    (∀ h : HostAns,
      (k.tailOut = false → Does (.tailRead r h) s s) ∧
      (k.tailOut = true → h.denied = true ∨ h.poisoned = true →
        Does (.tailRead r h) s (ringFault r.val 1 0 k.fetched (ringHdr s r.val) 0 [] true s)) ∧
      (k.tailOut = true → h.denied = false → h.poisoned = false →
        (k.st = rsIdle → tail h = k.head → Does (.tailRead r h) s (s.modRing r.val tailCame)) ∧
        (k.st = rsIdle → tail h ≠ k.head → Does (.tailRead r h) s (leaveIdle r.val (s.modRing r.val tailCame)) ∧
          GoesOn (leaveIdle r.val (s.modRing r.val tailCame)) r.val) ∧
        (k.st = rsActive ∨ k.st = rsFaulted ∧ k.arming = true → far (tail h) →
          Does (.tailRead r h) s (ringFault r.val 3 0 k.fetched 0 0 [] true s)) ∧
        (k.st = rsActive ∨ k.st = rsFaulted ∧ k.arming = true → ¬far (tail h) →
          ∃ u, Does (.tailRead r h) s u ∧ (u.ring r.val).tail = tail h ∧ (u.ring r.val).descs.length = k.descs.length ∧
            ((u.ring r.val).st = rsActive ∨ (u.ring r.val).st = rsIdle ∧ tail h = k.head ∨
              (u.ring r.val).st = rsFaulted ∧ (u.ring r.val).cause = 2) ∧ u.mem = s.mem) ∧
        (k.st = rsOff ∨ k.st = rsAborting ∨ k.st = rsFaulted → k.arming = false →
          Does (.tailRead r h) s (s.modRing r.val tailCame)))) ∧
    (∀ h : HostAns,
      (k.st ≠ rsActive ∨ k.fetched = k.tail → Does (.descriptorFetch r h) s s) ∧
      (k.st = rsActive → k.fetched ≠ k.tail → h.denied = true ∨ h.poisoned = true →
        Does (.descriptorFetch r h) s
          (ringFault r.val 1 0 k.fetched (ringBase s r.val + 64 * (k.fetched % ringN s r.val)) 0 [] true s)) ∧
      (k.st = rsActive → k.fetched ≠ k.tail → h.denied = false → h.poisoned = false →
        ∃ u d, Does (.descriptorFetch r h) s u ∧ (u.ring r.val).descs = k.descs ++ [d] ∧ d.seq = k.fetched ∧
          d.bytes = slice h.data 0 64 ∧ d.phase = .fetched ∧ (u.ring r.val).fetched = (k.fetched + 1) % 2 ^ 32 ∧
          (∀ p, p ≠ r.val → u.ring p = s.ring p) ∧ u.mem = s.mem ∧ u.cores = s.cores ∧ u.regs = s.regs)) ∧
    (ready s = true → ∀ (v : BitVec 32) (ok : Bool),
      let x := if r.val = 0 then setBitsN v.toNat 0 6 0 else v.toNat
      let w := s.regWrite .FE_RING_CTL r.val (setBitsN x 13 1 0)
      let lg := w.fld F.FE_RING_CTL_LOG2N r.val
      let fits := bitN v.toNat 13 = true ∧ 4 ≤ lg ∧ lg ≤ 16 ∧ ringBase w r.val % 4096 = 0 ∧ ringCq w r.val % 4096 = 0 ∧
        ctxExists w (ringCtx w r.val) = true ∧ k.st = rsOff ∧ bitN (w.reg .DEV_ERR_CTX 0).toNat (ringCtx w r.val) = false
      (s.flag F.FE_RING_CTL_EN r.val = false →
        (fits → ∃ u, Does (.feRingCtl r v ok) s u ∧ u.flag F.FE_RING_CTL_EN r.val = true ∧
          ((u.ring r.val).st = if ok then rsIdle else rsFaulted) ∧ (ok = false → (u.ring r.val).cause = 2) ∧
          (u.ring r.val).head = 0 ∧ (u.ring r.val).tail = 0 ∧ (u.ring r.val).needNudge = true ∧ (u.ring r.val).descs = []) ∧
        (¬fits → Does (.feRingCtl r v ok) s w)) ∧
      (s.flag F.FE_RING_CTL_EN r.val = true →
        (bitN v.toNat 13 = false → k.st = rsOff ∨ k.st = rsIdle →
          ∃ u, Does (.feRingCtl r v ok) s u ∧ u.flag F.FE_RING_CTL_EN r.val = false ∧ (u.ring r.val).st = rsOff ∧ u.mem = s.mem) ∧
        (bitN v.toNat 13 = true ∨ k.st ≠ rsOff ∧ k.st ≠ rsIdle →
          ∃ u, Does (.feRingCtl r v ok) s u ∧ u.flag F.FE_RING_CTL_EN r.val = true ∧ u.fe = s.fe ∧ u.mem = s.mem ∧
            u.fld F.FE_RING_CTL_LOG2N r.val = s.fld F.FE_RING_CTL_LOG2N r.val)))

/-- What each descriptor does when it is dispatched. A row whose ring has nothing to dispatch, or a descriptor of another
opcode, does nothing, and a descriptor of bad form is REJECTED. For a well-formed one that may be dispatched - NOP
completes. COPY and FILL wait for a free engine, complete at once when LEN is 0, and else move their bytes. LAUNCH is
REJECTED or waits for its cores. TASKQ_PUSH is REJECTED, or reads its entry and takes SPACE. EVENT_RECORD counts its
event up by 1. EVENT_WAIT completes at once or holds its ring. SIGNAL adds to the word that its identifier names and
WAIT parks on it, and an identifier that names nothing is REJECTED. TIMESTAMP returns the timebase, HINT takes the
hint, and FROST begins a Frost on ring 0 and is REJECTED on another. A reserved opcode is REJECTED. (R203, R204, R205,
R206, R209, R160, R226, R227, R231, 09_command_submission.md) -/
def Obligations.DescriptorsAreDispatched : Prop :=
  (∀ (s : State) (r seq : Nat) (v : Word) (d : DescSt), (s.ring r).find seq = some d →
    IsDone (okDesc r seq v false s) r seq 0 v ∧ (okDesc r seq v false s).mem = s.mem) ∧
  (∀ (s : State) (r : RingId) (h : HostAns), On s →
    (nextDesc s r.val = none → ∀ p ∈ descRows r h, Does p.2 s s) ∧
    (∀ d, nextDesc s r.val = some d →
      (∀ p ∈ descRows r h, p.1 ≠ dOpcode d.bytes → (p.1 = 0 → (bodyBits (dOpcode d.bytes)).isSome = true) → Does p.2 s s) ∧
      (bodyBits (dOpcode d.bytes) = none → Does (.nopDesc r) s (rejectDesc r.val d.seq (startDesc r.val d.seq s))) ∧
      (formOk d.bytes = false → ∀ p ∈ descRows r h, p.1 = dOpcode d.bytes → (p.1 = 1 ∨ p.1 = 2 → freeEngine s ≠ none) →
        (p.1 = 0x19 → p.2 = if fieldLe d.bytes 12 1 % 2 = 1 then .waitTake r else .waitLook r) →
        Does p.2 s (rejectDesc r.val d.seq (startDesc r.val d.seq s))))) ∧
  (∀ (s : State) (r : RingId) (d : DescSt) (h : HostAns), On s → nextDesc s r.val = some d → formOk d.bytes = true →
    let t := startDesc r.val d.seq s
    let op := dOpcode d.bytes
    let ctx := ringCtx s r.val
    let reject := rejectDesc r.val d.seq t
    let sid := bitsN (fieldLe d.bytes 8 4) 0 20
    (op = 0 → Does (.nopDesc r) s (okDesc r.val d.seq 0 false t)) ∧
    (op = 1 ∨ op = 2 →
      let row : Instr := if op = 1 then .copyDesc r h else .fillDesc r h
      let sig := bitN (fieldLe d.bytes 36 4) 31 && !remoteSig d.bytes
      let id := bitsN (fieldLe d.bytes 36 4) 0 20
      (freeEngine s = none → Does row s s) ∧
      (∀ e, freeEngine s = some e →
        (copyOk d.bytes = false ∨ sig = true ∧ NoSid s ctx id → Does row s reject) ∧
        (copyOk d.bytes = true → ∀ g, SignalIs s ctx sig id (fieldLe d.bytes 40 8) g →
          ∃ m, Noted t m ∧ let x := modDesc r.val d.seq (fun y => { y with sig := g, engine := e }) m
          (fieldLe d.bytes 24 8 = 0 → remoteSig d.bytes = false → Does row s (okDesc r.val d.seq 0 true x)) ∧
          (fieldLe d.bytes 24 8 = 0 → remoteSig d.bytes = true → Does row s (sendFeSig
            { (feMove ctx r.val d.seq e d.bytes) with who := .fe (4096 + r.val) d.seq } d.bytes (okDesc r.val d.seq 0 true x))) ∧
          (fieldLe d.bytes 24 8 ≠ 0 → Effect row s (lateKills r.val d.seq (runFe r.val d.seq h 0) x))))) ∧
    (op = 8 →
      let mask := fieldLe d.bytes 8 24
      let entry := fieldLe d.bytes 32 8
      let pre := fieldLe d.bytes 48 4
      let takes := maskOwned s ctx mask = true ∧ pre ≤ 65536 ∧ entry < 2 ^ 48
      (¬takes → Does (.launchDesc r) s reject) ∧
      (takes → mask = 0 → Does (.launchDesc r) s (okDesc r.val d.seq 0 false t)) ∧
      (takes → mask ≠ 0 → Does (.launchDesc r) s (t.modFe (fun f => { f with launches := f.launches ++
        [⟨r.val, d.seq, ctx, mask, wN entry, wN (fieldLe d.bytes 40 8), pre, false, []⟩] })))) ∧
    (op = 9 →
      let q := fieldLe d.bytes 8 2
      let takes := s.flag F.FE_TQ_CTL_EN q = true ∧ tqCtx s q = ctx ∧ fieldLe d.bytes 24 1 ≤ 1 ∧ fieldLe d.bytes 16 8 % 64 = 0
      (¬takes → Does (.taskqPush r h) s reject) ∧
      (takes → Effect (.taskqPush r h) s (lateKills r.val d.seq (runTq r.val d.seq h)
        (modDesc r.val d.seq (fun x => { x with value := wN (smGet 0 s.fe.tqGen q) }) t)))) ∧
    (op = 0x10 → let n := eventKey ctx (fieldLe d.bytes 8 2)
      ∃ u, Does (.eventRecord r) s u ∧ smGet 0 u.fe.events n = smGet 0 s.fe.events n + 1 ∧
        (∀ m, m ≠ n → smGet 0 u.fe.events m = smGet 0 s.fe.events m) ∧ u.mem = s.mem) ∧
    (op = 0x11 → let v := smGet 0 s.fe.events (eventKey ctx (fieldLe d.bytes 8 2))
      (fieldLe d.bytes 16 8 ≤ v.toNat → Does (.eventWait r) s (okDesc r.val d.seq 0 false t)) ∧
      (v.toNat < fieldLe d.bytes 16 8 → Does (.eventWait r) s t)) ∧
    (op = 0x18 →
      (∀ a, NamesWord s ctx sid .signal a → ∃ m, Noted t m ∧ Does (.signalDesc r) s
        (lateKills r.val d.seq (fun x => okDesc r.val d.seq 0 false (signal ctx a (fieldLe d.bytes 16 8) x)) m)) ∧
      (NoSid s ctx sid → Does (.signalDesc r) s reject)) ∧
    (op = 0x19 →
      let take := fieldLe d.bytes 12 1 % 2 = 1
      let row : Instr := if take then .waitTake r else .waitLook r
      (∀ a, NamesWord s ctx sid .wait a → ∃ m, Noted t m ∧
        Does row s (parkWait ctx ⟨a, wN (fieldLe d.bytes 16 8), decide take, .ring r.val d.seq⟩ m)) ∧
      (NoSid s ctx sid → Does row s reject) ∧
      Does (if take then .waitLook r else .waitTake r) s s) ∧
    (op = 0x28 → Does (.hint r) s (okDesc r.val d.seq 0 false (takeHint d.bytes t))) ∧
    (op = 0x30 →
      let w := fieldLe d.bytes 16 1
      let takes := bitsN w 0 2 ≤ 1 ∧ fieldLe d.bytes 8 8 % 8 = 0
      let x := trace 0x12 (some ctx) r.val 0 d.seq (dTag d.bytes)
        (modDesc r.val d.seq (fun x => { x with value := wN s.timebase }) t)
      (¬takes → Does (.timestamp r h) s reject) ∧
      (takes → bitN w 4 = false → Does (.timestamp r h) s (okDesc r.val d.seq (wN s.timebase) false x)) ∧
      (takes → bitN w 4 = true → Effect (.timestamp r h) s (lateKills r.val d.seq (runStamp r.val d.seq h) x))) ∧
    (op = 0x38 → (r.val = 0 → Does (.frost r) s (enterLocal fsrcDESC (fieldLe d.bytes 8 1 % 2) (some (0, d.seq)) t)) ∧
      (r.val ≠ 0 → Does (.frost r) s reject)))

/-- Completion of COPY and FILL, records, ARM, ABORT and the watchdog of a ring. A running COPY or FILL with no answer
outstanding completes with its status, or sends its remote signal first. The oldest complete descriptor of an ACTIVE
ring gets its record, HEAD passes it and TAIL is read again. A record or HEAD that fails is cause 2. ARM of a FAULTED
ring writes the parked records and HEAD and reads TAIL, or the ring is FAULTED with cause 2. ABORT makes a ring
ABORTING with no descriptor left unstarted, and an ABORTING ring whose descriptors are all complete ends OFF. The
watchdog faults with cause 4, not before its limit. (R205, R206, R207, R208, R212, R213, R214, R215, R272,
09_command_submission.md) -/
def Obligations.RecordsAndRecovery : Prop :=
  ∀ (s : State) (r : RingId), On s →
    let k := s.ring r.val
    (∀ seq : BitVec 32,
      (k.find seq.toNat = none → Does (.feDmaComplete r seq) s s) ∧
      (∀ d : DescSt, k.find seq.toNat = some d →
        let ended := d.phase = .running ∧ d.outst = 0 ∧ (dOpcode d.bytes = 1 ∨ dOpcode d.bytes = 2)
        (¬ended → Does (.feDmaComplete r seq) s s) ∧
        (ended → d.status ≠ 0 → Does (.feDmaComplete r seq) s (finishDesc r.val seq.toNat d.status 0 false d.faddr s)) ∧
        (ended → d.status = 0 → remoteSig d.bytes = false ∨ d.value ≠ 0 →
          Does (.feDmaComplete r seq) s (finishDesc r.val seq.toNat (if d.poi then cPOISON else 0) 0 true d.faddr s)) ∧
        (ended → d.status = 0 → remoteSig d.bytes = true → d.value = 0 →
          Does (.feDmaComplete r seq) s (sendFeSig (feMove (ringCtx s r.val) r.val seq.toNat d.engine d.bytes) d.bytes
            (modDesc r.val seq.toNat (fun d => { d with outst := 1, value := 1 }) s))))) ∧
    (∀ recOk hdrOk,
      (k.st ≠ rsActive ∨ oldestDone k = none → Does (.completionRecordWrite r recOk hdrOk) s s) ∧
      (∀ (d : DescSt) (l : List DescSt), k.st = rsActive → k.descs = d :: l → d.phase = .done →
        (recOk = false → Does (.completionRecordWrite r recOk hdrOk) s
          (ringFault r.val 2 0 d.seq (recordAddr s r.val d.seq) 0 d.bytes true s)) ∧
        (recOk = true → ∃ u, Does (.completionRecordWrite r recOk hdrOk) s u ∧ (u.ring r.val).head = (d.seq + 1) % 2 ^ 32 ∧
          (u.ring r.val).descs.length = l.length ∧ u.mem = s.mem ∧
          Out.hostWrite (ringCtx s r.val) (recordAddr s r.val d.seq) (recordBytes s r.val d) false ∈ u.out ∧
          (hdrOk = true → (u.ring r.val).descs = l ∧ (u.ring r.val).st = rsActive ∧ (u.ring r.val).tailOut = true ∧
            Out.hostWrite (ringCtx s r.val) (ringHdr s r.val + 8) (natLe 4 ((d.seq + 1) % 2 ^ 32)) false ∈ u.out) ∧
          (hdrOk = false → (u.ring r.val).st = rsFaulted ∧ (u.ring r.val).cause = 2)))) ∧
    (ready s = true → ∀ oks,
      (k.st ≠ rsFaulted ∨ k.arming = true → Does (.arm r oks) s s) ∧
      (k.st = rsFaulted → k.arming = false →
        ∃ u, Does (.arm r oks) s u ∧ (u.ring r.val).st = rsFaulted ∧ u.mem = s.mem ∧
          ((u.ring r.val).arming = true ∧ (u.ring r.val).tailOut = true ∧ oldestDone (u.ring r.val) = none ∨
            (u.ring r.val).arming = false ∧ (u.ring r.val).cause = 2) ∧
          ((∀ b ∈ oks, b = true) → (u.ring r.val).arming = true))) ∧
    (ready s = true →
      (k.st = rsOff ∨ k.st = rsAborting → Does (.abort r) s s) ∧
      (k.st ≠ rsOff → k.st ≠ rsAborting →
        ∃ u, Does (.abort r) s u ∧ (u.ring r.val).st = rsAborting ∧ u.flag F.FE_RING_CMD_ABORT r.val = true ∧
          (∀ d ∈ (u.ring r.val).descs, d.phase ≠ .fetched) ∧ u.mem = s.mem)) ∧
    (∀ oks,
      (k.st ≠ rsAborting ∨ (∃ d ∈ k.descs, d.phase ≠ .done) → Does (.abortComplete r oks) s s) ∧
      (k.st = rsAborting → (∀ d ∈ k.descs, d.phase = .done) →
        ∃ u, Does (.abortComplete r oks) s u ∧ (u.ring r.val).st = rsOff ∧ (u.ring r.val).descs = [] ∧
          u.flag F.FE_RING_CTL_EN r.val = false ∧ u.flag F.FE_RING_CMD_ABORT r.val = false ∧ u.mem = s.mem)) ∧
    (let due := k.descs.find? (fun d => d.phase == .running);
      (due = none ∨ k.st ≠ rsActive ∨ s.fld F.FE_RING_CTL_WDOG r.val = 0 ∨ frozen s = true → Does (.watchdogExpiry r) s s) ∧
      (∀ d, due = some d → k.st = rsActive → s.fld F.FE_RING_CTL_WDOG r.val ≠ 0 → frozen s = false →
        ∃ u, Does (.watchdogExpiry r) s u ∧ (u.ring r.val).st = rsFaulted ∧ (u.ring r.val).cause = 4 ∧
          max d.started k.wdogFrom + 2 ^ s.fld F.FE_RING_CTL_WDOG r.val * 1000 ≤ u.now ∧
          (u.ring r.val).descs.length = k.descs.length))

/-- Functions, page answers, progress mirrors, the fault log and BAR4. A function that is reset has its IDLE rings
aborted, and one that does not exist changes nothing. VF_DISABLE resets the functions that go: from then on they are
no contexts, each of their rings is OFF or ABORTING, and VF Enable and NumVFs are as written once they are all OFF,
which is at once where no ring is in use (assumption 186). VF_ENABLE sets VF Enable and raises NumVFs, after functions
that are going, and never lowers NumVFs. The answer to the oldest page request of a context resumes what waited, which
under a denied page of a move gives XLATE, and a move that has failed makes no further access. A due progress write is
made or, if it fails, counted and stopped. EN of FE_FLT_CTL is set for 4 to 12, and for no other LOG2N is it left set
(assumption 178). BAR4 accesses are whole, discarded or unsupported where a byte is unbacked or not the host's, and
wait for memory that is held. (R192, R194, R197, R211, R216, R218, R358, R361, 09_command_submission.md) -/
def Obligations.FunctionsMirrorsAndBar4 : Prop :=
  ∀ s : State, On s →
    (∀ fn : CtxId,
      (ctxExists s fn.val = false → Does (.functionLevelReset fn) s s) ∧
      (ctxExists s fn.val = true → Does (.functionLevelReset fn) s (flr fn.val s) ∧
        ∀ r, s.flag F.FE_RING_CTL_EN r = true → r < 256 → ringCtx s r = fn.val → (s.ring r).st = rsIdle →
          ((flr fn.val s).ring r).st = rsAborting)) ∧
    Does .pcieHotReset s (flrAll s) ∧
    (∀ (en : Bool) (num : CtxId), ∃ u, Does (.vfDisable en num) s u ∧
      (∀ n, 0 < n → n < 64 → ctxExists s n = true → ¬(en = true ∧ n ≤ num.val) →
        ctxExists u n = false ∧ ∀ r, ringCtx s r = n → (u.ring r).st = rsOff ∨ (u.ring r).st = rsAborting) ∧
      ((∀ p ∈ s.fe.rings, p.2.st = rsOff) → u.fe.vfEnable = en ∧ u.fe.numVfs = num.val ∧ u.fe.vfGoing = none)) ∧
    (∀ (num : CtxId) (leave : List Nat) (en : Bool) (n : Nat), s.fe.vfGoing = some (leave, en, n) →
      (en = true ∧ num.val < n → Does (.vfEnable num) s s) ∧
      (¬(en = true ∧ num.val < n) →
        Does (.vfEnable num) s (s.modFe (fun f => { f with vfGoing := some (leave, true, num.val) })))) ∧
    (∀ num : CtxId, s.fe.vfGoing = none →
      (s.fe.vfEnable = true ∧ num.val < s.fe.numVfs → Does (.vfEnable num) s s) ∧
      (s.fe.vfEnable = false ∨ s.fe.numVfs ≤ num.val →
        ∃ u, Does (.vfEnable num) s u ∧ u.fe.vfEnable = true ∧ u.fe.numVfs = num.val ∧ u.mem = s.mem ∧ u.cores = s.cores ∧
          ∀ e ∈ u.fe.events, ctxExists s (e.1 / 1024) = true)) ∧
    (∀ (c : CtxId) (h : HostAns),
      ((∀ w ∈ s.fe.pri, w.ctx ≠ c.val) → Does (.priResponse c h) s s) ∧
      (∀ (w : PriWait) (l : List PriWait), s.fe.pri = w :: l → w.ctx = c.val →
        let t := s.modFe (fun f => { f with pri := l })
        let x := match (l.filter (fun x => x.ctx == c.val))[31]? with
          | some n => emit (.pageRequest c.val n.addr) t
          | none => t
        (mayResume s w = false → Does (.priResponse c h) s s) ∧
        (mayResume s w = true → Effect (.priResponse c h) s (resumePage w h x) ∧
          ∀ r seq pos d, w.who = .fe r seq pos → (s.ring r).find seq = some d → dOpcode d.bytes = 1 ∨ dOpcode d.bytes = 2 →
            (d.status ≠ 0 → Does (.priResponse c h) s (modDesc r seq (fun d => { d with outst := d.outst - 1 }) x)) ∧
            (d.status = 0 → h.denied = true → h.after = 0 → ∃ u, Does (.priResponse c h) s u ∧ u.mem = s.mem ∧
              ∃ e, (u.ring r).find seq = some e ∧ e.status = cXLATE ∧ e.faddr = w.addr ∧ e.outst = d.outst - 1)))) ∧
    (∀ (n : Fin 72) (ok : Bool),
      let due := smGet false s.fe.mirrorDue n.val = true ∧ smGet false s.fe.mirrorStop n.val = false ∧
        s.flag F.FE_PROG_MIRROR_EN n.val = true
      (¬due → Does (.progressMirrorWrite n ok) s s) ∧
      (due → ∃ u, Does (.progressMirrorWrite n ok) s u ∧ smGet false u.fe.mirrorDue n.val = false ∧ u.mem = s.mem ∧
        (ok = true → Out.hostWrite (if 8 ≤ n.val then n.val - 8 else 0) (s.fld F.FE_PROG_MIRROR_ADDR n.val * 32)
          (progBytes n.val (s.prog n.val)) false ∈ u.out) ∧
        (ok = false → smGet false u.fe.mirrorStop n.val = true))) ∧
    (ready s = true → ∀ v : BitVec 32,
      (bitN v.toNat 4 = true → ∃ u, Does (.feFltCtl v) s u ∧ u.flag F.FE_FLT_STAT_FAIL = false ∧ u.fe.fltStop = false ∧ u.mem = s.mem ∧
        (u.flag F.FE_FLT_CTL_EN = true ↔ 4 ≤ u.fld F.FE_FLT_CTL_LOG2N ∧ u.fld F.FE_FLT_CTL_LOG2N ≤ 12)) ∧
      (bitN v.toNat 4 = false → ∃ u, Does (.feFltCtl v) s u ∧ u.flag F.FE_FLT_CTL_EN = false ∧ u.mem = s.mem)) ∧
    (∀ (off : Fin 0x1000000000) (n : Fin 4097),
      let a := bar4Addr s off.val
      (ready s = false → Does (.bar4Read off n) s (emit (.completion false [] false) s)) ∧
      (ready s = true →
        (heldRange s a n.val = true → Does (.bar4Read off n) s (holdAcc (.bar4 a n.val) s)) ∧
        (heldRange s a n.val = false → allBytes (backed s) a n.val = false →
          Does (.bar4Read off n) s (emit (.completion false [] false) s)) ∧
        (heldRange s a n.val = false → (∀ i < n.val, region s (a + i) = .hbm) → poisoned s a n.val = false →
          ∃ u, Does (.bar4Read off n) s u ∧ u.mem = s.mem ∧ u.out.head? = some (.completion true (rdBytes s a n.val) false)))) ∧
    (∀ (off : Fin 0x1000000000) (data : List Byte),
      let a := bar4Addr s off.val
      (ready s = false → Does (.bar4Write off data) s s) ∧
      (ready s = true →
        ((∀ i < data.length, region s (a + i) = .hbm) →
          (heldRange s a data.length = true → Does (.bar4Write off data) s (holdAcc (.write 0 a data false) s)) ∧
          (heldRange s a data.length = false → Does (.bar4Write off data) s (store 0 a data false s) ∧
            (∀ (i : Nat) (h : i < data.length), rd8 (store 0 a data false s) (a + i) = data[i]) ∧
            ∀ b, (b < a ∨ a + data.length ≤ b) → rd8 (store 0 a data false s) b = rd8 s b)) ∧
        ((∃ i < data.length, region s (a + i) = .unbacked) → Does (.bar4Write off data) s s)))

/-- An arbitration takes what it grants and grants what it can. The take-waits visited in rank order leave the word's
value less the sum of the thresholds granted, none of the waits that stay parked could be granted by the value left,
and every wait is either granted or kept. (R229, R230, R227) -/
def Obligations.TakesAreSettled : Prop :=
  ∀ (l : List Wait) (v : Nat),
    let r := visitTakes l v
    r.1 + (r.2.1.map (fun w => w.thr.toNat)).sum = v ∧ (∀ w ∈ r.2.2, r.1 < w.thr.toNat) ∧
    (r.2.1 ++ r.2.2).Perm l

/-- Signals, clears, the tables of identifiers and sync regions. A signal of a backed word on which nobody waits adds to
it and leaves it at 2^64 - 1 above that, one of a poisoned word is a contained error and one of an unbacked word does
nothing. SYNC_ARBITRATION names no context - a saturation that it meets is charged to context 0 and a poisoned word to
none (the model's choice, assumption 38). Both rows wait while the word is held. SYNC_CLR with GO of a backed word
makes the word zero and takes its poison, and does nothing else. SYNC_CTX_LIM of a context that exists follows its
access codes, and the completion clears GO. A write of CORE_SYNC_CTL follows its access codes, but a clear while a
wait is parked in the region has no effect. (R192, R219, R222, R223, R226, R227, R229, R370) -/
def Obligations.SyncWords : Prop :=
  ∀ s : State, On s →
    (∀ (p : Fin 1048576) (add : Word), pwordAddr s p.val = none → Does (.syncArbitration p add) s s) ∧
    (∀ (p : Fin 1048576) (add : Word) (a : Nat), pwordAddr s p.val = some a →
      (heldRange s a 8 = true → exec (.syncArbitration p add) s = .next s) ∧
      (heldRange s a 8 = false → ∃ m, Noted s m ∧
        (poisonAt s a = true → Does (.syncArbitration p add) s (contained none 8 0 13 a p.val m)) ∧
        (poisonAt s a = false → Does (.syncArbitration p add) s (signal 0 a add.toNat m) ∧
          ((∀ w ∈ s.sync.waits, w.addr ≠ a) →
            rd64 (signal 0 a add.toNat m) a = wN (min ((rd64 s a).toNat + add.toNat) (2 ^ 64 - 1)))))) ∧
    (ready s = true → ∀ v : BitVec 32,
      (bitN v.toNat 31 = false ∨ pwordAddr s (bitsN v.toNat 0 20) = none → Does (.syncClr v) s s) ∧
      ∀ a, bitN v.toNat 31 = true → pwordAddr s (bitsN v.toNat 0 20) = some a →
        (heldRange s a 8 = true → exec (.syncClr v) s = .next s) ∧
        (heldRange s a 8 = false → ∃ m, Noted s m ∧ let u := signal 0 a 0 (putWord a 0 m)
          Does (.syncClr v) s u ∧ ((∀ w ∈ s.sync.waits, w.addr ≠ a) → rd64 u a = 0 ∧ poisonAt u a = false))) ∧
    (ready s = true → ∀ (x : CtxId) (v : BitVec 32),
      (ctxExists s x.val = true → Does (.syncCtxLim x v) s (s.regWrite .SYNC_CTX_LIM x.val v.toNat)) ∧
      (ctxExists s x.val = false → Does (.syncCtxLim x v) s s)) ∧
    (∀ x : CtxId, Does (.syncCtxInvalComplete x) s (s.setFld F.SYNC_CTX_LIM_GO x.val 0)) ∧
    (ready s = true → ∀ (c : CoreId) (v : BitVec 32),
      (bitN v.toNat 0 = false → s.flag F.CORE_SYNC_CTL_EN c.val = true → regionWaited s c.val = true →
        Does (.coreSyncCtl c v) s s) ∧
      (bitN v.toNat 0 = true ∨ s.flag F.CORE_SYNC_CTL_EN c.val = false ∨ regionWaited s c.val = false →
        Does (.coreSyncCtl c v) s (s.regWrite .CORE_SYNC_CTL c.val v.toNat)))

/-- Enabling and disabling barriers and re-alignment sets. A write that sets EN of a barrier takes effect where the
conditions of R232 hold - EN and a GEN of 0 with every counter zero - and otherwise EN stays 0. While EN is 1 a write
can only clear EN. The same holds of a re-alignment set under R236, whose status and base start at 0. (R232, R236) -/
def Obligations.BarriersAreEnabled : Prop :=
  ∀ s : State, On s → ready s = true →
    (∀ (i : Fin 256) (v : Word),
      (s.flag F.SYNC_BAR_CTL_EN i.val = true → bitN v.toNat 0 = true → Does (.syncBarCtl i v) s s) ∧
      (s.flag F.SYNC_BAR_CTL_EN i.val = true → bitN v.toNat 0 = false →
        Does (.syncBarCtl i v) s (s.setFld F.SYNC_BAR_CTL_EN i.val 0)) ∧
      (s.flag F.SYNC_BAR_CTL_EN i.val = false →
        let w := s.regWrite .SYNC_BAR_CTL i.val (setBitsN v.toNat 0 1 0)
        (bitN v.toNat 0 = true → barEnablable i.val w = true →
          ∃ u, Does (.syncBarCtl i v) s u ∧ u.flag F.SYNC_BAR_CTL_EN i.val = true ∧ u.bar i.val = { BarSt.reset with life := (s.bar i.val).life + 1 } ∧
            u.fld F.SYNC_BAR_STAT_GEN i.val = 0 ∧ u.mem = s.mem ∧ u.cores = s.cores) ∧
        (bitN v.toNat 0 = false ∨ barEnablable i.val w = false → Does (.syncBarCtl i v) s w))) ∧
    (∀ (i : Fin 64) (v : Word),
      (s.flag F.SYNC_RALN_CTL_EN i.val = true → bitN v.toNat 0 = true → Does (.syncRalnCtl i v) s s) ∧
      (s.flag F.SYNC_RALN_CTL_EN i.val = true → bitN v.toNat 0 = false →
        Does (.syncRalnCtl i v) s (s.setFld F.SYNC_RALN_CTL_EN i.val 0)) ∧
      (s.flag F.SYNC_RALN_CTL_EN i.val = false →
        let w := s.regWrite .SYNC_RALN_CTL i.val (setBitsN v.toNat 0 1 0)
        (bitN v.toNat 0 = true → ralnEnablable i.val w = true →
          Does (.syncRalnCtl i v) s (((w.setReg .SYNC_RALN_STAT i.val 0).setReg .SYNC_RALN_BASE i.val 0).setFld
            F.SYNC_RALN_CTL_EN i.val 1)) ∧
        (bitN v.toNat 0 = false ∨ ralnEnablable i.val w = false → Does (.syncRalnCtl i v) s w)))

/-- Arrivals, contributions and Thaw waves. At a barrier that is not enabled nothing happens. A member's signal of a is a
arrivals - its slot's count takes them modulo the slot's members, and each full count is one contribution due. A core
outside the mask sets ERR and is a contained error of the barrier's context. A contribution of a slot reaches its base
die, which passes one on when every slot of it with members has contributed, and one of a base die reaches the hub,
which takes its step once they all have. The wave of a Thaw that is due next begins at T0 + w W / 12 or later, its
slots are held no longer if the Thaw ends Frost, and it begins once. (R233, R235, R335, R378) -/
def Obligations.BarriersCount : Prop :=
  ∀ s : State, On s →
    (∀ (i : Fin 256), s.flag F.SYNC_BAR_CTL_EN i.val = false →
      (∀ c amt, Does (.barrierArrival i c amt) s s) ∧ (∀ d, Does (.slotContribution i d) s s) ∧
      ∀ b, Does (.baseContribution i b) s s) ∧
    (∀ (i : Fin 256) (c : CoreId) (amt : Word), s.flag F.SYNC_BAR_CTL_EN i.val = true →
      (barMember s i.val c.val = true →
        let d := c.val / 16
        let b := s.bar i.val
        let n := smGet 0 b.slot d + amt.toNat
        let k := barSize s i.val d
        Does (.barrierArrival i c amt) s (s.setBar i.val { b with
          slot := smSet 0 d (n % k) b.slot
          slotDue := smSet 0 d (smGet 0 b.slotDue d + n / k) b.slotDue })) ∧
      (barMember s i.val c.val = false →
        Does (.barrierArrival i c amt) s
          (contained (some (barCtx s i.val)) 8 0 12 0 i.val (s.setFld F.SYNC_BAR_STAT_ERR i.val 1)))) ∧
    (∀ (i : Fin 256) (d : Fin 12), s.flag F.SYNC_BAR_CTL_EN i.val = true →
      let b := s.bar i.val
      let base := d.val / 3
      (smGet 0 b.slotDue d.val = 0 → Does (.slotContribution i d) s s) ∧
      (0 < smGet 0 b.slotDue d.val → d.val ∈ baseSlots s i.val base →
        let full := ∀ j ∈ baseSlots s i.val base, j ≠ d.val → 0 < smGet 0 b.atBase j
        ∃ u, Does (.slotContribution i d) s u ∧ u.mem = s.mem ∧ u.regs = s.regs ∧
          smGet 0 (u.bar i.val).slotDue d.val = smGet 0 b.slotDue d.val - 1 ∧
          (¬full → smGet 0 (u.bar i.val).atBase d.val = smGet 0 b.atBase d.val + 1 ∧ (u.bar i.val).baseDue = b.baseDue) ∧
          (full → smGet 0 (u.bar i.val).atBase d.val = smGet 0 b.atBase d.val ∧
            smGet 0 (u.bar i.val).baseDue base = smGet 0 b.baseDue base + 1))) ∧
    (∀ (i : Fin 256) (b : Fin 4), s.flag F.SYNC_BAR_CTL_EN i.val = true →
      (smGet 0 (s.bar i.val).baseDue b.val = 0 → Does (.baseContribution i b) s s) ∧
      (0 < smGet 0 (s.bar i.val).baseDue b.val →
        Does (.baseContribution i b) s (hubStep i.val (s.setBar i.val { s.bar i.val with
          baseDue := smSet 0 b.val (smGet 0 (s.bar i.val).baseDue b.val - 1) (s.bar i.val).baseDue
          atHub := smSet 0 b.val (smGet 0 (s.bar i.val).atHub b.val + 1) (s.bar i.val).atHub })) ∧
        ((∃ d ∈ barBases s i.val, d ≠ b.val ∧ smGet 0 (s.bar i.val).atHub d = 0) →
          ∃ u, Does (.baseContribution i b) s u ∧
            smGet 0 (u.bar i.val).baseDue b.val = smGet 0 (s.bar i.val).baseDue b.val - 1 ∧
            smGet 0 (u.bar i.val).atHub b.val = smGet 0 (s.bar i.val).atHub b.val + 1 ∧ u.mem = s.mem))) ∧
    (∀ w : Fin 12,
      (nextThaw w.val s.frost.thawing = none ∨ frozen s = true → Does (.thawWave w) s s) ∧
      (∀ t, nextThaw w.val s.frost.thawing = some t → frozen s = false →
        ∃ u, Does (.thawWave w) s u ∧ t.t0 + w.val * t.w * 1000 / 12 ≤ u.now ∧
          (∀ x ∈ u.frost.thawing, x.id = t.id → waveSlots x w.val = []) ∧
          (t.restart = true → ∀ i ∈ waveSlots t w.val, bitN u.frost.held i = false)))

/-- The rows that take a received flit: which flit each takes, and what it does with it once its returns are taken. -/
def flitRows (p : PortId) : List (Instr × (List Byte → Bool) × (List Byte → State → State)) := [
  (.idleFlit p, (fun f => fKind f == 0), fun _ s => s),
  (.data p, (fun f => fKind f == 1), seqFlit p.val (takeData p.val)),
  (.dataEnd p, (fun f => fKind f == 2), seqFlit p.val (takeData p.val)),
  (.param p, (fun f => fKind f == 3 && fSub f == 1), seqFlit p.val (fun b s => takeParam p.val (fBody b) s)),
  (.linkdown p, (fun f => fKind f == 3 && fSub f == 2), fun _ s => linkLost p.val (some F.LNK_EVT_PEERDN) s),
  (.auth p, (fun f => fKind f == 3 && fSub f == 4), seqFlit p.val (takeAuth p.val))]

/-- A port whose state is PARAM or ACTIVE carries flits. -/
def Carries (s : State) (p : Nat) : Prop := portState s p = psPARAM ∨ portState s p = psACTIVE

/-- The row i takes the flit that was received first on port p if it is one of those told by mine, and else does nothing. It takes the
flit's returns, and then, if the port carries flits, as it does where the flit asks for no replay, does g with the flit. -/
def TakesFlit (s : State) (p : PortId) (i : Instr) (mine : List Byte → Bool) (g : List Byte → State → State) : Prop :=
  ((s.port p.val).rx = [] → Does i s s) ∧
  ∀ f l, (s.port p.val).rx = f :: l →
    (mine f = false → Does i s s) ∧
    (mine f = true →
      let t := takeReturns p.val f (s.modPort p.val (fun k => { k with rx := l }))
      let done := rxDone p.val (checkActive p.val (g f t))
      (fNak f = false → Carries s p.val → Does i s done) ∧ (Carries t p.val → Does i s done) ∧ (¬Carries t p.val → Does i s t))

/-- A port is enabled, trains, chooses its lanes, retrains and goes down as the states of Table 11.7 allow. Enabling a
port puts it in TRAIN, disabling it leaves it DISABLED and a write that does not change EN changes only the register.
TRAIN is followed by LANEMAP, whose eight good lanes in order give width 8 at BLOCKLOCK. Lanes chosen are all good,
and at least as many as MINW asks. A limit of R252 that passes is FAILED with TRFAIL set. Loss of an active lane takes
an ACTIVE port out of ACTIVE with DOWN set, and is FAILED during bring-up. RETRAIN of an enabled port leaves it in
TRAIN, and of another does nothing (the model's choice, assumption 183). AUTO trains a FAILED port again after 1 s. In
other states these rows do nothing. (R240, R241, R252, R253, R398, 11_link_ports.md) -/
def Obligations.LinksComeUp : Prop :=
  (∀ (s : State) (p : PortId), On s →
    let st := portState s p.val
    (ready s = true → ∀ v : BitVec 32,
      let w := s.regWrite .LNK_CTL p.val (setBitsN v.toNat 6 1 0)
      (s.flag F.LNK_CTL_EN p.val = false → w.flag F.LNK_CTL_EN p.val = true →
        ∃ u, Does (.lnkCtlEn p v) s u ∧ portState u p.val = psTRAIN ∧ u.mem = s.mem ∧
          u.fld F.SEC_LNK_CTL_ACTIVE p.val = u.fld F.SEC_LNK_CTL_EN p.val) ∧
      (s.flag F.LNK_CTL_EN p.val = true → w.flag F.LNK_CTL_EN p.val = false →
        ∃ u, Does (.lnkCtlEn p v) s u ∧ portState u p.val = psDISABLED ∧ (st = psACTIVE → u.flag F.LNK_EVT_DOWN p.val = true)) ∧
      (s.flag F.LNK_CTL_EN p.val = w.flag F.LNK_CTL_EN p.val → Does (.lnkCtlEn p v) s w)) ∧
    (st = psTRAIN → Does (.train p) s (setPortState p.val psLANEMAP s)) ∧
    (st ≠ psTRAIN → Does (.train p) s s) ∧
    (∀ (nums : List (Fin 8)) (good pol : BitVec 8),
      let u := laneMap p.val (nums.map (·.val)) good.toNat pol.toNat s
      (st ≠ psLANEMAP → Does (.lanemap p nums good pol) s s) ∧
      (st = psLANEMAP → Does (.lanemap p nums good pol) s u) ∧
      ((∀ l < 8, bitN (otpBody s 4 (4 + p.val)) l = false ∧ nums[l]? = some (Fin.ofNat 8 l)) → good = 0xFF →
        bitsN (s.port p.val).trainCtl 4 2 ≤ 2 →
        portState u p.val = psBLOCKLOCK ∧ u.fld F.LNK_STAT_WIDTH p.val = 3 ∧ u.fld F.LNK_STAT_LANES p.val = 0xFF ∧
          u.fld F.LNK_STAT_REV p.val = 0)) ∧
    (∀ l : Fin 8, (bitN (s.fld F.LNK_STAT_LANES p.val) l.val = false → Does (.lossOfSignal p l) s s) ∧
      (bitN (s.fld F.LNK_STAT_LANES p.val) l.val = true →
        (st = psACTIVE → ∃ u, Does (.lossOfSignal p l) s u ∧ portState u p.val ≠ psACTIVE ∧ u.flag F.LNK_EVT_DOWN p.val = true) ∧
        (psTRAIN ≤ st → st ≤ psPARAM →
          ∃ u, Does (.lossOfSignal p l) s u ∧ portState u p.val = psFAILED ∧ u.flag F.LNK_EVT_TRFAIL p.val = true))) ∧
    (ready s = true → (s.flag F.LNK_CTL_EN p.val = false → Does (.retrain p) s s) ∧
      (s.flag F.LNK_CTL_EN p.val = true →
        ∃ u, Does (.retrain p) s u ∧ portState u p.val = psTRAIN ∧ u.mem = s.mem ∧
          (st = psACTIVE → u.flag F.LNK_EVT_DOWN p.val = true))) ∧
    (psTRAIN ≤ st → st ≤ psPARAM →
      ∃ u, Does (.trainingTimeout p) s u ∧ portState u p.val = psFAILED ∧ u.flag F.LNK_EVT_TRFAIL p.val = true ∧
        (st = psTRAIN → min ((s.port p.val).trainAt + 500000000) ((s.port p.val).bringAt + 2000000000) ≤ u.now) ∧
        (st ≠ psTRAIN → (s.port p.val).bringAt + 2000000000 ≤ u.now)) ∧
    (st < psTRAIN ∨ psPARAM < st → Does (.trainingTimeout p) s s) ∧
    (let waits := st = psFAILED ∧ s.flag F.LNK_CTL_AUTO p.val = true ∧ s.flag F.LNK_CTL_EN p.val = true;
      (waits → ∃ u, Does (.autoRetry p) s u ∧ portState u p.val = psTRAIN ∧ (s.port p.val).failAt + 1000000000 ≤ u.now) ∧
      (¬waits → Does (.autoRetry p) s s))) ∧
  (∀ (good minw w m : Nat), chooseLanes good minw = some (w, m) →
    minw + 1 ≤ w ∧ good &&& m = m ∧ (w = 3 ∧ m = 0xFF ∨ w = 2 ∧ m ∈ [0x0F, 0xF0] ∨ w = 1 ∧ m ∈ [0x03, 0x0C, 0x30, 0xC0]))

/-- Blocks, flits, acceptance in order and replay. A block at a port that is not locked does nothing. At BLOCKLOCK its
header counts, and the sixteenth good one in a row is PARAM; a block that cannot be corrected ends the row. In PARAM
and ACTIVE a good block adds its five flits to what the port has received unless its header takes the link down, and
an uncorrectable one asks for a replay. Each flit row takes the flit at the head, takes its returns and acts on it.
Only the flit with the expected FSEQ is accepted, and any other leaves ingress as it is. A timeout replays from the
oldest flit and keeps the replay buffer, below the limit. (R243, R244, R246, R250, R251, R252, R400) -/
def Obligations.LinksCarryFlits : Prop :=
  (∀ (s : State) (p : PortId), On s → ∀ (a b : Codeword) (hdr : BitVec 40) (fl : List (List Byte)),
    let w := countCodeword p.val b (countCodeword p.val a s)
    let good := a ≠ .uncorrectable ∧ b ≠ .uncorrectable
    let x := takeHeader p.val (headerOk s p.val hdr.toNat) w
    let st := portState s p.val
    (st < psBLOCKLOCK ∨ psACTIVE < st → Does (.blockReceive p a b hdr fl) s s) ∧
    (st = psBLOCKLOCK →
      (good → Does (.blockReceive p a b hdr fl) s x ∧
        (headerOk s p.val hdr.toNat = true → 15 ≤ (s.port p.val).goodHdr → portState x p.val = psPARAM)) ∧
      (¬good → Does (.blockReceive p a b hdr fl) s (w.modPort p.val (fun k => { k with goodHdr := 0 })))) ∧
    (Carries s p.val →
      (good → headerOk s p.val hdr.toNat = true ∨ (s.port p.val).badHdr < 3 →
        Does (.blockReceive p a b hdr fl) s
          (rxDone p.val (x.modPort p.val (fun k => { k with rx := k.rx ++ (fl.take 5).map (padTo 256) })))) ∧
      (good → headerOk s p.val hdr.toNat = false → 3 ≤ (s.port p.val).badHdr →
        ∃ u, Does (.blockReceive p a b hdr fl) s u ∧ ¬Carries u p.val ∧ u.flag F.LNK_EVT_BLKLOSS p.val = true) ∧
      (¬good → Does (.blockReceive p a b hdr fl) s (askReplay p.val w) ∧
        ((s.port p.val).nakHeld = false → ((askReplay p.val w).port p.val).nak = true)))) ∧
  (∀ (s : State) (p : PortId), On s → ∀ e ∈ flitRows p, TakesFlit s p e.1 e.2.1 e.2.2) ∧
  (∀ (s : State) (p : Nat) (f : List Byte), p < 16 → encOn s p = false →
    let u := seqFlit p (takeData p) f s
    (fSeq f = (s.port p).rxSeq → (u.port p).rxSeq = ((s.port p).rxSeq + 1) % 65536 ∧ u.mem = s.mem ∧
      ∃ i ∈ (u.port p).ingress, i.vc = fVc f ∧ fBody f ∈ i.flits) ∧
    (fSeq f ≠ (s.port p).rxSeq → (u.port p).ingress = (s.port p).ingress ∧ u.mem = s.mem ∧
      ((s.port p).nakHeld = false → (u.port p).nak = true))) ∧
  (∀ (s : State) (p : PortId), On s →
    (¬Carries s p.val ∨ (s.port p.val).replay = [] → Does (.replayTimeout p) s s) ∧
    (Carries s p.val → (s.port p.val).replay ≠ [] →
      Does (.replayTimeout p) s (startReplay p.val (passTo (replayDue s p.val) s)) ∧
      ((s.port p.val).replays + 1 < s.fld F.LNK_RETRY_CTL_LIMIT p.val → 1 < s.fld F.LNK_RETRY_CTL_LIMIT p.val →
        ((startReplay p.val s).port p.val).replay = (s.port p.val).replay ∧
        portState (startReplay p.val s) p.val = portState s p.val)))

/-- The first request or forwarded packet of an opcode that waits to be served is i, its header is h and it comes from the node src; a
record is free for its flow, and t is the state once that record is touched (R271). -/
def Serves (s : State) (opc : Nat) (i : InPkt) (h : Hdr) (src : Nat) (t : State) : Prop :=
  firstPkt opc s = some i ∧ h = Hdr.of i.bytes ∧ recsFull s (recKey src h.flow) = false ∧
  t = touchRec (recKey src h.flow) (noise s)

/-- A packet of this device with n bytes of payload, of class vc, for the node dst on a flow finds room in egress, or goes to none. -/
def RoomFor (s : State) (vc dst flow n : Nat) : Prop :=
  ∀ p, nextHop s vc dst (nodeId s) flow = .out p → flitCount n ≤ egressRoom s p vc

/-- The n bytes at va of context ctx lie in one 64-byte line of the device's memory at a, may be accessed so, are not held and lie in no
scratchpad of a core in reset. -/
def LineAt (s : State) (ctx va n : Nat) (acs : Acs) (a : Nat) : Prop :=
  inWindow va = false ∧ va < 2 ^ 48 ∧ 0 < n ∧ va % 64 + n ≤ 64 ∧ (∃ left, xlate s ctx va acs = .ok a left ∧ n ≤ left) ∧
  physCheck s a n (acs == .w || acs == .rw) = .ok ∧ heldRange s a n = false ∧
  ∀ c o, region s a = .pad c o → (s.core c).inReset = false

/-- A step of a ring or line in a direction. -/
def hopTo (n dir x : Nat) : Nat := if dir = 1 then (x + 1) % n else (x + n - 1) % n

def hops (n dir : Nat) : Nat → Nat → Nat
  | 0, x => x
  | k + 1, x => hops n dir k (hopTo n dir x)

/-- What a target does with each request, at most once. A row with no packet of its opcode does nothing. PUT, ATOMIC,
SIGNAL and FWD_DATA already applied are answered again and write nothing. New ones in a domain of this device act on
the bytes of one line or on the word they name, are recorded as applied and are answered. GET and GETF read and send.
With no record free a request is answered BUSY, one of an unknown domain NOCTX and one that is too long MALFORMED, and
a new SIGNAL of an unknown identifier XLATE. A request whose answer finds no room in egress waits in ingress. (R265,
R271, R273, R274, R181, R225, 12_fabric_routing_and_transport.md) -/
def Obligations.RequestsAreServed : Prop :=
  ∀ (s : State) (host : HostAns), On s →
    (firstPkt 1 s = none → Does (.put host) s s) ∧ (firstPkt 2 s = none → Does (.get host) s s) ∧
    (firstPkt 3 s = none → Does .atomic s s) ∧ (firstPkt 4 s = none → Does .signalRequest s s) ∧
    (firstPkt 5 s = none → Does (.getf host) s s) ∧ (firstPkt 0x18 s = none → Does (.fwdData host) s s) ∧
    (∀ opc row, (opc, row) ∈ [(1, Instr.put host), (2, .get host), (3, .atomic), (4, .signalRequest), (5, .getf host)] →
      (∀ i, firstPkt opc s = some i → RoomFor s 1 (Hdr.of i.bytes).src (Hdr.of i.bytes).flow 0 →
        recsFull s (recKey (Hdr.of i.bytes).src (Hdr.of i.bytes).flow) = true →
        Does row s (leaveInbox i (ackReq (Hdr.of i.bytes) stBUSY 0 (noise s)))) ∧
      ∀ i h t, Serves s opc i h h.src t →
        (∀ st old, opc ≠ 2 → opc ≠ 5 → applied t (recKey h.src h.flow) h.seq = some (st, old) →
          (RoomFor s 1 h.src h.flow 0 → Does row s (leaveInbox i (ackReq h st old t)) ∧ (leaveInbox i (ackReq h st old t)).mem = s.mem) ∧
          (¬RoomFor s 1 h.src h.flow 0 → exec row s = .next s)) ∧
        (opc = 2 ∨ opc = 5 ∨ applied t (recKey h.src h.flow) h.seq = none → RoomFor s 1 h.src h.flow 0 →
          (4096 < h.len → Does row s (leaveInbox i (ackReq h stMALFORMED 0 t))) ∧
          (h.len ≤ 4096 → (opc = 2 ∨ opc = 5 → 0 < bitsN h.arg1 0 13 ∧ bitsN h.arg1 0 13 ≤ 4096) →
            (opc = 3 → ∃ n, aopBytes (bitsN h.arg2 0 8) = some n ∧ h.addr % n = 0) → domCtx s h.dom = none →
            Does row s (leaveInbox i (ackReq h stNOCTX 0 t))))) ∧
    (∀ i h t, Serves s 1 i h h.src t → RoomFor s 1 h.src h.flow 0 → h.len ≤ 4096 →
      let key := recKey h.src h.flow
      let poi := bitN h.flags 0
      let st := if poi then stPOISON else 0
      applied t key h.seq = none → ∀ ctx a, domCtx s h.dom = some ctx → LineAt s ctx h.addr h.len .w a →
        (bitN h.flags 1 = false → ∃ m, Noted t m ∧ Does (.put host) s (leaveInbox i (ackReq h st 0 (markApplied key h.seq st 0
          (store ctx a (payloadOf i.bytes) poi m))))) ∧
        (∀ w, bitN h.flags 1 = true → NamesWord s ctx h.sig .remote w →
          ∃ m, Noted t m ∧ Does (.put host) s (leaveInbox i (ackReq h st 0 (markApplied key h.seq st 0
            (signal ctx w h.arg1 (store ctx a (payloadOf i.bytes) poi m)))))) ∧
        (bitN h.flags 1 = true → NoSid s ctx h.sig →
          ∃ m, Noted t m ∧ Does (.put host) s (leaveInbox i (ackReq h stXLATE 0 m)))) ∧
    (∀ i h t, Serves s 2 i h h.src t → h.len ≤ 4096 →
      let n := bitsN h.arg1 0 13
      ∀ ctx a, domCtx s h.dom = some ctx → LineAt s ctx h.addr n .r a → poisoned s a n = false → RoomFor s 1 h.src h.flow n →
        ∃ m, Noted t m ∧ Does (.get host) s (leaveInbox i (respond h 0x11 0 h.src 0 (h.arg0 % 2 ^ 48) 0 false (rdBytes s a n) m))) ∧
    (∀ i h t, Serves s 3 i h h.src t → h.len ≤ 4096 → RoomFor s 1 h.src h.flow 0 →
      let key := recKey h.src h.flow
      let op := bitsN h.arg2 0 8
      applied t key h.seq = none → ∀ n ctx a, aopBytes op = some n → h.addr % n = 0 → domCtx s h.dom = some ctx →
        LineAt s ctx h.addr n .rw a → poisoned s a n = false →
        ∃ m, Noted t m ∧ let r := atomicAt ctx a op h.arg0 h.arg1 m
        Does .atomic s (leaveInbox i (ackReq h 0 r.1 (markApplied key h.seq 0 r.1 r.2)))) ∧
    (∀ i h t, Serves s 4 i h h.src t → h.len ≤ 4096 → RoomFor s 1 h.src h.flow 0 →
      let key := recKey h.src h.flow
      applied t key h.seq = none → ∀ ctx, domCtx s h.dom = some ctx →
        (∀ a, NamesWord s ctx h.sig .remote a → ∃ m, Noted t m ∧
          Does .signalRequest s (leaveInbox i (ackReq h 0 0 (markApplied key h.seq 0 0 (signal ctx a h.arg1 m))))) ∧
        (NoSid s ctx h.sig → Does .signalRequest s (leaveInbox i (ackReq h stXLATE 0 t)))) ∧
    (∀ i h t, Serves s 5 i h h.src t → h.len ≤ 4096 →
      let n := bitsN h.arg1 0 13
      ∀ ctx a, domCtx s h.dom = some ctx → LineAt s ctx h.addr n .r a → poisoned s a n = false →
        RoomFor s 2 (bitsN h.arg0 48 16) h.flow n →
        ∃ m, Noted t m ∧ Does (.getf host) s (leaveInbox i (inject (mkPacket { Hdr.zero with
          opc := 0x18, dst := bitsN h.arg0 48 16, src := nodeId s, dom := h.dom, flow := h.flow, seq := h.seq, sig := h.sig,
          orig := h.src, addr := bitsN h.arg0 0 48, stamp := s.timebase } (rdBytes s a n)) m))) ∧
    (∀ i h t, Serves s 0x18 i h h.orig t → RoomFor s 1 h.orig h.flow 0 →
      let key := recKey h.orig h.flow
      let poi := bitN h.flags 0
      let st := if poi then stPOISON else 0
      let answer (st : Nat) (x : State) := leaveInbox i (respond h 0x10 st h.orig h.orig 0 0 false [] x)
      (∀ st old, applied t key h.seq = some (st, old) → Does (.fwdData host) s (answer st t)) ∧
      (applied t key h.seq = none →
        (4096 < h.len → Does (.fwdData host) s (answer stMALFORMED t)) ∧
        (h.len ≤ 4096 → domCtx s h.dom = none → Does (.fwdData host) s (answer stNOCTX t)) ∧
        (h.len ≤ 4096 → ∀ ctx a, domCtx s h.dom = some ctx → LineAt s ctx h.addr h.len .w a →
          ∃ m, Noted t m ∧ Does (.fwdData host) s (answer st (markApplied key h.seq st 0 (store ctx a (payloadOf i.bytes) poi m))))))

/-- Responses, retransmission, flow records, QUIET, domains and MGMT packets. A response that matches no request changes
nothing else, a BUSY one leaves its request outstanding, and another ends its request, its data lands where it was
reserved if its owner stands and the map in force admits it, and its owner goes on. A request that waits TMO is sent
again with RETX and counted, or fails when its retries are spent, but not under HOLD. A flow record ends after its
lifetime. A domain is enabled for one context that exists. A MGMT packet is handed over, or dropped and counted.
(R265, R269, R270, R271, R273, R275, 12_fabric_routing_and_transport.md) -/
def Obligations.ResponsesAndFlows : Prop :=
  (∀ s : State, On s →
    (firstPkt 0x10 s = none → Does .ack s s) ∧ (firstPkt 0x11 s = none → Does .getData s s) ∧
    (firstPkt 0x12 s = none → Does .atomicRsp s s) ∧
    ∀ (opc : Nat) (row : Instr) (i : InPkt), (opc, row) ∈ [(0x10, Instr.ack), (0x11, .getData), (0x12, .atomicRsp)] →
      firstPkt opc s = some i →
      let b := i.bytes
      let h := Hdr.of b
      let t := leaveInbox i (noise s)
      (findReq s h = none → Does row s t) ∧
      (∀ r, findReq s h = some r →
        let e := endReq r t
        let land (x : State) := if opc = 0x11 then writePieces r.ctx (retPieces r) (payloadOf b) (h.status == stPOISON || bitN h.flags 0) x
          else if opc = 0x12 then writePieces r.ctx (retPieces r) (natLe 8 h.arg0) false x else x
        let lands := (h.status = 0 ∨ h.status = stPOISON) ∧ ownerLives s r.who = true
        let u := if lands then (if landOk s r = true then reqEnded r.who h.status (payloadOf b) (land e) else reqEnded r.who stLOCAL [] e)
          else reqEnded r.who h.status (payloadOf b) e
        (h.status = stBUSY → Does row s (t.modFab (fun f => { f with outst := f.outst.map (fun x =>
          if x.flow == r.flow && x.seq == r.seq then { x with busy := true } else x) }))) ∧
        (h.status ≠ stBUSY → (landNeeds r s).stall = false →
          Effect row s u ∧ ((∀ g op tag, r.who ≠ .col g op tag) → Does row s u)))) ∧
  (∀ (s : State) (flow : Fin 65536) (seq : BitVec 32), On s →
    let out := s.fab.outst.find? (fun r => r.flow == flow.val && r.seq == seq.toNat)
    (out = none ∨ s.flag F.FAB_CTL_HOLD = true → Does (.retransmitTimeout flow seq) s s) ∧
    (∀ r, out = some r → s.flag F.FAB_CTL_HOLD = false →
      let w := passTo (r.sentAt + s.fld F.FAB_TP_CTL_TMO * 1000) s
      (r.busy = false → s.fld F.FAB_TP_CTL_RETRY < r.sends →
        Does (.retransmitTimeout flow seq) s (reqEnded r.who stTIMEOUT [] (endReq r w))) ∧
      (r.busy = true ∨ r.sends ≤ s.fld F.FAB_TP_CTL_RETRY →
        ∃ u x, Does (.retransmitTimeout flow seq) s u ∧ x ∈ u.fab.outst ∧ x.flow = r.flow ∧ x.seq = r.seq ∧ x.busy = false ∧
          x.sends = (if r.busy then r.sends else r.sends + 1) ∧ r.sentAt + s.fld F.FAB_TP_CTL_TMO * 1000 ≤ u.now ∧
          u.mem = s.mem))) ∧
  (∀ s : State, On s →
    (∀ (src flow : Fin 65536),
      (findRec s (recKey src.val flow.val) = none → Does (.flowRecordExpiry src flow) s s) ∧
      (∀ k : FlowRec, findRec s (recKey src.val flow.val) = some k →
        ∃ u, Does (.flowRecordExpiry src flow) s u ∧ findRec u (recKey src.val flow.val) = none ∧
          k.last + s.fld F.FAB_TP_CTL_TMO * 1000 * (s.fld F.FAB_TP_CTL_RETRY + 2) ≤ u.now ∧
          (∀ x, x ≠ recKey src.val flow.val → findRec u x = findRec s x))) ∧
    (ready s = false → Does .fabCtlRead s (emit (.completion true (natLe 4 0) false) s)) ∧
    (ready s = true → ∃ u, Does .fabCtlRead s u ∧ u.mem = s.mem ∧ u.out.head? = some (.completion true
      (natLe 4 (s.fld F.FAB_CTL_HOLD + if s.fab.noisy = false ∧ quietNow s = true then 2 else 0)) false)) ∧
    (ready s = true → ∀ (ctx : CtxId) (v : BitVec 32),
      let x := if s.flag F.FAB_CTX_DOM_EN ctx.val then setBitsN v.toNat 0 16 (s.fld F.FAB_CTX_DOM_DOM ctx.val) else v.toNat
      let w := s.regWrite .FAB_CTX_DOM ctx.val x
      let taken := ∃ n < 64, n ≠ ctx.val ∧ w.flag F.FAB_CTX_DOM_EN n = true ∧
        w.fld F.FAB_CTX_DOM_DOM n = w.fld F.FAB_CTX_DOM_DOM ctx.val
      (ctxExists s ctx.val = false → Does (.fabCtxDom ctx v) s s) ∧
      (ctxExists s ctx.val = true → taken → Does (.fabCtxDom ctx v) s (w.setFld F.FAB_CTX_DOM_EN ctx.val 0)) ∧
      (ctxExists s ctx.val = true → ¬taken → Does (.fabCtxDom ctx v) s w)) ∧
    (∀ room, firstPkt 0x30 s = none → Does (.mgmtPacket room) s s) ∧
    (∀ i, firstPkt 0x30 s = some i → Does (.mgmtPacket false) s ((leaveInbox i s).incSat F.FAB_DROP_CNT_MGMT) ∧
      Does (.mgmtPacket true) s (emit (.note 1 [(Hdr.of i.bytes).src, (Hdr.of i.bytes).len]) (leaveInbox i s))))

/-- The routing of packets in ingress, and the escape of heads that cannot advance. The oldest packet of a VC goes on with
the packet it is forwarded into, or by its next hop. For this node it waits for its end and is then delivered, or
dropped as PCRC. Else it is dropped as HOPS, NOROUTE or DOWN, or waits for room, or moves its flits with one hop less.
One of a reserved opcode is dropped as PCRC. The head of a normal VC that cannot advance moves to its escape VC, from
egress, ingress or a bridge, the first of them that can move, not before TMO. (R257, R260, R262, R263, R264, R267,
R277, 12_fabric_routing_and_transport.md) -/
def Obligations.PacketsAreRouted : Prop :=
  ∀ (s : State) (p : PortId), On s →
    (∀ vc : Fin 9,
      let n := if vc.val = 8 then s else noise s
      let row : Instr := .packetRoute p vc
      ((s.port p.val).ingress.find? (fun i => i.vc == vc.val) = none → Does row s s) ∧
      (∀ i : IPkt, (s.port p.val).ingress.find? (fun i => i.vc == vc.val) = some i →
        let h := Hdr.of (pktHeader i.flits)
        let b := (i.flits.flatten).take (64 + h.len)
        let hop := nextHop s i.evc h.dst h.src h.flow
        let good := i.count = flitCount h.len ∧ pcrcOk b = true
        let drop (f : Fld) := (dropIngress p.val i n).incSat f
        (∀ id q, i.out = some (id, q) → Does row s (moveFlits p.val i id q false n)) ∧
        (i.out = none → opcClass h.opc = none → Does row s (drop F.FAB_DROP_CNT_PCRC)) ∧
        (i.out = none → opcClass h.opc ≠ none →
          (hop = .deliver → i.whole = false → Does row s n) ∧
          (hop = .deliver → i.whole = true → good →
            ∃ u, Does row s u ∧ u.mem = s.mem ∧ (u.port p.val).ingress = (s.port p.val).ingress.erase i ∧
              u.fab.inbox = s.fab.inbox ++ [⟨if i.old then none else some (p.val, vc.val), i.flits.length, b⟩]) ∧
          (hop = .deliver → i.whole = true → ¬good → Does row s (linkCe p.val (drop F.FAB_DROP_CNT_PCRC))) ∧
          (hop ≠ .deliver → h.hops = 0 → Does row s (drop F.FAB_DROP_CNT_HOPS)) ∧
          (hop = .noRoute → h.hops ≠ 0 → Does row s (drop F.FAB_DROP_CNT_NOROUTE)) ∧
          (hop = .down → h.hops ≠ 0 → Does row s (drop F.FAB_DROP_CNT_DOWN)) ∧
          (∀ q, hop = .out q → h.hops ≠ 0 →
            (placeRoom s s.fab.nextId (portDie p.val) q i.evc = 0 → Does row s n) ∧
            (placeRoom s s.fab.nextId (portDie p.val) q i.evc ≠ 0 →
              let j := { i with flits := match i.flits with | f :: l => decHops f :: l | [] => [] }
              Does row s (moveFlits p.val j s.fab.nextId q true ((newId n).2.modPort p.val (fun k => { k with
                ingress := k.ingress.map (fun x => if x == i then j else x) })))))))) ∧
    (∀ vc : Fin 4,
      let k := s.port p.val
      let row : Instr := .escapeTimeout p vc
      let tmo := s.fld F.FAB_ESC_CTL_TMO * 10
      let blocked (e : EPkt) := e.begun = false ∧ e.flits ≠ [] ∧ (creditLeft k vc.val && portActive s p.val && replayRoom s p.val) = false ∧
        egressCan s p.val vc.val e = true
      let noOut := ∀ e, k.egress.find? (fun e => e.vc == vc.val) = some e → ¬blocked e
      let noIn := k.ingress.find? (fun i => i.vc == vc.val) = none
      (∀ e, k.egress.find? (fun e => e.vc == vc.val) = some e → blocked e →
        Does row s (escapeEgress p.val vc.val e s) ∧
        ∀ q, nextHop s (vc.val + 4) (hDst (pktHeader e.flits)) (hSrc (pktHeader e.flits)) (hFlow (pktHeader e.flits)) = .out q →
          portDie q = portDie p.val → smSorted s.ports = true →
          (∀ r, ∀ x ∈ (if r = p.val then k.egress.erase e else (s.port r).egress), x.id ≠ e.id) →
          ∃ u, Does row s u ∧ { e with vc := vc.val + 4 } ∈ (u.port q).egress ∧ smGet 0 k.adv vc.val + tmo ≤ u.now ∧
            u.mem = s.mem ∧ u.cores = s.cores) ∧
      (noOut → ∀ i, k.ingress.find? (fun i => i.vc == vc.val) = some i →
        (ingressBlocked s p.val vc.val i = true → Does row s (escapeIngress p.val vc.val i s)) ∧
        (ingressBlocked s p.val vc.val i = false → s.fab.bridge = [] → Does row s s)) ∧
      (noOut → noIn → ∀ x, s.fab.bridge = [x] → x.q = p.val → x.vc = vc.val → x.begun = false → x.flits ≠ [] →
        placeRoom s x.id x.b x.q x.vc = 0 → bridgeCan s x = true → Does row s (escapeBridge x s)) ∧
      (noOut → noIn → s.fab.bridge = [] → Does row s s))

/-- On an escape VC a packet reaches its coordinate in fewer hops than the dimension's size and never crosses the dateline
link. Whatever DATELINE a dimension has and whatever FAB_RT says but NONE, from each coordinate x the escape direction
leads to c in fewer than n hops. On a ring no hop crosses the link between DATELINE and DATELINE + 1; on a line no hop
wraps. So no cycle of escape buffers can close round a ring. (R264, R255, R258) -/
def Obligations.EscapeRoutesAvoidTheDateline : Prop :=
  ∀ (s : State) (d c x : Nat), d < 4 →
    let n := dimSize s d
    let dir := escDir s d c x
    let line := s.fld F.FAB_DIM_CFG_DATELINE d
    x < n → c < n → x ≠ c → rtDir s d c ≠ 3 →
    (dir = 1 ∨ dir = 2) ∧
    ∃ k, 0 < k ∧ k < n ∧ hops n dir k x = c ∧
      ∀ i < k,
        let y := hops n dir i x
        let z := hopTo n dir y
        escDir s d c y = dir ∧
        (dimWrap s d = true → (dir = 1 → y ≠ line % n) ∧ (dir = 2 → z ≠ line % n)) ∧
        (dimWrap s d = false → (dir = 1 → z = y + 1) ∧ (dir = 2 → z + 1 = y))

/-- OP of Table 13.2 and the row that dispatches it. -/
def colRows (r : RingId) : List (Nat × Instr) :=
  [(1, .allreduce r), (2, .reduceCol r), (3, .broadcast r), (4, .allgather r), (5, .reduceScatter r), (6, .alltoall r),
   (7, .alltoallv r), (8, .barrierCol r), (9, .ringpass r)]

/-- Subtype of Table 13.5 and the row that takes it. -/
def colPackets : List (Nat × Instr) :=
  [(1, .up), (2, .down), (3, .wmark), (4, .grant), (5, .ready), (6, .done), (7, .ringBlock), (10, .colAbort)]

/-- What each COLLECTIVE and RESHARD does when it is dispatched. A row whose ring has nothing to dispatch, or another
descriptor, does nothing. A COLLECTIVE whose OP, DTYPE, REDOP and COUNT are those of Tables 13.2 and 13.3, on an
enabled group of the ring's context, is given to its group, else it is REJECTED, as is one whose signal names nothing.
A RINGPASS also needs its word and its buffers. A RESHARD whose EPOCH is one more than that of the group's last one is
given to its group and its EPOCH is kept, any other is REJECTED. An operation given to a group that is not in ERROR
has the next OPSEQ and stands last in its sequence. (R203, R226, R283, R286, R296, R297, 13_collectives.md) -/
def Obligations.CollectivesAreDispatched : Prop :=
  (∀ (s : State) (r : RingId), On s →
    (nextDesc s r.val = none → (∀ p ∈ colRows r, Does p.2 s s) ∧ Does (.reshard r) s s) ∧
    (∀ d, nextDesc s r.val = some d → dOpcode d.bytes ≠ 0x20 → ∀ p ∈ colRows r, Does p.2 s s) ∧
    (∀ d, nextDesc s r.val = some d → dOpcode d.bytes ≠ 0x21 → Does (.reshard r) s s) ∧
    (∀ d, nextDesc s r.val = some d → dOpcode d.bytes = 0x20 → fieldLe d.bytes 10 1 = 0 ∨ 10 ≤ fieldLe d.bytes 10 1 →
      Does (.allreduce r) s (rejectDesc r.val d.seq (startDesc r.val d.seq s)))) ∧
  (∀ (s : State) (r : RingId) (d : DescSt) (op : Nat) (row : Instr), (op, row) ∈ colRows r → On s →
    nextDesc s r.val = some d → dOpcode d.bytes = 0x20 → fieldLe d.bytes 10 1 = op →
    let t := startDesc r.val d.seq s
    let ctx := ringCtx s r.val
    let g := fieldLe d.bytes 8 2 % 4096
    let dt := fieldLe d.bytes 11 1 % 16
    let ro := fieldLe d.bytes 11 1 / 16
    let n := fieldLe d.bytes 16 8
    let reducing := op = 1 ∨ op = 2 ∨ op = 5
    let fits := dt ≤ 9 ∧ ro ≤ 3 ∧ n < 2 ^ 32 ∧ (reducing → ro ≠ 0 ∧ dt ≠ 9) ∧ (¬reducing → ro = 0) ∧ (op = 8 → n = 0 ∧ dt = 0)
    let mine := s.flag F.COL_GRP_CTL_EN g = true ∧ s.fld F.COL_GRP_CTL_CTX g = ctx
    let o := { ColOp.blank with
      op := op, dtype := dt, redop := ro, count := n, src := fieldLe d.bytes 24 8, dst := fieldLe d.bytes 32 8,
      aux := fieldLe d.bytes 40 8 }
    let signals := bitN (fieldLe d.bytes 48 4) 31
    let sid := bitsN (fieldLe d.bytes 48 4) 0 20
    (¬(formOk d.bytes = true ∧ fits ∧ mine) → Does row s (rejectDesc r.val d.seq t)) ∧
    (formOk d.bytes = true → fits → mine →
      (op = 9 → NoSid s ctx (o.aux % 2 ^ 20) → Does row s (rejectDesc r.val d.seq t)) ∧
      (∀ a, op = 9 → NamesWord s ctx (o.aux % 2 ^ 20) .wait a → ringDstOk s ctx o.dst (2 * n) = false →
        (ringDstHeld s ctx o.dst (2 * n) = false → ∃ m, Noted t m ∧ Does row s (rejectDesc r.val d.seq m)) ∧
        (ringDstHeld s ctx o.dst (2 * n) = true → exec row s = .next s)) ∧
      ((op = 9 → (∃ a, NamesWord s ctx (o.aux % 2 ^ 20) .wait a) ∧ ringDstOk s ctx o.dst (2 * n) = true) →
        (∀ sg, SignalIs s ctx signals sid (fieldLe d.bytes 56 8) sg →
          ∃ m, Noted t m ∧ Does row s (lateKills r.val d.seq (dispatchCol g { o with sig := sg, ring := some (r.val, d.seq) }) m)) ∧
        (signals = true → NoSid s ctx sid → ∃ m, Noted t m ∧ Does row s (rejectDesc r.val d.seq m))))) ∧
  (∀ (s : State) (r : RingId) (d : DescSt), On s → nextDesc s r.val = some d → dOpcode d.bytes = 0x21 →
    let t := startDesc r.val d.seq s
    let ctx := ringCtx s r.val
    let g := fieldLe d.bytes 8 2 % 4096
    let e := fieldLe d.bytes 12 4
    let mine := s.flag F.COL_GRP_CTL_EN g = true ∧ s.fld F.COL_GRP_CTL_CTX g = ctx
    (¬(formOk d.bytes = true ∧ mine ∧ e = (s.grp g).resh + 1) → Does (.reshard r) s (rejectDesc r.val d.seq t)) ∧
    (formOk d.bytes = true → mine → e = (s.grp g).resh + 1 → grpState s g = csReady → (s.ring r.val).find d.seq = some d →
      d.status ≠ 1 → ∀ sg, SignalIs s ctx (bitN (fieldLe d.bytes 48 4) 31) (bitsN (fieldLe d.bytes 48 4) 0 20) (fieldLe d.bytes 56 8) sg →
      ∃ u o, Does (.reshard r) s u ∧ u.grp g = { s.grp g with ops := (s.grp g).ops ++ [o], resh := e } ∧ o.op = 10 ∧
        o.src = fieldLe d.bytes 16 8 ∧ o.aux = e ∧ o.ring = some (r.val, d.seq) ∧ o.sig = sg ∧ o.started = false ∧ u.mem = s.mem)) ∧
  (∀ (s : State) (g : Nat) (o : ColOp), g < 4096 → grpState s g ≠ csError →
    let q := (s.fld F.COL_GRP_STAT_OPSEQ g + 1) % 2 ^ 32
    let u := dispatchCol g o s
    u.fld F.COL_GRP_STAT_OPSEQ g = q ∧ u.mem = s.mem ∧
    ∃ x, (u.grp g).ops = (s.grp g).ops ++ [x] ∧ x.seq = q ∧ x.op = o.op ∧ x.count = o.count ∧ x.src = o.src ∧ x.dst = o.dst ∧
      x.strict = strictEff s ∧ x.epoch = s.fld F.COL_GRP_EPOCH_EPOCH g)

/-- The tree of a group, the start of its operations, its packets, its timeouts and its enabling. Each rank but 0 is a
child of its parent and of no other rank. The first operation of a READY group starts unless new requests may not be
sent or its staging is held for a commit, and only then are the packets held for it taken. A packet of each subtype
moves its group on, one of a reserved subtype or of no group is dropped. A data segment already held leaves what is
held as it is and a GRANT is due, a new one is held, one of another operation of the same OPSEQ is a MISMATCH, a
poisoned one a POISON and one too far ahead a SEQ error. An uncovered segment is sent again with RETX until its sends
are spent, then the group has a TIMEOUT. EN is set only where R281 allows it, while what the group staged before stays
counted, and clearing it leaves the group. The write waits for a member list that is held. (R281, R282, R286, R287,
R288, R289, R290, R302, R303, 13_collectives.md) -/
def Obligations.CollectivesRun : Prop :=
  (∀ a m r : Nat, 0 < a → 0 < r → r < m → ∀ p, r ∈ kidsOf a m p ↔ p = (r - 1) / a) ∧
  (∀ (s : State) (g : GroupId), On s →
    let free := grpState s g.val = csReady ∧ mayInject s = true ∧ partHeld s (s.fld F.COL_GRP_CTL_SLICE g.val) .col = false
    (∀ o l, (s.grp g.val).ops = o :: l → o.started = false → free →
      let b := (trace 0x20 (some (grpCtx s g.val)) g.val o.op o.seq 0
        (modOp g.val (fun o => { o with started := true }) s)).modGrp g.val (fun k => { k with held := [] })
      let x := match colCtx b g.val with | some c => beginCol c b | none => b
      let u := colPump g.val ((s.grp g.val).held.foldl (fun y p => colArrive g.val p y) x)
      Effect (.collectiveStart g) s u ∧
      (o.op ≠ 6 → o.op ≠ 7 → o.op ≠ 10 → inPlaceWide o = false → Does (.collectiveStart g) s u)) ∧
    ((s.grp g.val).ops = [] ∨ (∃ o l, (s.grp g.val).ops = o :: l ∧ o.started = true) ∨ ¬free → Does (.collectiveStart g) s s)) ∧
  (∀ (s : State) (sub : Nat) (row : Instr), (sub, row) ∈ colPackets → On s →
    let first := s.fab.inbox.find? (fun i => fieldLe i.bytes 0 1 == 0x20 &&
      (pSub (Hdr.of i.bytes) == sub || (sub == 1 && subOther (pSub (Hdr.of i.bytes)))))
    (first = none → Does row s s) ∧
    (∀ i, first = some i →
      let h := Hdr.of i.bytes
      let f := h.flow
      let t := leaveInbox i (noise s)
      let u := colPump (f - 0x1000) (colArrive (f - 0x1000) i.bytes t)
      (subOther (pSub h) = true ∨ f < 0x1000 ∨ 0x2000 ≤ f → Does row s t) ∧
      (subOther (pSub h) = false → 0x1000 ≤ f → f < 0x2000 →
        Effect row s u ∧
        ((∀ c, colCtx s (f - 0x1000) = some c → c.o.op ≠ 6 ∧ c.o.op ≠ 7) → Does row s u)))) ∧
  (∀ (s : State) (g : GroupId) (pkt : List Byte) (c : ColCtx),
    let h := Hdr.of pkt
    let k := s.grp g.val
    let q := pRank h
    let p := k.peer q
    let u := colArrive g.val pkt s
    grpOn s g.val = true → domCtx s h.dom = some (grpCtx s g.val) → k.list[q]? = some h.src → grpState s g.val = csReady →
    colCtx s g.val = some c → c.g = g.val → pSub h ≠ 4 → pSub h ≠ 10 →
    let d := (pSeq h + 2 ^ 32 - k.base) % 2 ^ 32
    (d = 1 → colMismatch c.o h = true → u = groupError g.val 1 8 s) ∧
    (d = 1 → colMismatch c.o h = false → fromPeer c h = true → isData c.o h = true →
      (segPos c h < p.next ∨ (∃ e ∈ p.got, e.1 = segPos c h) →
        ((u.grp g.val).peer q).got = p.got ∧ ((u.grp g.val).peer q).next = p.next ∧ ((u.grp g.val).peer q).due ≠ none ∧ u.mem = s.mem) ∧
      (p.next ≤ segPos c h → (∀ e ∈ p.got, e.1 ≠ segPos c h) →
        (bitN h.flags 0 = true → u = groupError g.val 4 8 s) ∧
        (bitN h.flags 0 = false →
          u = modPeer g.val q (fun p => { p with got := smPut (segPos c h) (payloadOf pkt) p.got }) s))) ∧
    (2 < d → d < 2 ^ 31 → u = groupError g.val 9 8 s)) ∧
  (∀ (s : State) (g : Nat) (pkt : List Byte),
    let h := Hdr.of pkt
    (grpOn s g = false ∨ domCtx s h.dom ≠ some (grpCtx s g) ∨ (s.grp g).list[pRank h]? ≠ some h.src → colArrive g pkt s = s)) ∧
  (∀ (s : State) (g : GroupId) (peer : Fin 65536) (kind : Fin 3) (num : BitVec 32), On s →
    let row : Instr := .segmentTimeout g peer kind num
    let seg := (s.grp g.val).segs.find? (fun e => e.peer == peer.val && e.kind == kind.val && e.num == num.toNat && 0 < e.sends)
    (seg = none ∨ mayInject s = false → Does row s s) ∧
    (∀ e, seg = some e → mayInject s = true →
      let x := passTo (e.sentAt + s.fld F.FAB_TP_CTL_TMO * 1000) s
      (x.fld F.FAB_TP_CTL_RETRY + 1 ≤ e.sends → kind.val ≠ 2 → Does row s (colPump g.val (groupError g.val 3 8 x))) ∧
      (x.fld F.FAB_TP_CTL_RETRY + 1 ≤ e.sends → kind.val = 2 →
        Does row s (x.modGrp g.val (fun k => { k with segs := k.segs.erase e }))) ∧
      (e.sends < x.fld F.FAB_TP_CTL_RETRY + 1 → Does row s (inject
        (mkPacket { Hdr.of e.pkt with flags := (Hdr.of e.pkt).flags ||| 4, stamp := x.timebase } (payloadOf e.pkt))
        (x.modGrp g.val (fun k => { k with segs := k.segs.map (fun y =>
          if y == e then { y with sends := y.sends + 1, sentAt := x.now } else y) })))))) ∧
  (∀ (s : State) (g : GroupId) (v : BitVec 32), On s → ready s = true →
    (grpOn s g.val = true → bitN v.toNat 0 = true → Does (.colGrpCtl g v) s s) ∧
    (grpOn s g.val = true → bitN v.toNat 0 = false →
      let u := colPump g.val (((leaveGroup g.val s).setFld F.COL_GRP_CTL_EN g.val 0).setFld F.COL_GRP_STAT_STATE g.val csOff)
      Does (.colGrpCtl g v) s u ∧ u.flag F.COL_GRP_CTL_EN g.val = false ∧ grpState u g.val = csOff) ∧
    (grpOn s g.val = false →
      let w := s.regWrite .COL_GRP_CTL g.val (setBitsN v.toNat 0 1 0)
      let sl := w.fld F.COL_GRP_CTL_SLICE g.val
      let a := w.fld F.COL_GRP_LIST_ADDR g.val * 64
      let list := readList w a
      let held := heldRange w a (16 + 2 * min (rdNat w a 4) 65536)
      (bitN v.toNat 0 = false → Does (.colGrpCtl g v) s w) ∧
      (bitN v.toNat 0 = true → held = true → exec (.colGrpCtl g v) s = .next s) ∧
      (bitN v.toNat 0 = true → held = false → list = none → ∃ m, Noted w m ∧ Does (.colGrpCtl g v) s m) ∧
      (∀ ar l, bitN v.toNat 0 = true → held = false → list = some (ar, l) →
        let r := l.idxOf (nodeId w)
        let fits := (∀ n ∈ l, nodeValid w n = true) ∧ l.Nodup ∧ nodeId w ∈ l ∧ ctxExists w (grpCtx w g.val) = true ∧
          w.flag F.FAB_CTX_DOM_EN (grpCtx w g.val) = true ∧
          stagingUsed w sl + staging ar l.length r (grpSlots w g.val) ≤ (partSizes (w.reg .VAT_PART sl).toNat).2.1
        (fits → ∃ u, Does (.colGrpCtl g v) s u ∧ u.flag F.COL_GRP_CTL_EN g.val = true ∧ grpState u g.val = csReady ∧
          u.fld F.COL_GRP_STAT_OPSEQ g.val = 0 ∧ (u.grp g.val).list = l ∧ (u.grp g.val).arity = ar ∧ u.mem = s.mem ∧
          (u.grp g.val).older = (s.grp g.val).staged.toList ++ (s.grp g.val).older) ∧
        (¬fits → ∃ m, Noted w m ∧ Does (.colGrpCtl g v) s m))))

/-- Frames, replays and retrains of die-to-die modules, and the guest die's firewall. A frame that the source offers waits
at its path, and a module that is up sends a frame, which its receiver takes. A frame is numbered when it is offered.
The frame sent is the one that the module's roles pick, dealt again before new, carries the next FSEQ and its GSEQ and
is held until it is acknowledged. With 32 held, with none to send, or with a GSEQ too far ahead the frame is empty,
and a replay sends a held one. A frame whose CRC fails delivers nothing, is counted and is a corrected error. One in
FSEQ order whose GSEQ is next is delivered. A timeout replays the frames held, the fourth from one FSEQ retrains the
module. A retrain over gives the module the state of its bad lanes. A guest request that no window serves or permits
is denied and counted, one within its bucket is served, and any other waits until the bucket has refilled. One whose
window a commit changes, or whose memory is held, waits at its source, and what serves it is found anew. A module that
is not up, a missing guest die and an empty queue do nothing. (R312, R313, R314, R315, R317, R319, R321, R322, R323,
15_die_to_die_and_package.md) -/
def Obligations.ModulesAndGuests : Prop :=
  (∀ (s : State) (x : D2dId) (offer : Option (Fin 4)) (data : List Byte) (flips : List (Fin 2112)), On s →
    let p := d2dPath x
    let t := match offer with
      | some role => s.modPath p (fun q => { q with waiting := q.waiting ++ [(role.val, q.next, slice data 0 256)], next := q.next + 1 })
      | none => s
    let f := nextFrame x t
    let row : Instr := .d2dFrame x offer data flips
    (pathFitted s p = false → Does row s s) ∧
    (pathFitted s p = true → modUp s x = false → Does row s t) ∧
    (pathFitted s p = true → modUp s x = true → Does row s (receiveFrame x ((flips.map (·.val)).foldl flipBit f.1)
      (emit (.beats x (wireBeats (f.2.d2dMod x).st (f.2.d2dMod x).bad f.1)) f.2)))) ∧
  (∀ (s : State) (x : D2dId),
    let p := d2dPath x
    let m := s.d2dMod x
    let y := s.d2dMod (d2dPair x)
    let q := s.d2dPathSt p
    let f := nextFrame x s
    let goes (e : FramePick) := f.1 = frameBytes (frameCtl true y.nak m.tx y.rx e.gseq) e.data ∧
      (f.2.d2dMod x).buf = m.buf ++ [(m.tx, e.gseq, e.data)] ∧ (f.2.d2dMod x).tx = (m.tx + 1) % 128
    (∀ e, m.again = 0 → m.buf.length < 32 → pickFrame s x = some e →
      (e.redealt = true → goes e ∧ (f.2.d2dPathSt p).redeal = q.redeal.erase (e.gseq, e.data) ∧ (f.2.d2dPathSt p).waiting = q.waiting) ∧
      (e.redealt = false → gseqOpen s p e.gseq = true → goes e ∧ smGet 0 (f.2.d2dPathSt p).sent e.gseq = e.role ∧
        (f.2.d2dPathSt p).waiting = q.waiting.erase (e.role, e.gseq, e.data) ∧ (f.2.d2dPathSt p).redeal = q.redeal)) ∧
    (m.again = 0 → (32 ≤ m.buf.length ∨ pickFrame s x = none ∨
        ∃ e, pickFrame s x = some e ∧ e.redealt = false ∧ gseqOpen s p e.gseq = false) →
      f.1 = frameBytes (frameCtl false y.nak m.tx y.rx 0) (List.replicate 256 0) ∧ (f.2.d2dMod x).buf = m.buf) ∧
    (∀ e l, m.again ≠ 0 → m.buf.drop (m.buf.length - m.again) = e :: l →
      f.1 = frameBytes (frameCtl true y.nak e.1 y.rx e.2.1) e.2.2 ∧ (f.2.d2dMod x).buf = m.buf ∧
      (f.2.d2dMod x).again = m.again - 1)) ∧
  (∀ (s : State) (x : D2dId) (f : List Byte),
    let p := d2dPath x
    let q := s.d2dPathSt p
    let u := receiveFrame x f s
    let ctl := fieldLe f 256 4
    (crc32c (f.take 260) ≠ fieldLe f 260 4 → 260 ≤ f.length →
      (u.d2dPathSt p).want = q.want ∧ (u.d2dPathSt p).early = q.early ∧ 
        u.fld F.D2D_PATH_CNT_CRC p = min (s.fld F.D2D_PATH_CNT_CRC p + 1) (2 ^ F.D2D_PATH_CNT_CRC.width - 1) ∧
        u.fld F.DEV_ERR_CNT_CE = min (s.fld F.DEV_ERR_CNT_CE + 1) 65535) ∧
    (crc32c (f.take 260) = fieldLe f 260 4 → 260 ≤ f.length → bitN ctl 0 = true → bitsN ctl 2 7 = (s.d2dMod x).rx →
      bitsN ctl 16 16 = q.want % 65536 → q.early = [] →
      (u.d2dPathSt p).want = q.want + 1 ∧ (u.d2dPathSt p).early = [] ∧ (u.d2dMod x).rx = ((s.d2dMod x).rx + 1) % 128)) ∧
  (∀ (s : State) (x : D2dId), On s →
    let m := s.d2dMod x
    (modUp s x = false ∨ m.buf = [] → Does (.d2dReplayTimeout x) s s) ∧
    (modUp s x = true → ∀ f l, m.buf = f :: l →
      ∃ u, Does (.d2dReplayTimeout x) s u ∧ u.mem = s.mem ∧ m.ackAt + Config.d2dTimeout ≤ u.now ∧
        (m.replayFrom ≠ f.1 ∨ m.replays < 3 → (u.d2dMod x).again = m.buf.length ∧ (u.d2dMod x).retrain = none) ∧
        (m.replayFrom = f.1 → 3 ≤ m.replays → (u.d2dMod x).retrain ≠ none ∧ (u.d2dMod x).buf = []))) ∧
  (∀ (s : State) (x : D2dId) (bad : BitVec 36), On s →
    ((s.d2dMod x).retrain = none → Does (.moduleRetrainComplete x bad) s s) ∧
    (∀ t, (s.d2dMod x).retrain = some t →
      let all := (s.d2dMod x).bad ||| bad.toNat
      let st := max (laneState all) (s.d2dMod x).st
      ∃ u, Does (.moduleRetrainComplete x bad) s u ∧ (u.d2dMod x).st = st ∧ (u.d2dMod x).bad = all ∧ (u.d2dMod x).retrain = none ∧
        (st = mDEAD → (u.d2dMod (d2dPair x)).st = mDEAD) ∧ t + 2000 ≤ u.now ∧ u.mem = s.mem)) ∧
  (∀ (s : State) (write : Bool) (a : Word) (n : Fin 4097) (data : List Byte), On s →
    let row : Instr := .guestRequest write a n data
    let denied := emit (.guest false [] false) (s.incSat F.D2D_GUEST_STAT_DENY)
    (s.d2d.guest = false ∨ n.val = 0 → Does row s s) ∧
    (s.d2d.guest = true → 0 < n.val →
      (gwFor s a.toNat n = none → Does row s denied) ∧
      (∀ w, gwFor s a.toNat n = some w →
        let q : GuestReq := ⟨w, write, a.toNat, n, slice data 0 n, gwWaits s w a.toNat n⟩
        let waits := s.d2d.held.any (fun h => h.window == w) = true ∨ 65536 < gwMissing s w s.now + n.val
        (gwPermits s w write a.toNat n = false → gwWaits s w a.toNat n = false → Does row s denied) ∧
        (gwPermits s w write a.toNat n = true → gwWaits s w a.toNat n = false → ¬waits → Does row s (gwServe q (gwTake w n s))) ∧
        (gwWaits s w a.toNat n = true ∨ gwPermits s w write a.toNat n = true ∧ waits →
          Does row s (s.modD2d (fun d => { d with held := d.held ++ [q] })))))) ∧
  (∀ (s : State) (w : Fin 16), On s →
    let first := s.d2d.held.find? (fun h => h.window == w.val)
    (first = none → Does (.guestRateRelease w) s s) ∧
    (∀ q, first = some q →
      let t := s.modD2d (fun d => { d with held := d.held.erase q })
      let go (x : GuestReq) := gwServe x (gwTake w x.len
        (passTo (s.now + ceilDiv (gwMissing s w s.now + x.len - 65536) (s.fld F.D2D_GW_CTL_RATE w.val)) t))
      let denied := emit (.guest false [] false) (t.incSat F.D2D_GUEST_STAT_DENY)
      (gwWaits s w q.addr q.len = true → Does (.guestRateRelease w) s s) ∧
      (gwWaits s w q.addr q.len = false →
        (q.late = false → Does (.guestRateRelease w) s (go q)) ∧
        (q.late = true → (gwFor s q.addr q.len = none → Does (.guestRateRelease w) s denied) ∧
          ∀ v, gwFor s q.addr q.len = some v →
            (gwPermits s v q.write q.addr q.len = false → Does (.guestRateRelease w) s denied) ∧
            (gwPermits s v q.write q.addr q.len = true → v = w.val →
              Does (.guestRateRelease w) s (go { q with window := v, late := false })))))) ∧
  (∀ (s : State) (q : GuestReq),
    let ctx := s.fld F.D2D_GW_CTL_CTX q.window
    let off := q.addr - s.fld F.D2D_GW_BASE_BASE q.window * 65536
    let a := s.fld F.D2D_GW_TGT_TGT q.window + off
    (s.flag F.D2D_GW_CTL_KIND q.window = true → ∀ x, pwordAddr s (s.fld F.D2D_GW_TGT_TGT q.window % 2 ^ 20 + off / 8) = some x →
      gwServe q s = raiseSig ctx (some (x, wN (fieldLe q.data 0 8))) (emit (.guest true [] false) s)) ∧
    (s.flag F.D2D_GW_CTL_KIND q.window = false →
      (q.write = true → gwServe q s = emit (.guest true [] false) (store ctx a (slice q.data 0 q.len) false s)) ∧
      (q.write = false → poisoned s a q.len = false →
        gwServe q s = emit (.guest true (rdBytes s a q.len) false) (touchRange a q.len s))))

/-- The cap, the loops of the Calender, power measurement, ramps, trips, coolant and the error log's enable. A raise of
the cap, or a lowering with IMMED, is in force at once. The fast loop takes the estimate and the temperatures, keeps
the demand, and holds every die above TJ_TGT, and the air side from 70 degrees on. A measured interval draws what the
outside asks for within what the average of 1 ms may move by under PWR_RAMP_UP and PWR_RAMP_DN, and above all at most
3,300 W, no more than the cap in force after 200 in a row above it, and no more than keeps the average within it. The
reading shown is within half a percent, and with the voltage it finds the current limit and low input. A difference of
more than 15 percent for 1 ms puts the device in measurement-only control, which ends 100 ms after they agree. In one
ramp interval power rises by at most PWR_RAMP_UP, and the guard band moves within the ramps. A phase slot ends at its
time. THERMTRIP turns the rails off and sets the latch. COOLANT is raised and ends. The error log is enabled for the
sizes that it may have. The bounds of power and the demand are the model's (assumptions 106 and 164). (R16, R325,
R326, R327, R329, R330, R331, R333, R337, R345, R346, 16_power_calender_thermal.md) -/
def Obligations.PowerIsControlled : Prop :=
  ∀ (s : State), On s →
    (ready s = true → ∀ v : BitVec 32,
      let w := s.regWrite .PWR_CAP 0 v.toNat
      let cap := w.fld F.PWR_CAP_CAP
      ∃ u, Does (.pwrCap v) s u ∧ u.fld F.PWR_CAP_CAP = cap ∧ u.mem = s.mem ∧
        (s.flag F.PWR_EXT_CAP_EN = false → (capReached s ≤ cap * 1000 ∨ w.flag F.PWR_CAP_IMMED = true) →
          u.fld F.PWR_MEAS_CAP_EFF = cap)) ∧
    (∀ x : FastIn,
      let est := min (x.est.foldl (· + ·) 0) 65535
      ∃ u, Does (.calenderFastLoop x) s u ∧ s.pwr.loopAt + 1000 ≤ u.now ∧ u.fld F.PWR_MEAS_P_EST = est ∧ u.mem = s.mem ∧
        (unlimited s = false → u.pwr.demand = x.demand) ∧
        (unlimited s = true → measOnly s = false →
          u.pwr.demand = (Int.ofNat est + s.pwr.corr).toNat - s.fld F.PWR_THR_STAT_BALLAST) ∧
        (∀ d t, d < 16 → x.tj[d]? = some t → (bitN u.pwr.hot d = true ↔ s.fld F.PWR_THERM_TJ_TGT < t)) ∧
        (u.pwr.airHot = true ↔ 70 ≤ x.air) ∧ (70 ≤ x.air → s.pwr.airHot = false → u.flag F.PWR_EVT_THERM = true)) ∧
    (∀ w vin : Fin 65536,
      let cap := capEff (passTo (s.pwr.measAt + 10000) s)
      let est := s.fld F.PWR_MEAS_P_EST
      let amps := s.fld F.PWR_ILIM_AMPS
      ∃ u p, Does (.powerMeasurement w vin) s u ∧ s.pwr.measAt + 10000 ≤ u.now ∧ u.mem = s.mem ∧
        p ≤ 3300 ∧ (200 ≤ s.pwr.runAbove → p ≤ cap) ∧
        Int.ofNat p ≤ max 0 (Int.ofNat cap - s.pwr.excess.foldl (· + ·) 0) ∧
        p = min (min (if 200 ≤ s.pwr.runAbove then min 3300 cap else 3300) (Int.ofNat cap - s.pwr.excess.foldl (· + ·) 0).toNat)
          (max (rampRoom s).2 (min w.val (rampRoom s).1)) ∧
        (∀ m, s.pwr.msPrev = some m → ready s = true → p ≤ m + 100 * s.fld F.PWR_RAMP_UP_RATE - s.pwr.msSum) ∧
        (s.pwr.msPrev = none ∨ ready s = false → p ≤ w.val) ∧
        u.pwr.runAbove = (if cap < p then s.pwr.runAbove + 1 else 0) ∧ u.pwr.excess.head? = some (Int.ofNat p - Int.ofNat cap) ∧
        let q := u.fld F.PWR_MEAS_P_MEAS
        let off := 15 * cap < ((est - q) + (q - est)) * 100
        q ≤ p + p / 201 ∧ p ≤ q + p / 201 ∧ u.fld F.PWR_MEAS_VIN = vin.val ∧ (u.pwr.low = true ↔ vin.val < 5400) ∧
        (amps * vin.val < q * 100 → u.pwr.current = some (amps * vin.val / 100)) ∧
        (q * 100 ≤ amps * vin.val → u.pwr.current = none) ∧
        (off → ∀ t, s.pwr.differ = some t → t + 1000000 < u.now → u.flag F.PWR_THR_STAT_MEASONLY = true) ∧
        (¬off → u.pwr.differ = none ∧ u.flag F.PWR_THR_STAT_MEASONLY = s.flag F.PWR_THR_STAT_MEASONLY)) ∧
    (s.flag F.PWR_THR_STAT_MEASONLY = true → s.pwr.differ = none →
      ∃ u, Does .measurementOnlyExit s u ∧ u.flag F.PWR_THR_STAT_MEASONLY = false ∧ s.pwr.agree + 100000000 ≤ u.now) ∧
    (s.flag F.PWR_THR_STAT_MEASONLY = false ∨ s.pwr.differ ≠ none → Does .measurementOnlyExit s s) ∧
    (∃ u, Does .rampInterval s u ∧ s.pwr.rampAt + 1000000 ≤ u.now ∧ u.pwr.demand = s.pwr.demand ∧ u.mem = s.mem ∧
      (ready s = true → u.pwr.force ≤ s.pwr.force + s.fld F.PWR_RAMP_UP_RATE) ∧
      u.pwr.guard ≤ s.pwr.guard + s.fld F.PWR_RAMP_DN_RATE ∧ s.pwr.guard ≤ u.pwr.guard + s.fld F.PWR_RAMP_UP_RATE) ∧
    (s.pwr.slotEnd = none → Does .phaseSlotExpiry s s) ∧
    (∀ t, s.pwr.slotEnd = some t → Does .phaseSlotExpiry s ((passTo t s).modPwr (fun p => { p with slotEnd := none }))) ∧
    (s.rst.vsb = true → ∀ d : DieId, ∃ u, exec (.thermtrip d) s = .next u ∧ u.rst.trip = true ∧ u.rst.off = true ∧
      u.fld F.PWR_DIE_TJ d.val = 115 ∧ u.mem = s.mem) ∧
    (∃ u, Does .coolantOutOfRange s u ∧ u.flag F.PWR_EVT_COOLANT = true ∧ u.pwr.coolant = true ∧ u.mem = s.mem) ∧
    Does .coolantInRange s (s.modPwr (fun p => { p with coolant := false })) ∧
    (ready s = true → ∀ v : BitVec 32,
      let w := s.regWrite .DEV_ERR_LOG_CTL 0 (setBitsN v.toNat 4 1 (s.fld F.DEV_ERR_LOG_CTL_EN))
      let lg := w.fld F.DEV_ERR_LOG_CTL_LOG2N
      ∃ u, Does (.devErrLogCtl v) s u ∧ u.fld F.DEV_ERR_LOG_CTL_LOG2N = lg ∧ u.mem = s.mem ∧
        (u.flag F.DEV_ERR_LOG_CTL_EN = true ↔ bitN v.toNat 4 = true ∧ 4 ≤ lg ∧ lg ≤ 12) ∧
        (bitN v.toNat 4 = true → u.flag F.DEV_ERR_LOG_STAT_FAIL = false))

/-- Rate windows, equalisation, ageing trims, outliers, iso-rate mode and undervoltage. At the end of its window the
counts of an enabled core are latched, WINDOW_SEQ counts it and the array steps start from 0, a core whose monitor is
off keeps its counts. An equalisation raises by one step the offset, up to 20 steps, of a die slower than 99 percent
of the reference, lowers that of one faster than 99.5 percent, and leaves other dies and those held by THERM. An
ageing trim raises the trim of a die slower than its factory rate whose rail is not at the clamp. A die slow for its
time is reported. An equalisation comes 1 ms after the last, a trim 1 hour after the last. In iso-rate mode an array
or vector engine starts no step before 1/1.45 ns times the steps before it have passed. ISO ACTIVE follows EN, and a
compute die that newly misses the rate sets ISO_MISS. An undervoltage is a fatal error, and VOLT is active. (R22, R23,
R328, R339, R340, R341, R343, 02_self_timed_operation.md) -/
def Obligations.RatesAreEqualised : Prop :=
  ∀ (s : State), On s →
    (∀ (c : CoreId) (n : Fin 16777216),
      let k := s.core c.val
      (s.flag F.CORE_RATE_CTL_EN c.val = false → Does (.rateWindowEnd c n) s s) ∧
      (s.flag F.CORE_RATE_CTL_EN c.val = true →
        Does (.rateWindowEnd c n) s (windowsNow c.val (some n.val) (passTo (s.tbase + nextWindow s c.val) s))) ∧
      (s.flag F.CORE_RATE_CTL_EN c.val = true → s.fld F.CORE_RATE_CTL_WIN c.val = k.win → s.timebase ≤ nextWindow s c.val →
        ∃ u, Does (.rateWindowEnd c n) s u ∧ u.fld F.CORE_RATE_CNT_REPLICA_STEPS c.val = n.val ∧
          u.fld F.CORE_RATE_CNT_ARRAY_STEPS c.val = k.arraySteps % 2 ^ 24 ∧
          u.fld F.CORE_RATE_CNT_WINDOW_SEQ c.val = (s.fld F.CORE_RATE_CNT_WINDOW_SEQ c.val + 1) % 2 ^ 16 ∧
          (u.core c.val).arraySteps = 0 ∧ s.tbase + nextWindow s c.val ≤ u.now ∧ u.mem = s.mem)) ∧
    (∀ l : List (Fin 65536),
      let rate := rateOf (l.map (·.val))
      ∃ u, Does (.equalisation l) s u ∧ u.mem = s.mem ∧ s.pwr.eqAt + 1000000 ≤ u.now ∧ u.pwr.eqAt = u.now ∧ ∀ d, d < 16 →
        let e := smGet 0 s.pwr.eq d
        let f := smGet 0 u.pwr.eq d
        let ref := refRate rate d s
        u.fld F.PWR_DIE_RATE d = rate d ∧ (bitN s.pwr.hot d = true → f = e ∧ smGet 0 u.pwr.slow d = 0) ∧
        (factoryRate s d ≤ rate d → smGet 0 u.pwr.aged d = 0) ∧
        (bitN s.pwr.hot d = false → s.flag F.PWR_RAIL_CTL_EQ_EN = true →
          (rate d * 100 < 99 * ref → f = min 20 (e + 1)) ∧
          (99 * ref ≤ rate d * 100 → 995 * ref < rate d * 1000 → f = e - 1) ∧
          (99 * ref ≤ rate d * 100 → rate d * 1000 ≤ 995 * ref → f = e)) ∧
        (s.flag F.PWR_RAIL_CTL_EQ_EN = false → f = e)) ∧
    (∀ l : List (Fin 65536),
      let rate := rateOf (l.map (·.val))
      (s.flag F.PWR_RAIL_CTL_TRIM_EN = false → Does (.ageingTrim l) s s) ∧
      (s.flag F.PWR_RAIL_CTL_TRIM_EN = true → ∃ u, Does (.ageingTrim l) s u ∧ u.mem = s.mem ∧ s.pwr.trimAt + 3600000000000 ≤ u.now ∧
        u.pwr.trimAt = u.now ∧ ∀ d, d < 16 →
        let k := smGet 0 s.pwr.trim d
        let x := passTo (s.pwr.trimAt + 3600000000000) s
        (rate d < factoryRate x d → railClamped x d = false → k < 16 → smGet 0 u.pwr.trim d = k + 1) ∧
        (factoryRate x d ≤ rate d ∨ railClamped x d = true ∨ 16 ≤ k → smGet 0 u.pwr.trim d = k))) ∧
    (∀ d : DieId,
      (smGet 0 s.pwr.slow d.val = 0 → Does (.rateOutlier d false) s s) ∧
      (smGet 0 s.pwr.aged d.val = 0 → Does (.rateOutlier d true) s s) ∧
      (∀ t, smGet 0 s.pwr.slow d.val = t + 1 → ∃ u, Does (.rateOutlier d false) s u ∧ t + 100000000 ≤ u.now ∧
        u.flag F.PWR_EVT_OUTLIER = true ∧ u.fld F.PWR_OUTLIER_CAUSE = 0 ∧ smGet 0 u.pwr.slow d.val = 0) ∧
      (∀ t, smGet 0 s.pwr.aged d.val = t + 1 → ∃ u, Does (.rateOutlier d true) s u ∧ t + 3600000000000 ≤ u.now ∧
        u.flag F.PWR_EVT_OUTLIER = true ∧ u.fld F.PWR_OUTLIER_CAUSE = 1 ∧ smGet 0 u.pwr.aged d.val = 0)) ∧
    (∀ (vec : Bool) (c n : Nat), isoOn s = true →
      let key := if vec then 192 + c else c
      let due := smGet 0 s.pwr.isoNext key
      let u := isoSteps vec c n s
      due ≤ u.now * 145 ∧ smGet 0 u.pwr.isoNext key = max due (s.now * 145) + 100 * n ∧ u.mem = s.mem ∧
        ∀ k, k ≠ key → smGet 0 u.pwr.isoNext k = smGet 0 s.pwr.isoNext k) ∧
    (∀ l : List (Fin 65536), ∃ u, Does (.isoRateChange l) s u ∧ u.flag F.PWR_ISO_CTL_ACTIVE = s.flag F.PWR_ISO_CTL_EN ∧
      u.mem = s.mem ∧ s.tbase + ceilDiv s.timebase 1000000 * 1000000 ≤ u.now ∧
      (s.flag F.PWR_ISO_CTL_EN = true → (∃ (i : Nat) (r : Fin 65536), i < 12 ∧ l[i]? = some r ∧ r.val < 1480 ∧ bitN s.pwr.isoMiss i = false) →
        u.flag F.PWR_EVT_ISO_MISS = true)) ∧
    (∀ d : Fin 16, ∃ u, Does (.railUndervoltage d) s u ∧ u.pwr.droop = true ∧ u.pwr.under = true ∧
      bitN (u.fld F.PWR_THR_STAT_ACTIVE) 4 = true ∧ u.fatals = s.fatals ++ [1] ∧ u.mem = s.mem)

/-- A reset of a level has begun on s: the source is recorded, and volatile state is cleared. -/
def ResetBegun (level src : Nat) (s t : State) : Prop :=
  t.rst.level = level ∧ t.rst.stretched = false ∧ bitN (t.fld F.DEV_RST_CAUSE_SRC) src = true ∧
  t.mem.cells = [] ∧ t.mem.spans = [] ∧ t.cores = [] ∧ t.fe.rings = [] ∧ t.sync.bars = [] ∧ t.sync.waits = [] ∧
  t.ports = [] ∧ t.fab = FabSt.reset ∧ t.col = [] ∧ t.fld F.DEV_BOOT_STAT_STEP = 0 ∧ t.fld F.FE_RING_CTL_EN 1 = 0 ∧
  t.pending = s.pending

/-- Resets begin at their sources and end 22 us after their start. VSB begins a power-on reset in every state. With
standby power and no reset in progress, or the rails off after a trip (within a reset too: the model's choice,
assumption 184), SUPPLY and PWR_GOOD, where they were not asserted, begin a power-on reset, which has the rails on,
and with the rails on, RESET_N, PERST_N where they were not asserted and MGMT_WDOG begin a system reset, and so does
DEV_SYS_RST with KEY 0x5A and GO once the host is served. Any other write of it does nothing. The source's bit is
recorded, and memory, cores, rings, sync state, ports, fabric, groups and the boot position are cleared. In a reset,
the stretch of RESET_N ends 20 us after the start. The reset ends 22 us after the start if no level source holds it -
the timebase restarts, rails and dies show their values, and boot begins, or with the rails off nothing boots - and
goes on while one holds it. A RESET_N low that lasts beyond 22 us after the start is recorded, whether it ends before
the reset or with it. Loss of VSB_3V3 loses the always-on registers and turns conversion off. Else a source that
deasserts does nothing. (R345, R347, R348, R349, R350, R351, R352, R366, R425) -/
def Obligations.ResetSourcesBeginResets : Prop :=
  (∀ s : State, ∃ t, exec .vsb s = .next t ∧ ResetBegun 1 srcVSB s t ∧ t.rst.off = false) ∧
  (∀ s : State, s.rst.vsb = true → (s.rst.level = 0 ∨ s.rst.off = true) →
    (bitN s.rst.ext srcSUPPLY = false → ∃ t, exec (.supply true) s = .next t ∧ ResetBegun 1 srcSUPPLY s t ∧ t.rst.off = false) ∧
    (bitN s.rst.ext srcPWRGOOD = false → ∃ t, exec (.pwrGood true) s = .next t ∧ ResetBegun 1 srcPWRGOOD s t ∧ t.rst.off = false)) ∧
  (∀ s : State, s.rst.vsb = true → running s = true →
    (bitN s.rst.ext srcRESETN = false → ∃ t, exec (.resetN true) s = .next t ∧ ResetBegun 2 srcRESETN s t) ∧
    (bitN s.rst.ext srcPERSTN = false → ∃ t, exec (.perstN true) s = .next t ∧ ResetBegun 2 srcPERSTN s t) ∧
    (∃ t, exec .mgmtWdog s = .next t ∧ ResetBegun 2 srcWDOG s t) ∧
    (ready s = true → ∃ t, exec (.devSysRst 0x15A) s = .next t ∧ ResetBegun 2 srcMGMT s t)) ∧
  (∀ s : State, On s → (∀ v : BitVec 32, (bitsN v.toNat 0 8 ≠ 0x5A ∨ bitN v.toNat 8 = false) → Does (.devSysRst v) s s) ∧
    Does (.supply false) s (setExt srcSUPPLY false s) ∧ Does (.pwrGood false) s (setExt srcPWRGOOD false s) ∧
    Does (.resetN false) s (setExt srcRESETN false s) ∧ Does (.perstN false) s (setExt srcPERSTN false s)) ∧
  (∀ s : State, s.rst.level ≠ 0 → s.rst.stretched = false →
    ∃ t, exec .resetStretchEnd s = .next t ∧ t.rst.stretched = true ∧ t.rst.level = s.rst.level ∧
      s.rst.start + 20000 ≤ t.now ∧ t.pending = s.pending) ∧
  (∀ s : State, s.rst.level ≠ 0 → bitN s.rst.ext srcRESETN = true → s.rst.start + 22000 < s.now →
    ∃ t, exec (.resetN false) s = .next t ∧ t.rst.level = s.rst.level ∧ bitN (t.fld F.DEV_RST_CAUSE_SRC) srcRESETN = true) ∧
  (∀ s : State, s.rst.level ≠ 0 →
    (holdsReset s = true → ∃ t, exec .resetEnd s = .next t ∧ t.rst.level = s.rst.level ∧ s.rst.start + 22000 ≤ t.now ∧
      bitN (t.fld F.DEV_RST_CAUSE_SRC) srcRESETN = (bitN (s.fld F.DEV_RST_CAUSE_SRC) srcRESETN || bitN s.rst.ext srcRESETN)) ∧
    (holdsReset s = false → s.rst.off = true → ∃ t, exec .resetEnd s = .next t ∧ t.rst.level = 0 ∧ t.rst.off = true ∧
      t.reg .DEV_BOOT_STAT 0 = s.reg .DEV_BOOT_STAT 0) ∧
    (holdsReset s = false → s.rst.off = false →
      let w := passTo (s.rst.start + 22000) (opStretchEnd s)
      let t := w.now
      let x := showRails ((List.range 16).foldl (fun s d => showDie d s)
        { w.modRst (fun r => { r with level := 0 }) with tbase := t })
      Does .resetEnd s
        (bootTo 1 (bootTo 0 (x.modPwr (fun p => { p with loopAt := t, measAt := t, rampAt := t, capAt := t, eqAt := t, trimAt := t })))))) ∧
  (∀ s : State, ∃ t, exec .vsbLoss s = .next t ∧ t.rst.off = true ∧ t.rst.vsb = false ∧ t.reg .DEV_RST_CNT 0 = 0 ∧
    t.reg .DEV_RST_CAUSE 0 = 0 ∧ t.pending = s.pending)

/-- A core reset starts, clears its cores, and ends, and a GO in between or of no slot resets nothing. A GO while BUSY is
1 starts no reset and sets BADREQ; a GO with MASK 0 resets nothing and counts nothing. In both the write does to the
register what its access codes say and nothing else happens (that MASK takes the write while BUSY is 1 is the model's
reading, assumption 111). A GO with a mask and no reset in progress counts the reset, records the mask, sets BUSY,
flushes every write-combining entry, holds the stacks in self-refresh and resets each core of the masked slots. A core
that is reset has no launch, no registers, no queues and no accumulators, CORE_OWNER is 0 and its state is IDLE. The
reset ends no sooner than 20 us after it started, once no level source is asserted and no request of its cores is
outstanding - BUSY clears, and the cores and stacks leave the reset. (R350, R353, R355, R356, R357) -/
def Obligations.CoreResetRuns : Prop :=
  (∀ (s : State) (v : BitVec 32), On s → ready s = true → bitN v.toNat 16 = true →
    let w := s.regWrite .DEV_CORE_RST 0 v.toNat
    (w.flag F.DEV_CORE_RST_BUSY = true → Does (.devCoreRst v) s (w.setFld F.DEV_CORE_RST_BADREQ 0 1)) ∧
    (w.flag F.DEV_CORE_RST_BUSY = false → w.fld F.DEV_CORE_RST_MASK = 0 → Does (.devCoreRst v) s w)) ∧
  (∀ (s : State) (v : BitVec 32), On s → ready s = true → bitN v.toNat 16 = true →
    let w := s.regWrite .DEV_CORE_RST 0 v.toNat
    let m := w.fld F.DEV_CORE_RST_MASK
    w.flag F.DEV_CORE_RST_BUSY = false → m ≠ 0 →
    Does (.devCoreRst v) s ((maskCores m).foldl (fun s c => resetCore c s)
      (let u := flushAll (((w.incSat F.DEV_RST_CNT_CORE).setFld F.DEV_RST_CAUSE_CORE_MASK 0 m).setFld F.DEV_CORE_RST_BUSY 0 1)
       { u with mem := { u.mem with selfRefresh := true }, rst := { u.rst with start := u.now } }))) ∧
  (∀ (s : State) (c : Nat), c < 192 →
    let t := resetCore c s
    (t.core c).launched = false ∧ (t.core c).inReset = true ∧ (t.core c).x = [] ∧ (t.core c).acc = [] ∧
    (t.core c).mq = QueueSt.reset ∧ (t.core c).vq = QueueSt.reset ∧ (t.core c).lq = QueueSt.reset ∧
    (t.core c).dq = QueueSt.reset ∧ t.reg .CORE_OWNER c = 0 ∧ coreState t c = csIdle) ∧
  (∀ s : State, On s →
    let ended := s.flag F.DEV_CORE_RST_BUSY = true ∧ s.rst.ext % 32 = 0 ∧ coreReqsOut s = false
    (¬ended → Does .coreResetEnd s s) ∧
    (ended → Does .coreResetEnd s
      (let u := (passTo (s.rst.start + 20000) s).setFld F.DEV_CORE_RST_BUSY 0 0
       { u with mem := { u.mem with selfRefresh := false }
                cores := u.cores.map (fun kv => (kv.1, { kv.2 with inReset := false })) })))

/-- Each boot step runs when the one before it is complete. Out of its turn, the row of a step does nothing. OTP_LOAD
takes the newest valid generation of each record and applies it, or stops boot with code OTP where a required record
has none. FIRMWARE_VERIFICATION runs the active image if it is valid, else the other, and stops boot with code FW in
recovery where neither is. D2D_TRAINING stops boot with code STRAP where a strap is wrong, with code D2D where a path
has no live module, else step 4 is complete. COMPUTE_SELFTEST stops boot with code SELFTEST or starts the enabled
ports. Step 7 is complete once every enabled port is ACTIVE, DOWN or FAILED (the model's reading, assumption 115).
HOST_READY sets READY, ends STRICT_AUTO and lets the counters count. When boot stops with a code FAIL and the code
show, the completed step stays, and the BOOT progress slot's state is failed. (R359, R361, R362, R363, R393, R311,
R316, R320, R360) -/
def Obligations.BootStepsRun : Prop :=
  ∀ s : State, On s →
    (∀ (pins : BootPins) (bad : List (D2dId × Fin 36)) (failed : Bool) (k : Nat) (row : Instr),
      (k, row) ∈ [(1, Instr.otpLoad), (2, .firmwareVerification), (3, .d2dTraining pins bad), (5, .computeSelftest failed),
        (7, .hostReady)] → bootAt s k = false → Does row s s) ∧
    (bootAt s 1 = true →
      let w := loadGens s
      ([1, 2, 5].any (fun t => (otpInForce w t).isNone) = true → Does .otpLoad s (bootFail 1 w)) ∧
      ([1, 2, 5].any (fun t => (otpInForce w t).isNone) = false → Does .otpLoad s (bootTo 2 (applyOtp w)))) ∧
    (bootAt s 2 = true →
      (imageValid s (slotImage s s.sec.active) = none → imageValid s (slotImage s !s.sec.active) = none →
        Does .firmwareVerification s (bootFail 2 { s with sec := { s.sec with recovery := true } })) ∧
      ((imageValid s (slotImage s s.sec.active)).isSome = true ∨ (imageValid s (slotImage s !s.sec.active)).isSome = true →
        ∃ u, Does .firmwareVerification s u ∧ bootStep u = 3 ∧
          u.flag F.SEC_BOOT_STAT_FALLBACK = (imageValid s (slotImage s s.sec.active)).isNone)) ∧
    (bootAt s 3 = true → ∀ (pins : BootPins) (bad : List (D2dId × Fin 36)),
      let row := Instr.d2dTraining pins bad
      let errs := strapErrors (fun k => ((pins.straps[k]?).getD none).map (·.toNat))
      ∃ u, Does row s u ∧ u.d2d.guest = pins.guest ∧
        (errs ≠ [] → bootFailed u = true ∧ u.fld F.DEV_BOOT_STAT_CODE = 3 ∧ u.flag F.D2D_EVT_STRAP = true) ∧
        (errs = [] → (∃ p < 34, pathFitted u p = true ∧ pathLive u p = false) →
          bootFailed u = true ∧ u.fld F.DEV_BOOT_STAT_CODE = 4) ∧
        (errs = [] → (∀ p < 34, pathFitted u p = true → pathLive u p = true) → bootStep u = 4)) ∧
    (∀ code : Nat, code < 256 →
      bootFailed (bootFail code s) = true ∧ (bootFail code s).fld F.DEV_BOOT_STAT_CODE = code ∧
      bootStep (bootFail code s) = bootStep s ∧ ((bootFail code s).prog 0).st = 3) ∧
    (bootAt s 5 = true →
      Does (.computeSelftest true) s (bootFail 6 s) ∧
      Does (.computeSelftest false) s ((List.range 16).foldl (fun s p =>
        if s.flag F.LNK_CTL_EN p then startTrain p (s.fld F.LNK_CTL_MAXRATE p) s else s) (bootTo 6 s))) ∧
    (bootStep s = 6 → bootFailed s = false → (∀ p < 16, s.flag F.LNK_CTL_EN p = true →
      portState s p = psACTIVE ∨ psDOWN ≤ portState s p) → settleBoot s = bootTo 7 s) ∧
    (bootAt s 7 = true →
      let w := (hwFields ((bootTo 8 s).setFld F.DEV_BOOT_STAT_READY 0 1)).modPwr (fun p => { p with rampAt := s.now })
      Does .hostReady s ((w.setFld F.DEV_NUM_CTL_STRICT_AUTO 0 0).modDbg (fun d => { d with off := false })))

/-- A record is programmed once. A GO with the key, for a type and generation that pass the checks, sets BUSY and takes
the body from the buffer; one that fails them shows the reason and changes nothing else; without the key or with GO 0,
and while BUSY, nothing is programmed. The end of programming does nothing where none is in progress. When programming
ends well the header and body are in the slot and RESULT is DONE; otherwise the slot is spent and RESULT is VERIFY.
(R364, R365) -/
def Obligations.OtpProgramming : Prop :=
  (∀ (s : State) (v : BitVec 32), On s → ready s = true →
    let w := s.regWrite .OTP_PROG_CTL 0 v.toNat
    let t := w.fld F.OTP_PROG_CTL_TYPE
    let g := w.fld F.OTP_PROG_CTL_GEN
    let body := slice ((List.range 136).map (fun i => smGet 0 w.rst.buf i)) 0 (otpSize t - 8)
    let r := otpCheck w (fun t => t == 3 || t == 4 || t == 6) t g body
    (bitN v.toNat 16 = false ∨ bitsN v.toNat 8 8 ≠ 0xA5 ∨ w.flag F.OTP_PROG_STAT_BUSY = true → Does (.otpProgram v) s w) ∧
    (bitN v.toNat 16 = true → bitsN v.toNat 8 8 = 0xA5 → w.flag F.OTP_PROG_STAT_BUSY = false →
      (r ≠ otpDONE → Does (.otpProgram v) s (w.setReg .OTP_PROG_STAT 0 (wN (2 * r)))) ∧
      (r = otpDONE → Does (.otpProgram v) s
        (let x := w.setReg .OTP_PROG_STAT 0 1
         { x with rst := { x.rst with prog := some (t, g, body), progMgmt := false } })))) ∧
  (∀ s : State, On s → s.rst.prog = none → ∀ ok, Does (.otpProgramComplete ok) s s) ∧
  (∀ (s : State) (t g : Nat) (body : List Byte), On s → s.rst.prog = some (t, g, body) →
    s.rst.progMgmt = false →
    (∃ u, Does (.otpProgramComplete true) s u ∧ u.fld F.OTP_PROG_STAT_RESULT = otpDONE ∧
      u.flag F.OTP_PROG_STAT_BUSY = false ∧
      u.rst.otp = (burn (otpSlot t g) (otpHeader t g body ++ body) s).rst.otp) ∧
    (∃ u, Does (.otpProgramComplete false) s u ∧ u.fld F.OTP_PROG_STAT_RESULT = otpVERIFY ∧
      u.flag F.OTP_PROG_STAT_BUSY = false ∧ u.rst.otp = (spendSlot t g s).rst.otp))

/-- Entering Frost, the local cut, the dump and Thaw. Each marker row takes the marker at the head. A FREEZE of a running
device makes it STOPPING with source REG and the next FGEN, and in Frost it only counts an entry. A falling edge of
FROST_N does the same with source PIN where it is seen. A STOP marker of an older generation does nothing, one that
reaches a running device stops it with that generation. At the local cut of a local Frost with no FROST descriptor and
no Thaw due the state is CUT. A dump starts only at the cut and ends with DUMPED set - its header, every core and the
copy of the Vat written through the write-combining buffers, once the memory is not held - and changes no byte where
its area is not in HBM. A Thaw of a running device or of another FGEN does nothing, else it is due, and takes effect
at the cut once no dump runs, where a received one, or one asked for with TSCOPE, is forwarded once with the node it
came from; a Frost by POLICY stays at its cut and forwards it all the same. Leaving Frost the state is RUN. (R372,
R374, R375, R377, R378, R428, 18_ras_and_frost.md) -/
def Obligations.FrostStopsAndThaws : Prop :=
  ∀ (s : State), On s →
    (∀ p : PortId,
      let marker (kind : Nat) (f : List Byte) := fKind f == 3 && fSub f == 3 && fieldLe f 9 1 == kind
      TakesFlit s p (.stopMarker p) (marker 1)
        (seqFlit p.val (fun b s => takeStop (fieldLe (fBody b) 2 2) (fieldLe (fBody b) 5 2) s)) ∧
      TakesFlit s p (.roundMarker p) (marker 2)
        (seqFlit p.val (fun b s => takeRound p.val (fieldLe (fBody b) 2 2) (fieldLe (fBody b) 4 1) s)) ∧
      TakesFlit s p (.thawMarker p) (marker 3) (seqFlit p.val (fun b s => takeThaw (fieldLe (fBody b) 2 2) (fieldLe (fBody b) 5 2) s))) ∧
    (∀ gen origin : Nat,
      let t := s.modFrost (fun f => { f with
        thawDue := true, thawFwd := f.thawFwd || !f.thawSent
        thawBy := if f.thawFwd = false ∧ f.thawSent = false then origin else f.thawBy })
      (gen ≠ fgen s ∨ frostState s = fsRUN → takeThaw gen origin s = s) ∧
      (gen = fgen s → frostState s ≠ fsRUN → takeThaw gen origin s = tryThaw t) ∧
      (s.frost.thawDue = true → frostState s = fsCUT → s.frost.dumping = false →
        (s.fld F.DEV_FROST_STAT_SRC = fsrcPOLICY →
          tryThaw s = (forwardThaw s).modFrost (fun f => { f with thawDue := false }) ∧ frostState (tryThaw s) = fsCUT) ∧
        (s.fld F.DEV_FROST_STAT_SRC ≠ fsrcPOLICY → frostState (tryThaw s) = fsRUN ∧ (tryThaw s).frost.thawDue = false)) ∧
      (s.frost.thawDue = false ∨ frostState s ≠ fsCUT ∨ s.frost.dumping = true → tryThaw s = s)) ∧
    (ready s = true → ∀ scope : Bool,
      (frostState s = fsRUN → ∃ u, Does (.freeze scope) s u ∧ frostState u = fsSTOPPING ∧ u.fld F.DEV_FROST_STAT_SRC = fsrcREG ∧
        fgen u = (fgen s + 1) % 65536 ∧ u.frost.scope = (if scope then 1 else 0) ∧ u.frost.held = 0xFFF ∧ u.mem = s.mem ∧
        u.cores = s.cores) ∧
      (frostState s ≠ fsRUN → Does (.freeze scope) s (s.incSat F.DEV_FROST_STAT_ENTRIES))) ∧
    (∀ low : Bool,
      let t := s.modRst (fun r => { r with
        frostLow := low, frostHigh := if low = false ∧ r.frostLow = true then s.now else r.frostHigh })
      let seen := low = true ∧ s.rst.frostLow = false ∧ drivesFrostN s = false ∧ s.rst.frostHigh + 1000 ≤ s.now ∧
        ready s = true ∧ s.flag F.DEV_FROST_CTL_PIN_IN = true
      (seen → frostState s = fsRUN → ∃ u, Does (.frostN low) s u ∧ frostState u = fsSTOPPING ∧
        u.fld F.DEV_FROST_STAT_SRC = fsrcPIN ∧ fgen u = (fgen s + 1) % 65536 ∧
        u.frost.scope = s.fld F.DEV_FROST_CTL_PIN_SCOPE ∧ u.rst.frostLow = true ∧ s.now + 100 ≤ u.now) ∧
      (seen → frostState s ≠ fsRUN → Does (.frostN low) s ((passTime 100 t).incSat F.DEV_FROST_STAT_ENTRIES)) ∧
      (¬seen → Does (.frostN low) s t)) ∧
    (∀ gen origin : Nat,
      (gen < fgen s → takeStop gen origin s = s) ∧
      (fgen s ≤ gen → gen < 65536 → frostState s = fsRUN →
        let u := takeStop gen origin s
        frostState u = fsSTOPPING ∧ fgen u = gen ∧ u.fld F.DEV_FROST_STAT_SRC = fsrcMARKER ∧ u.frost.origin = origin)) ∧
    (let cut := frostState s = fsSTOPPING ∧ atLocalCut s = true
      let r := (s.setFld F.DEV_FROST_STAT_STATE 0 fsLOCAL).setFld F.DEV_FROST_STAT_ROUND 0 0
      (cut → Does .localCut s (frostAdvance (if s.frost.scope = 1 then sendMarker 2 0 r else r))) ∧
      (cut → s.frost.scope = 0 → s.frost.desc = none → s.frost.thawDue = false →
        ∃ u, Does .localCut s u ∧ frostState u = fsCUT ∧ u.frost.cutAt = s.timebase ∧ u.cores = s.cores) ∧
      (¬cut → Does .localCut s s)) ∧
    (ready s = true →
      (frostState s = fsCUT → s.frost.dumping = false →
        ∃ u, Does .dump s u ∧ u.frost.dumping = true ∧ u.mem = s.mem ∧ u.cores = s.cores ∧ u.regs = s.regs) ∧
      (frostState s ≠ fsCUT ∨ s.frost.dumping = true → Does .dump s s)) ∧
    (let a := s.fld F.DEV_FROST_DUMP_ADDR * 2 ^ 30
      let w := flushAll s
      let y := (List.range 4).foldl (fun s b => touch (vatBase + b * sliceSize) s) (needs vatBase 0x20000000 (needs a dumpSize w))
      let x := if rangeHbm w a dumpSize = true then
          copyRange vatBase (a + 0x4A000000) 0x20000000 (throughWcb (a + 0x4A000000) 0x20000000
            ((List.range 192).foldl (fun s c => dumpCore a c s)
              (layBytes a (dumpHeader y) (zeroSpan a (a + 0x10000) (throughWcb a 0x10000 y)))))
        else w
      (s.frost.dumping = false → Does .dumpComplete s s) ∧
      (s.frost.dumping = true →
        Effect .dumpComplete s (tryThaw (dumpProg 196 2
          ((x.setFld F.DEV_FROST_STAT_DUMPED 0 1).modFrost (fun f => { f with dumping := false })))) ∧
        (s.frost.thawDue = false → (rangeHbm s a dumpSize = true → heldRange s a dumpSize = false ∧ heldRange s vatBase 0x20000000 = false) →
          ∃ u, Does .dumpComplete s u ∧ u.flag F.DEV_FROST_STAT_DUMPED = true ∧
          u.frost.dumping = false ∧ (rangeHbm s a dumpSize = false → ∀ a, rd8 u a = rd8 s a)))) ∧
    (ready s = true → ∀ fwd : Bool,
      (frostState s = fsRUN → Does (.thaw fwd) s s) ∧
      (frostState s ≠ fsRUN → Does (.thaw fwd) s (tryThaw (s.modFrost (fun f => { f with
        thawDue := true, thawFwd := f.thawFwd || (fwd && !f.thawSent)
        thawBy := if fwd = true ∧ f.thawFwd = false ∧ f.thawSent = false then nodeId s else f.thawBy }))))) ∧
    frostState (leaveFrost s) = fsRUN ∧ (leaveFrost s).mem = s.mem ∧ (leaveFrost s).cores = s.cores

/-- Samples and resets of counter banks, the trace window and drain, the wait-for graph and halting. Where no request of
the operation is next to be taken for its bank, nothing happens. One not permitted is REFUSED. SAMPLE writes a record
of the values and resets nothing, SAMPLE_RESET writes them and resets; a bank none of whose slices and stacks has been
accessed since the last arbitration shows exactly what was counted. RESET and SAMPLE_RESET leave the counters of the
bank at 0 and advance its epoch. A trace window begins at a multiple of 10 microseconds and takes the trace control as
it stands. The drain ends with EN at 0. A wait-for graph keeps the edges of its first read, and its image holds those
that stand in both reads, for the host, or for the management controller that asked. HALT of a core is kept and, where
it changes, the start of its wait is noted. (R381, R382, R383, R385, R386, R389, R390, R391, R392,
19_debug_and_profiling.md) -/
def Obligations.DebugReads : Prop :=
  ∀ (s : State), On s →
    (∀ (ctx : CtxId) (ok : Bool) (op : Nat) (row : Instr) (bank o at0 : Nat),
      (op, row) ∈ [(1, Instr.sample ctx ok), (2, .resetBank ctx ok), (3, .sampleReset ctx ok)] →
      (smGet none s.dbg.snap ctx.val = none → Does row s s) ∧
      (smGet none s.dbg.snap ctx.val = some (bank, o, at0) → o % 4 ≠ op ∨ snapFirst s ctx.val bank at0 = false → Does row s s) ∧
      (smGet none s.dbg.snap ctx.val = some (bank, o, at0) → o % 4 = op → snapFirst s ctx.val bank at0 = true →
      let e := epochOf s bank
      let rec_ (x : State) := snapBytes bank op 0 e s.timebase ((List.range (bankSize bank)).map (bankValue x bank))
      (4 ≤ o → ∃ u, Does row s u ∧ u.flag F.DBG_SNAP_CMD_BUSY ctx.val = false ∧ u.flag F.DBG_SNAP_CMD_REFUSED ctx.val = true ∧
        u.dbg.banks = s.dbg.banks ∧ epochOf u bank = e ∧ u.mem = s.mem) ∧
      (o < 4 → op = 1 → ∃ u, Does row s u ∧ u.flag F.DBG_SNAP_CMD_BUSY ctx.val = false ∧ epochOf u bank = e ∧ u.mem = s.mem ∧
        (bank ≠ 192 ∨ s.dbg.touched % 2 ^ 24 = 0 → ∀ k, bankValue u bank k = bankValue s bank k) ∧
        (ok = true → u.out = .hostWrite ctx.val (s.fld F.DBG_SNAP_ADDR_ADDR ctx.val * 64) (rec_ u) false :: s.out) ∧
        (ok = false → u.flag F.DBG_SNAP_CMD_FAIL ctx.val = true)) ∧
      (o < 4 → 1 < op → ∃ u, Does row s u ∧ u.flag F.DBG_SNAP_CMD_BUSY ctx.val = false ∧ epochOf u bank = (e + 1) % 2 ^ 32 ∧
        (∀ k, k < 128 → bank ≠ 193 → bankValue u bank k = 0) ∧ (∀ k, k < 8 → bank = 193 → bankValue u bank k = 0) ∧
        u.mem = s.mem ∧ (ok = false → u.flag F.DBG_SNAP_CMD_FAIL ctx.val = true) ∧
        (ok = true → op = 3 → u.out = .hostWrite ctx.val (s.fld F.DBG_SNAP_ADDR_ADDR ctx.val * 64) (rec_ (foldFree bank s)) false :: s.out)))) ∧
    (∃ u, Does .traceBudgetWindow s u ∧ u.timebase % 10000 = 0 ∧ s.timebase < u.timebase ∧
      u.dbg.ctl = (s.reg .DBG_TRC_CTL 0).toNat ∧ u.mem = s.mem) ∧
    (s.dbg.drain = false → Does .traceDrainComplete s s) ∧
    (s.dbg.drain = true → ∃ u, Does .traceDrainComplete s u ∧ u.flag F.DBG_TRC_CTL_EN = false ∧ u.dbg.drain = false) ∧
    (ready s = true →
      (s.dbg.wfg ≠ none → Does .waitForGraph s s) ∧
      (s.dbg.wfg = none → ∃ u, Does .waitForGraph s u ∧ u.flag F.DBG_WFG_CTL_GO = true ∧
        u.dbg.wfg = some (s.timebase, allEdges s s.timebase, false) ∧ u.mem = s.mem ∧ u.cores = s.cores)) ∧
    (s.dbg.wfg = none → ∀ ok, Does (.waitForGraphComplete ok) s s) ∧
    (∀ (ok : Bool) (t : Nat) (first : List Edge), s.dbg.wfg = some (t, first, true) →
      ∃ u, Does (.waitForGraphComplete ok) s u ∧ u.dbg.wfg = none ∧ u.out = s.out ∧ u.mem = s.mem ∧ u.dbg.image =
        graphBytes (nodeId s) t s.timebase ((first.filter (fun e => (allEdges s t).contains e)).take 32766)) ∧
    (∀ (ok : Bool) (t : Nat) (first : List Edge), s.dbg.wfg = some (t, first, false) →
      let l := first.filter (fun e => (allEdges s t).contains e)
      ∃ u, Does (.waitForGraphComplete ok) s u ∧ u.dbg.wfg = none ∧ u.flag F.DBG_WFG_CTL_GO = false ∧ u.mem = s.mem ∧
        (u.flag F.DBG_WFG_CTL_TRUNC = true ↔ 32766 < l.length) ∧
        (ok = false → u.flag F.DBG_WFG_CTL_FAIL = true ∧ u.out = s.out) ∧
        (ok = true → u.out = .hostWrite 0 (s.fld F.DBG_WFG_ADDR_ADDR * 4096)
          (graphBytes (nodeId s) t s.timebase (l.take 32766)) false :: s.out)) ∧
    (ready s = true → ∀ (c : CoreId) (v : BitVec 32),
      let w := s.regWrite .CORE_DBG_CTL c.val v.toNat
      (w.flag F.CORE_DBG_CTL_HALT c.val = s.flag F.CORE_DBG_CTL_HALT c.val → Does (.halt c v) s w) ∧
      (w.flag F.CORE_DBG_CTL_HALT c.val ≠ s.flag F.CORE_DBG_CTL_HALT c.val → (s.core c.val).shown.1 ≠ wkDEBUG →
        ∃ u, Does (.halt c v) s u ∧ u.regs = w.regs ∧ u.core c.val = { s.core c.val with waitSince := s.timebase } ∧
          (∀ d, d ≠ c.val → u.core d = s.core d) ∧ u.mem = s.mem))

/-- A request of Table 20.3 that is heard: the DOE mailbox serves the PF only. -/
def Heard : Via → Prop
  | .doe fn => fn.val = 0
  | .unlisted _ => False
  | _ => True

/-- The answer to a request stands first in what the device has sent: a code and its body. -/
def Answers (i : Instr) (s : State) (code : Nat) (body : List Byte) : Prop :=
  ∃ u, Does i s u ∧ u.out = .reply code body :: s.out ∧ u.mem = s.mem ∧ u.regs = s.regs ∧ u.cores = s.cores

/-- The SPDM responder, its sessions, link keys and the digest registers. From boot step 3 each request that is heard is
answered, and a message that Table 20.3 does not list with UnsupportedRequest. The certificate chain begins with one
identity whatever firmware runs, and ends with the alias of digest 3; GET_DIGESTS gives its SHA-384. A measurement's
answer begins with the digest of its index and the nonce (index 0, the number of digests, and 255, all of them, are
the model's choice, assumption 123). KEY_EXCHANGE opens at most four sessions, FINISH opens one whose proof verifies,
requests in a session that is not open are refused, KEY_UPDATE counts its keys and END_SESSION ends it. A key area is
effective with its word 8, the last, and a write beyond it does nothing (the model's reading, assumption 127).
SEC_MEAS reads, eight bytes or four, the digest latched by the read of its first byte (for four bytes the model's
choice, assumption 185). The reply numbers are the model's own. (R395, R396, R401, R409,
20_security_and_management.md) -/
def Obligations.SessionsAreServed : Prop :=
  ∀ (s : State), On s →
    (∀ via : Via, mgmtUp s = true → Heard via →
      Answers (.getVersion via) s 0x100 [0x13] ∧ Answers (.getCapabilities via) s 0x101 [] ∧
      Answers (.negotiateAlgorithms via true) s 0x102 [] ∧ Answers (.negotiateAlgorithms via false) s spUNSUP [] ∧
      Answers (.getDigests via) s 0x103 (Config.sha384 (Config.identityChain ++ Config.aliasCert (measOf s 3))) ∧
      (∀ off len : Fin 65536, Answers (.getCertificate via 0 off len) s 0x104
        (((Config.identityChain ++ Config.aliasCert (measOf s 3)).drop off).take len)) ∧
      (∀ (slot : Fin 8) (off len : Fin 65536), slot ≠ 0 → Answers (.getCertificate via slot off len) s spUNSUP []) ∧
      (∀ n : List Byte, ∃ sig, sig.length = 96 ∧ Answers (.challenge via 0 n) s 0x105 (n ++ sig)) ∧
      (∀ (slot : Fin 8) (n : List Byte), slot ≠ 0 → Answers (.challenge via slot n) s spUNSUP []) ∧
      (∀ (i : Fin 256) (n : List Byte), 1 ≤ i.val → i.val ≤ 5 →
        ∃ sig, sig.length = 96 ∧ Answers (.getMeasurements via i n) s 0x106 (measOf s i.val ++ n ++ sig)) ∧
      (∀ n : List Byte, (∃ sig, sig.length = 96 ∧ Answers (.getMeasurements via 0 n) s 0x106 (natLe 1 5 ++ n ++ sig)) ∧
        ∃ sig, sig.length = 96 ∧ Answers (.getMeasurements via 255 n) s 0x106
          (((List.range 5).flatMap (fun k => measOf s (k + 1))) ++ n ++ sig)) ∧
      (∀ (i : Fin 256) (n : List Byte), 5 < i.val → i.val < 255 → Answers (.getMeasurements via i n) s spUNSUP []) ∧
      (∀ data : List Byte,
        (s.sec.sessions.length < 4 → ∃ u x sig, Does (.keyExchange via 0 data) s u ∧
          u.sec.sessions = s.sec.sessions ++ [x] ∧ x.id = s.sec.nextSession ∧ x.open_ = false ∧ sig.length = 96 ∧
          u.out = .reply 0x107 (natLe 2 x.id ++ data ++ sig) :: s.out ∧ u.mem = s.mem) ∧
        (4 ≤ s.sec.sessions.length → Answers (.keyExchange via 0 data) s spBUSY []) ∧
        (∀ slot : Fin 8, slot ≠ 0 → Answers (.keyExchange via slot data) s spUNSUP [])) ∧
      (∀ id : Fin 65536,
        (hasSession s id = true → (∃ u, Does (.finish via id true) s u ∧ openSession u id = true ∧ u.mem = s.mem) ∧
          ∃ u, Does (.finish via id false) s u ∧ hasSession u id = false ∧ u.mem = s.mem) ∧
        (hasSession s id = false → ∀ v, Answers (.finish via id v) s spNOSESS []) ∧
        (openSession s id = false → Answers (.heartbeat via id) s spNOSESS [] ∧ Answers (.keyUpdate via id) s spNOSESS [] ∧
          Answers (.endSession via id) s spNOSESS []) ∧
        (openSession s id = true → Answers (.heartbeat via id) s 0x109 (natLe 2 id.val) ∧
          (∃ u, Does (.keyUpdate via id) s u ∧ openSession u id = true ∧ u.mem = s.mem ∧
            u.sec.sessions = s.sec.sessions.map (fun y => if y.id == id.val then { y with keys := y.keys + 1 } else y)) ∧
          ∃ u, Does (.endSession via id) s u ∧ hasSession u id = false ∧ u.mem = s.mem))) ∧
    (mgmtUp s = true → ∀ fn : Option CtxId, fn = none ∨ fn = some 0 → let via := Via.unlisted fn
      (∀ ok, Answers (.negotiateAlgorithms via ok) s spUNSUP []) ∧
      (∀ row ∈ [Instr.getVersion via, .getCapabilities via, .getDigests via], Answers row s spUNSUP []) ∧
      (∀ (slot : Fin 8) (n : List Byte) (off len id : Fin 65536) (i : Fin 256) (ok : Bool),
        ∀ row ∈ [Instr.getCertificate via slot off len, .challenge via slot n, .getMeasurements via i n, .keyExchange via slot n,
          .finish via id ok, .heartbeat via id, .keyUpdate via id, .endSession via id], Answers row s spUNSUP [])) ∧
    (ready s = true → ∀ (p : PortId) (j : Fin 4) (w : Fin 16) (v : BitVec 32),
      let busy := j.val < 2 ∧ s.fld F.SEC_LNK_CTL_TXSLOT p.val = j.val ∧ s.flag F.SEC_LNK_CTL_ACTIVE p.val = true
      (busy ∨ 8 < w.val → Does (.secLnkKey p j w v) s s) ∧
      (¬busy → w.val < 8 → ∃ u, Does (.secLnkKey p j w v) s u ∧
        fieldLe (smGet [] (u.port p.val).staged j.val) (4 * w.val) 4 = v.toNat ∧ (u.port p.val).keys = (s.port p.val).keys ∧
        u.regs = s.regs ∧ u.mem = s.mem) ∧
      (¬busy → w.val = 8 → ∃ u, Does (.secLnkKey p j w v) s u ∧
        fieldLe (smGet [] (u.port p.val).keys j.val) 32 4 = v.toNat ∧ smGet 0 (u.port p.val).bctr j.val = 0 ∧
        bitN (u.fld F.SEC_LNK_STAT_KEYSET p.val) j.val = true ∧ u.mem = s.mem)) ∧
    (∀ (i : Fin 6) (w : MeasWord),
      let o := match w.half with | none => 8 * w.word.val | some h => 8 * w.word.val + 4 * h.val
      let n := if w.half = none then 8 else 4
      (i = 0 ∨ ready s = false → Does (.secMeasRead i w) s (emit (.completion true (natLe n 0) false) s)) ∧
      (i ≠ 0 → ready s = true → o = 0 → ∃ u, Does (.secMeasRead i w) s u ∧ smGet [] u.sec.latch i.val = measOf s i.val ∧
        u.out = .completion true (slice (measOf s i.val) 0 n) false :: s.out ∧ u.mem = s.mem) ∧
      (i ≠ 0 → ready s = true → o ≠ 0 →
        Does (.secMeasRead i w) s (emit (.completion true (slice (smGet [] s.sec.latch i.val) o n) false) s)))

/-- Vendor commands, sensors, effecters, firmware update and MCTP control, each under its authorisation. A command that
changes state is accepted over I3C or in an open session and otherwise answers 0x05 and changes nothing. RESET begins
a system reset, EXT_CAP sets the cap, FROST enters Frost or asks for Thaw, OTP_NONCE keeps a nonce, OTP_AUTH programs
a record that verifies and uses the nonce up, and what it returns is RESULT (that it is refused while BUSY is the
model's reading, assumption 125), BOOT_STATUS and sensors answer. A refresh waits 10 ms. An update erases the slot
that does not run, or in recovery the one asked for, takes blocks, is verified, and is activated; a second agent is
answered ALREADY_IN_UPDATE_MODE (that the slot is erased at the request, that no blocks are refused and that a second
request of the same agent is are the model's choices, assumption 126). Set Endpoint ID over I3C is kept, and the
endpoint identifier and the message types are answered (MCTP control commands 1, 2 and 5 are the model's choice,
assumption 123). The reply numbers are the model's own. (R326, R390, R403, R404, R405, R406,
20_security_and_management.md) -/
def Obligations.ManagementCommands : Prop :=
  ∀ (s : State) (via : Via), On s →
    (mgmtUp s = true →
      (mayChange s via = false → Answers (.vdmReset via) s 0x201 [5] ∧ (∀ cap en, Answers (.extCap via cap en) s 0x202 [5]) ∧
        (∀ thaw scope, Answers (.vdmFrost via thaw scope) s 0x204 [5]) ∧
        (∀ t g body sig, Answers (.otpAuth via t g body sig) s 0x206 [5]) ∧
        (∀ cap en, Answers (.extCapEffecter via cap en) s 0x380 [5]) ∧ Answers (.resetEffecter via) s 0x381 [5]) ∧
      (mayAsk s via = false → (∀ c, Answers (.wfg via c) s 0x203 [5]) ∧ Answers (.otpNonce via) s 0x205 [5] ∧
        Answers (.bootStatus via) s 0x207 [5] ∧ (∀ id, Answers (.pldmSensorRead via id) s 0x300 [5])) ∧
      (mayChange s via = true →
        (s.rst.vsb = true → (∃ u, Does (.vdmReset via) s u ∧ ResetBegun 2 srcMGMT s u) ∧
          ∃ u, Does (.resetEffecter via) s u ∧ ResetBegun 2 srcMGMT s u) ∧
        (∀ (cap : BitVec 12) (en : Bool), ∀ row ∈ [Instr.extCap via cap en, .extCapEffecter via cap en], ∃ u, Does row s u ∧
          u.fld F.PWR_EXT_CAP_CAP = cap.toNat ∧ u.flag F.PWR_EXT_CAP_EN = en ∧ u.mem = s.mem ∧
          (en = true → u.fld F.PWR_MEAS_CAP_EFF ≤ cap.toNat)) ∧
        (∀ scope : Bool, Does (.vdmFrost via true scope) s (askThaw scope (reply 0x204 [0] s)) ∧
          (frostState s = fsRUN → ∃ u, Does (.vdmFrost via false scope) s u ∧ frostState u = fsSTOPPING ∧
            u.fld F.DEV_FROST_STAT_SRC = fsrcMGMT ∧ fgen u = (fgen s + 1) % 65536)) ∧
        (∀ (t : Fin 16) (g : Fin 4) (body sig : List Byte),
          let x := s.modSec (fun x => { x with nonce := none })
          let msg := natLe 8 (s.reg .DEV_SERIAL 0).toNat ++ natLe 1 t ++ natLe 1 g ++ body ++ s.sec.nonce.getD []
          let b := slice body 0 (otpSize t.val - 8)
          let auth := s.sec.nonce ≠ none ∧ Config.verify (runningKey s) msg sig = true ∧ s.flag F.OTP_PROG_STAT_BUSY = false
          let zero := t.val = 5 ∧ ∀ c ∈ slice body 0 96, c = 0
          let good := auth ∧ ¬zero
          (auth → zero → ∃ u, Does (.otpAuth via t g body sig) s u ∧ u.sec.nonce = none ∧ u.rst = s.rst ∧
            u.fld F.OTP_PROG_STAT_RESULT = otpREFUSED ∧ u.out = .reply 0x206 [0, BitVec.ofNat 8 otpREFUSED] :: s.out) ∧
          (¬auth → ∃ u, Does (.otpAuth via t g body sig) s u ∧ u.sec.nonce = none ∧ u.rst = s.rst ∧ u.regs = s.regs ∧
            u.out = .reply 0x206 [0, BitVec.ofNat 8 otpREFUSED] :: s.out) ∧
          (good → otpCheck x (fun t => t == 1 || t == 2 || t == 5) t.val g.val b = otpDONE →
            ∃ u, Does (.otpAuth via t g body sig) s u ∧ u.sec.nonce = none ∧ u.rst.prog = some (t.val, g.val, b) ∧
              u.flag F.OTP_PROG_STAT_BUSY = true) ∧
          (good → otpCheck x (fun t => t == 1 || t == 2 || t == 5) t.val g.val b ≠ otpDONE →
            ∃ u, Does (.otpAuth via t g body sig) s u ∧ u.sec.nonce = none ∧ u.rst = s.rst ∧
              u.fld F.OTP_PROG_STAT_RESULT = otpCheck x (fun t => t == 1 || t == 2 || t == 5) t.val g.val b ∧
              u.out = .reply 0x206 [0, BitVec.ofNat 8 (otpCheck x (fun t => t == 1 || t == 2 || t == 5) t.val g.val b)] :: s.out))) ∧
      (mayAsk s via = true →
        (∃ u n, Does (.otpNonce via) s u ∧ n.length = 32 ∧ u.sec.nonce = some n ∧ u.out = .reply 0x205 (0 :: n) :: s.out ∧
          u.mem = s.mem) ∧
        Answers (.bootStatus via) s 0x207 (0 :: (natLe 4 (s.reg .DEV_BOOT_STAT 0).toNat ++
          natLe 8 (s.reg .DEV_RST_CAUSE 0).toNat ++ natLe 8 (s.reg .DEV_RST_CNT 0).toNat)) ∧
        (s.dbg.wfg = none → ∃ u, Does (.wfg via 0) s u ∧ u.dbg.wfg = some (s.timebase, allEdges s s.timebase, true) ∧
          u.out = .reply 0x203 [0] :: s.out) ∧
        (∀ c : Fin 65536, c ≠ 0 →
          Answers (.wfg via c) s 0x203 (0 :: ((s.dbg.image.drop (512 * (c.val - 1))).take 512))) ∧
        (∀ id : Fin 65536, (sensorNow s id = none → Answers (.pldmSensorRead via id) s 0x300 [1]) ∧
          (sensorNow s id ≠ none → Answers (.pldmSensorRead via id) s 0x300 (0 :: natLe 8 (smGet 0 s.sec.sensors id)))))) ∧
    (∃ u, Does .sensorRefresh s u ∧ s.sec.sensedAt + 10000000 ≤ u.now ∧ u.sec.events = [] ∧ u.sec.sensedAt = u.now ∧
      (∀ id v, id < 55 → sensorNow u id = some v → smGet 0 u.sec.sensors id = v) ∧ u.mem = s.mem) ∧
    (pldmUp s = true →
      (∀ (agent : Fin 256) (blocks : Fin 385) (slot : Bool),
        (s.sec.update ≠ none → Answers (.requestUpdate agent blocks slot) s 0x501 [updBUSY]) ∧
        (s.sec.update = none → blocks = 0 → Answers (.requestUpdate agent blocks slot) s 0x501 [2]) ∧
        (s.sec.update = none → blocks ≠ 0 →
          let b := if s.sec.recovery then slot else !(s.flag F.SEC_BOOT_STAT_SLOT)
          ∃ u x, Does (.requestUpdate agent blocks slot) s u ∧ u.sec.update = some x ∧ x.agent = agent.val ∧ x.slot = b ∧
            x.total = blocks.val ∧ x.blocks = [] ∧ slotImage u b = .erased ∧ slotImage u (!b) = slotImage s (!b) ∧
            u.sec.active = s.sec.active)) ∧
      (∀ (agent : Fin 256) (data : List Byte) (x : FwUpdate), s.sec.update = some x → x.agent = agent.val →
        x.blocks.length < x.total →
        let l := x.blocks ++ [slice data 0 65536]
        (l.length < x.total → ∃ u, Does (.firmwareBlockTransfer agent data) s u ∧
          u.sec.update = some { x with blocks := l } ∧ (u.prog 5).dn = l.length ∧ u.mem = s.mem) ∧
        (l.length = x.total → ∃ u y, Does (.firmwareBlockTransfer agent data) s u ∧ u.sec.active = s.sec.active ∧ u.mem = s.mem ∧
          ((y = true ∧ u.sec.update = some { x with blocks := l, good := true } ∧ slotImage u x.slot = .written l) ∨
            (y = false ∧ u.sec.update = none ∧ slotImage u x.slot = .erased)) ∧
          ((imageValid s (.written l)).isSome = y))) ∧
      (∀ (agent : Fin 256) (x : FwUpdate), s.sec.update = some x →
        (x.agent = agent.val → x.good = true → ∃ u, Does (.activateFirmware agent) s u ∧ u.sec.active = x.slot ∧
          u.sec.update = none ∧ u.mem = s.mem) ∧
        (x.agent = agent.val → x.good = false → Does (.activateFirmware agent) s s) ∧
        (x.agent ≠ agent.val → Answers (.activateFirmware agent) s 0x503 [updBUSY]) ∧
        (∀ data : List Byte, (x.agent ≠ agent.val → Answers (.firmwareBlockTransfer agent data) s 0x502 [updBUSY]) ∧
          (x.agent = agent.val → x.total ≤ x.blocks.length → Does (.firmwareBlockTransfer agent data) s s))) ∧
      (s.sec.update = none → ∀ (agent : Fin 256) (data : List Byte),
        Does (.activateFirmware agent) s s ∧ Does (.firmwareBlockTransfer agent data) s s) ∧
      (∀ a : Fin 256, (∃ u, Does (.mctpControlMessage .i3c 1 a) s u ∧ u.sec.eid = a.val ∧ u.mem = s.mem) ∧
        (via ≠ .i3c → Answers (.mctpControlMessage via 1 a) s 0x400 [1]) ∧
        Answers (.mctpControlMessage via 2 a) s 0x400 (0 :: natLe 1 s.sec.eid) ∧
        Answers (.mctpControlMessage via 5 a) s 0x400 [0, 5, 0x00, 0x01, 0x05, 0x06, 0x7E] ∧
        ∀ c : Fin 256, c ≠ 1 → c ≠ 2 → c ≠ 5 → Answers (.mctpControlMessage via c a) s 0x400 [5]))

/-- A register whose write has no command of its own and does what its access codes say. -/
def PlainReg (r : Reg) : Prop :=
  r.info.txn = false ∧ ∀ (fn i v mask : Nat) (s : State), writeReg fn r i v mask s = s.regWrite r i v

/-- Registers of every block whose writes are plain. -/
def plainRegs : List Reg :=
  [.DEV_NUM_CTL, .DEV_ERR_POLICY, .DEV_ERR_LOG_BASE, .DEV_ERR_CTX, .TXN_VIEW, .TXN_CTL, .FE_POLL_CTL, .FE_BAR4_OFFSET,
   .FE_FLT_BASE, .SYNC_RALN_STAT, .PWR_RAMP_UP, .PWR_BALLAST, .PWR_THAW, .PWR_RAIL_CTL,
   .PWR_ALERT_MASK, .PWR_THERM, .PWR_EVT, .MEM_SCRUB_CTL, .FAB_ESC_CTL, .FAB_TP_CTL, .FAB_CTL,
   .LNK_STAT, .COL_GRP_STAT, .DBG_SNAP_ADDR, .DBG_WFG_ADDR, .CORE_VEC_FLAGS, .CORE_SR_SEED]

/-- A BAR0 write of a plain register, and what a write of a field does under each access code. A write of a register
changes a field so - RW takes the value written if its table accepts it and keeps its value otherwise, RO and WO keep
what they hold, W1C clears the bits written as 1 and W1S sets them. No bit outside the field changes. A PF write at
the offset of a plain register, 8 bytes for a 64-bit register and 4 for a 32-bit one, changes the register as its
access codes say and nothing else. A write that is misaligned, or of another length than 4 or 8 bytes, is discarded,
and a set-up register of a context that does not exist takes no write. (R6, R8, R192, R407, R408, R414,
21_setup_registers_and_transactions.md) -/
def Obligations.RegisterWritesTakeEffect : Prop :=
  (∀ (old v : Nat) (f : FieldSpec), f.lsb + f.width ≤ 64 →
    let o := bitsN old f.lsb f.width
    let x := bitsN v f.lsb f.width
    bitsN (writeField old v f) f.lsb f.width =
      (match f.acc with
        | .rw => if f.lo ≤ x ∧ x ≤ f.hi then x else o
        | .ro => o
        | .wo => o
        | .w1c => o &&& (x ^^^ (2 ^ f.width - 1))
        | .w1s => o ||| x) ∧
    (∀ l w, l + w ≤ f.lsb ∨ f.lsb + f.width ≤ l → bitsN (writeField old v f) l w = bitsN old l w)) ∧
  (∀ r ∈ plainRegs, PlainReg r) ∧
  (∀ r ∈ [Reg.FE_CTX_CFG, .SYNC_CTX_TBL, .MEM_CTX_PTBASE], ∀ (fn i v mask : Nat) (s : State),
    writeReg fn r i v mask s = if ctxExists s i then s.regWrite r i v else s) ∧
  (∀ (s : State) (off : Fin 0x2000000) (v : Word) (r : Reg) (i : Nat), On s → ready s = true → PlainReg r →
    regAt off = some (r, i, 0) →
    (r.info.width = 64 → off.val % 8 = 0 →
      Does (.registerWrite 0 off 8 v) s (s.regWrite r i (mergeWrite r (s.reg r i).toNat v.toNat (2 ^ 64 - 1)))) ∧
    (off.val % 4 = 0 →
      Does (.registerWrite 0 off 4 v) s
        (s.regWrite r i (mergeWrite r (s.reg r i).toNat (v.toNat % 2 ^ 32) (2 ^ 32 - 1))))) ∧
  (∀ (s : State) (fn : CtxId) (off : Fin 0x2000000) (len : Fin 4097) (v : Word), On s →
    ((len.val ≠ 4 ∧ len.val ≠ 8) ∨ off.val % len.val ≠ 0) → Does (.registerWrite fn off len v) s s ∧ Does (.shadowWrite fn off len v) s s)

/-- A VF's write outside its grants changes nothing. If no byte that a VF's BAR0 access covers lies in a register that
Table 21.2 lets that VF write, the access has no effect at all - no register, shadow, array or unit changes. (R192,
R193, R412) -/
def Obligations.VfWritesOnlyItsGrants : Prop :=
  ∀ (s : State) (fn : CtxId) (off : Fin 0x2000000) (len : Fin 4097) (v : Word), On s → fn ≠ 0 →
    (∀ (k : Nat) (r : Reg) (i b : Nat), k < len.val → regAt (off.val + k) = some (r, i, b) →
      vfMayWrite s fn r i = false) →
    Does (.registerWrite fn off len v) s s ∧ Does (.shadowWrite fn off len v) s s

/-- A write to a transactional register goes to its shadow. While the transaction is OPEN, a write changes the shadow
under the field rules of the register and marks it dirty, and the committed register stays as it is. At any other time
it is ignored and sets TXN_STAT.STRAY. (R414, R416) -/
def Obligations.ShadowWrites : Prop :=
  ∀ (s : State) (off : Fin 0x2000000) (v : Word) (r : Reg) (i : Nat), On s → ready s = true →
    regAt off = some (r, i, 0) → r.info.txn = true → off.val % 4 = 0 → (isWindowReg r = true → s.d2d.guest = true) →
    (txState s ≠ txOPEN →
      Does (.shadowWrite 0 off 4 v) s (s.setFld F.TXN_STAT_STRAY 0 1) ∧
      Does (.registerWrite 0 off 4 v) s (s.setFld F.TXN_STAT_STRAY 0 1)) ∧
    (txState s = txOPEN →
      let old := (shadowOf s r i).toNat
      let new := r.info.fields.foldl (fun o f => writeField o (mergeWrite r old (v.toNat % 2 ^ 32) (2 ^ 32 - 1)) f) old
      ∃ u, Does (.shadowWrite 0 off 4 v) s u ∧ shadowOf u r i = wN new ∧ isDirty u r i = true ∧
        (∀ r' i', regKey r' i' ≠ regKey .TXN_STAT 0 → u.reg r' i' = s.reg r' i') ∧
        (∀ r' i', regKey r' i' ≠ regKey r i → regKey r' i' ≠ regKey .TXN_STAT 0 → shadowOf u r' i' = shadowOf s r' i'))

/-- TXN_BEGIN, and commands that do not match the state. TXN_BEGIN while IDLE copies every committed value into its
shadow, clears every dirty mark and enters OPEN. A TXN_BEGIN that does not find IDLE, a TXN_COMMIT that does not find
OPEN and a TXN_ABORT that finds IDLE are ignored and set BADREQ. (R415) -/
def Obligations.TransactionBegins : Prop :=
  ∀ s : State, On s → ready s = true →
    (txState s = txIDLE → ∃ u, Does (.txnBegin 0) s u ∧ txState u = txOPEN ∧
      (∀ r i, shadowOf u r i = u.reg r i ∧ isDirty u r i = false) ∧
      (∀ r i, regKey r i ≠ regKey .TXN_STAT 0 → u.reg r i = s.reg r i)) ∧
    (txState s ≠ txIDLE → Does (.txnBegin 0) s (s.setFld F.TXN_STAT_BADREQ 0 1)) ∧
    (txState s ≠ txOPEN → Does (.txnCommit 0) s (s.setFld F.TXN_STAT_BADREQ 0 1)) ∧
    (txState s = txIDLE → Does (.txnAbort 0) s (s.setFld F.TXN_STAT_BADREQ 0 1))

/-- Commit, apply, timeout and abort of a transaction. A commit of nothing is DONE at once. One that breaks a commit rule
is REJECTED with the lowest offset, keeps its shadows and stays OPEN. One that validates is COMMITTING, and its
progress counts the step and each unit that has reached quiescence since. When every affected unit is quiescent the
shadows become the committed values (here - where no partition, interleave, node identity, port limit or window
changes), the state is IDLE and RESULT is DONE. A timeout goes back to OPEN with RESULT QUIESCE. An abort discards the
shadows, with RESULT ABORTED. What is not due, and what another function than the PF asks, does nothing. (R417, R418,
R419, R420) -/
def Obligations.TransactionEnds : Prop :=
  ∀ s : State, On s →
    (ready s = true → txState s = txOPEN → s.txn.shadows = [] →
      Does (.txnCommit 0) s (txnProg 0 0 2 ((txnResult txIDLE txDONE s).incWrap F.TXN_STAT_SEQ))) ∧
    (ready s = true → txState s = txOPEN → s.txn.shadows ≠ [] → ∀ off, lowestOf (commitFails s (withShadows s)) = some off →
      ∃ u, Does (.txnCommit 0) s u ∧ txState u = txOPEN ∧ u.fld F.TXN_STAT_RESULT = txREJECTED ∧ u.txn = s.txn ∧
        u.fld F.TXN_STAT_OFFSET = off % 2 ^ 25) ∧
    (ready s = true → txState s = txOPEN → s.txn.shadows ≠ [] → commitFails s (withShadows s) = [] →
      ∃ u, Does (.txnCommit 0) s u ∧ txState u = txCOMMITTING ∧ u.txn.shadows = s.txn.shadows ∧
        u.txn.deadline = timerFrom s + s.fld F.TXN_CTL_TMO * 1000000 ∧
        (let l := commitUnits s (withShadows s)
         u.prog 2 = ⟨1 + (l.filter (fun b => b)).length, l.length + 2, 1, 0, s.timebase⟩)) ∧
    (txState s ≠ txCOMMITTING → Does .txnApply s s ∧ Does .txnTimeout s s) ∧
    (txState s = txCOMMITTING →
      ((commitUnits s (withShadows s)).all (fun b => b) = false → Does .txnApply s s) ∧
      (frozen s = true ∨ (commitUnits s (withShadows s)).all (fun b => b) = true → Does .txnTimeout s s)) ∧
    (txState s = txCOMMITTING → (commitUnits s (withShadows s)).all (fun b => b) = true →
      let t := withShadows s
      localIlv s = localIlv t → (∀ b, vatPart_ s b = vatPart_ t b) → changes s t .FAB_NODE 0 = false →
      (∀ p < 16, linkDiffers s t p = false ∧ credDiffers s t p = false) → (∀ w < 16, gwDirty s w = false) →
      let n := (commitUnits s t).length + 2
      Does .txnApply s (txnProg n n 2 ((txnResult txIDLE txDONE (dropHolds (setShadows [] t))).incWrap F.TXN_STAT_SEQ))) ∧
    (txState s = txCOMMITTING → frozen s = false → (commitUnits s (withShadows s)).all (fun b => b) = false →
      ∃ u, Does .txnTimeout s u ∧ txState u = txOPEN ∧ u.fld F.TXN_STAT_RESULT = txQUIESCE ∧
        u.txn.shadows = s.txn.shadows ∧ s.txn.deadline ≤ u.now ∧
        (let l := commitUnits s (withShadows s)
         u.prog 2 = ⟨1 + ((List.range l.length).filter (fun k => bitN s.txn.quiet k || l.getD k false)).length, l.length + 2, 3, 0, u.timebase⟩)) ∧
    (ready s = true → txState s = txOPEN →
      Does (.txnAbort 0) s (dropHolds (setShadows []
        ((s.setFld F.TXN_STAT_STATE 0 txIDLE).setFld F.TXN_STAT_RESULT 0 4)))) ∧
    (ready s = true → txState s = txCOMMITTING →
      let u := dropHolds (setShadows [] ((s.setFld F.TXN_STAT_STATE 0 txIDLE).setFld F.TXN_STAT_RESULT 0 4))
      Does (.txnAbort 0) s (setProg 2 { (u.prog 2) with st := 3 } u)) ∧
    (∀ fn : CtxId, fn ≠ 0 → Does (.txnBegin fn) s s ∧ Does (.txnCommit fn) s s ∧ Does (.txnAbort fn) s s)

/-- What the acceptance checks demand of a block, a descriptor, an enable and a commit, in the fields as software writes
them. A matrix block, a vector block, a chain, a DMA block and an ATOMIC block that is accepted has each field as its
rule says - by its bit numbers in the 64 bytes - and one of each is accepted. A descriptor's form is accepted exactly
where its opcode is listed and no bit outside its fields is 1, and COPY and FILL where their spaces are allowed. A
barrier and a re-alignment set can be enabled exactly where their conditions hold (that a group is owned by CTX where
its CTX names it and it is enabled is the model's choice, assumption 179). A commit fails at the register of each
partition, credit limit, role and window that breaks its rule, and one of nothing does not. (That bytes of a pattern
leave out its scale bytes is the model's choice, assumption 172.) (R67, R111, R127, R129, R154, R156, R203, R232,
R236, R247, R320, R322) -/
def Obligations.BlocksAreChecked : Prop :=
  (∀ bytes : List Byte, (MBlk.of bytes).ok = true →
    let v := fieldLe bytes 0 64
    let op := bitsN v 0 8
    let fa := bitsN v 16 4
    let fb := bitsN v 32 4
    1 ≤ op ∧ op ≤ 7 ∧ bitsN v 8 2 ≤ 1 ∧ bitsN v 11 2 ≤ 2 ∧ (bitsN v 10 1 = 0 → bitsN v 11 2 = 0) ∧
    bitsN v 48 8 ≤ 128 ∧ bitsN v 56 8 ≤ 128 ∧ bitsN v 13 3 = 0 ∧ bitsN v 176 16 = 0 ∧ bitsN v 240 16 = 0 ∧
    (∀ f ∈ [fa, fb], 1 ≤ f ∧ f ≤ 0xD ∧ f ≠ 0xB) ∧
    (∀ l ∈ [16, 32], bitsN v (l + 13) 3 = 0 ∧ (bitsN v (l + 4) 2 = 0 → bitsN v (l + 6) 7 = 0) ∧
      (bitsN v (l + 4) 2 ≠ 0 → 3 ≤ bitsN v l 4 ∧ bitsN v l 4 ≤ 9 ∧ bitsN v (l + 6) 7 ∈ [8, 16, 32, 64])) ∧
    (fa = 0xC ∨ fa = 0xD ∨ fb = 0xC ∨ fb = 0xD → fa = fb ∧ op = 1) ∧
    (op = 6 ∨ op = 7 → bitsN v 16 16 = 0xA ∧ bitsN v 32 16 = 0xA) ∧
    (op = 1 → bitsN v 16 16 = 0xA → bitsN v 32 16 = 0xA → bitsN v 10 1 = 1 → bitsN v 11 2 ≤ 1) ∧
    (op = 2 → bitsN v 16 16 = 0xA → bitsN v 32 16 ≠ 8) ∧
    bitsN v 128 24 % 32 = 0 ∧ bitsN v 152 24 % 32 = 0 ∧
    (fa = 5 ∨ fa = 6 → bitsN v 96 16 % 3 = 0) ∧ (fb = 5 ∨ fb = 6 → bitsN v 112 16 % 3 = 0) ∧
    (∀ r c : Nat, r < bitsN v 48 8 → bitN v (256 + r) = true → c < bitsN v 56 8 → bitN v (384 + c) = true → bitsN v 64 32 ≠ 0 → op ≤ 5 →
      bitsN v 128 24 + 32 * bitsN v 96 16 * r + ceilDiv (bitsN v 64 32 * fmtBits fa) 8 ≤ 0x600000 ∧
      bitsN v 152 24 + 32 * bitsN v 112 16 * c + ceilDiv (bitsN v 64 32 * fmtBits fb) 8 ≤ 0x600000)) ∧
  (MBlk.of (natLe 16 (1 + 2 ^ 8 + 8 * 2 ^ 16 + 8 * 2 ^ 32 + 128 * 2 ^ 48 + 128 * 2 ^ 56 + 64 * 2 ^ 64 + 2 * 2 ^ 96 + 2 * 2 ^ 112) ++
    natLe 16 (0x4000 * 2 ^ 24) ++ natLe 16 3 ++ natLe 16 3)).ok = true ∧
  (∀ (k : CoreSt) (bytes : List Byte), (VBlk.of bytes).ok k = true →
    let v := fieldLe bytes 0 64
    let op := bitsN v 0 8
    let et := bitsN v 9 3
    let st := bitsN v 39 3
    let cap (t : Nat) := if t = 6 ∨ t = 7 then 256 else if t = 1 ∨ t = 2 ∨ t = 5 then 1024 else 512
    (op ∈ [1, 2, 3, 4, 5, 6, 0x1C, 0x1D, 0x1E, 0x1F, 0x40, 0x48, 0x49, 0x4A, 0x50] ∨ 0x10 ≤ op ∧ op ≤ 0x18 ∨ 0x20 ≤ op ∧ op ≤ 0x25 ∨
      0x30 ≤ op ∧ op ≤ 0x3C ∨ 0x60 ≤ op ∧ op ≤ 0x66) ∧
    bitsN v 8 1 = 0 ∧ bitsN v 43 11 ≤ cap et ∧ (op = 5 → bitsN v 43 11 ≤ cap st) ∧ (op ≠ 5 → st = 0) ∧
    bitsN v 56 3 ≤ 5 ∧ bitsN v 61 3 = 0 ∧ (bitsN v 56 3 = 5 → op = 2 ∨ op = 5) ∧
    (bitsN v 120 4 ≤ 0xA ∨ bitsN v 120 4 = 0xF) ∧ (op ≠ 1 → op ≠ 2 → bitsN v 64 56 = 0 ∧ bitsN v 124 4 = 0) ∧
    (0x20 ≤ op → op ≤ 0x25 → bitsN v 36 3 ≠ 0) ∧ (0x10 ≤ op → op ≤ 0x18 → et ≤ 2) ∧ (0x30 ≤ op → op ≤ 0x3C → 3 ≤ et ∧ et ≤ 5) ∧
    (op = 4 → bitsN v 184 7 + ceilDiv (bitsN v 43 11) 128 ≤ 128) ∧
    bitsN v 42 1 = 0 ∧ bitsN v 54 2 = 0 ∧ bitsN v 191 1 = 0 ∧ bitsN v 272 240 = 0 ∧
    (op = 1 ∨ op = 2 → bitsN v 92 2 ≠ 3 ∧ bitsN v 125 3 = 0 ∧ (op = 2 → bitN v 124 = false) ∧
      (bitsN v 120 4 = 0xF → bitN v 124 = false → bitsN v 43 11 ≠ 0 → bitsN v 64 24 + ceilDiv (bitsN v 43 11 * fmtBits (bitsN v 88 4)) 8 ≤ 0x600000) ∧
      (et ≤ 2 → bitsN v 88 4 ≤ 0xA) ∧ (et = 3 ∨ et = 4 → bitsN v 88 4 ∈ [0, 8, 9, 0xA]) ∧ (et = 5 → bitsN v 88 4 ∈ [1, 2, 8, 9, 0xA]))) ∧
  (VBlk.of (natLe 16 (2 + 512 * 2 ^ 43 + 0xF * 2 ^ 120) ++ natLe 48 0)).ok CoreSt.reset = true ∧
  (∀ (k : CoreSt) (bytes stages : List Byte), (CBlk.of bytes).ok k (stagesOf (CBlk.of bytes).nstg stages) = true →
    let v := fieldLe bytes 0 64
    let n := bitsN v 16 3 + 1
    let w (i : Nat) := fieldLe stages (8 * i) 8
    let src (i j : Nat) := bitsN (w i) (8 + 4 * j) 4
    let used (i j : Nat) := i < n ∧ j < arity (bitsN (w i) 0 8)
    let b := CBlk.of bytes
    bitsN v 8 1 = 1 ∧ bitsN v 19 5 = 0 ∧ bitsN v 48 8 = 0 ∧ bitsN v 376 8 = 0 ∧ bitsN v 488 24 = 0 ∧
    bitsN v 56 3 ≤ 5 ∧ bitsN v 61 3 = 0 ∧ bitsN v 464 24 % 8 = 0 ∧ bitsN v 464 24 + 8 * n ≤ 0x600000 ∧
    (∀ i < n, bitsN (w i) 0 8 ∉ [0, 1, 2, 3, 4, 0x48, 0x49, 0x4A, 0x50, 0x80] ∧ bitsN (w i) 23 1 = 0 ∧ bitsN (w i) 32 32 = 0 ∧
      bitsN (w i) 24 3 < 5 ∧ bitsN (w i) 29 3 = 0) ∧
    (∀ i j, j < 3 → used i j → (src i j < 3 ∨ 8 ≤ src i j ∧ src i j < 8 + i) ∧
      (bitsN (w i) 0 8 ≠ 5 → bitsN (w i) 20 3 = if src i j < 3 then bitsN v 9 3 else bitsN (w (src i j - 8)) 20 3) ∧
      (8 ≤ src i j → 0x20 ≤ bitsN (w (src i j - 8)) 0 8 → bitsN (w (src i j - 8)) 0 8 ≤ 0x25 → bitsN (w i) 0 8 = 6 ∧ j = 0)) ∧
    ¬(0x20 ≤ bitsN (w (n - 1)) 0 8 ∧ bitsN (w (n - 1)) 0 8 ≤ 0x25) ∧
    (∀ i j i' j', j < 3 → j' < 3 → used i j → used i' j' → src i j < 3 → src i' j' < 3 → src i j ≠ src i' j' →
      ¬(bitN v (64 + 64 * src i j + 61) = true ∧ bitN v (64 + 64 * src i' j' + 61) = true)) ∧
    (∀ i j, j < 3 → used i j → src i j < 3 → bitN v (64 + 64 * src i j + 61) = false →
      bitsN v (64 + 64 * src i j) 64 = bitsN v 256 64 ∨
      spansMeet (patSpans (Pat.of (bitsN v (64 + 64 * src i j) 64)) b.vl) (patSpans (Pat.of (bitsN v 256 64)) b.vl) = false)) ∧
  (CBlk.of (natLe 32 (0x80 + 2 ^ 8 + 16 * 2 ^ 24 + 0xF * 2 ^ 120) ++ natLe 32 (0x1000 + 0xF * 2 ^ 56 + 0x2000 * 2 ^ 208))).ok CoreSt.reset
    (stagesOf 1 (natLe 8 (0x15 + 0xFF000))) = true ∧
  (∀ (bytes : List Byte) (vat : Bool), (DBlk.of bytes).ok vat = true →
    let v := fieldLe bytes 0 64
    let b := DBlk.of bytes
    (bitsN v 0 8 = 1 ∨ bitsN v 0 8 = 2) ∧ bitsN v 12 4 = 0 ∧ bitsN v 36 12 = 0 ∧ bitsN v 448 64 = 0 ∧
    ¬(bitN v 9 = true ∧ bitN v 10 = true) ∧ (bitN v 11 = true → bitN v 10 = true) ∧
    (vat = false → bitN v 9 = false ∧ bitN v 10 = false ∧ bitsN v 152 40 = 0 ∧ (bitsN v 0 8 = 1 → bitsN v 88 40 = 0) ∧
      ∀ L < b.total, let (x, y, _) := b.place b.src b.dst L
        0 ≤ y ∧ y ≤ 0x5FFFFF ∧ (bitsN v 0 8 = 1 → 0 ≤ x ∧ x ≤ 0x5FFFFF))) ∧
  (DBlk.of (natLe 32 (1 + 0x1000 * 2 ^ 128 + 64 * 2 ^ 192 + 2 * 2 ^ 224 + 2 ^ 240) ++ natLe 32 (64 + 64 * 2 ^ 48))).ok false = true ∧
  (∀ bytes : List Byte, (DBlk.of bytes).atomOk = true →
    let v := fieldLe bytes 0 64
    let a := if bitN v 10 = true then bitsN v 128 48 else bitsN v 128 64
    bitN v 9 = false ∧ (bitN v 11 = true → bitN v 10 = true) ∧ bitsN v 12 4 = 0 ∧ bitsN v 36 12 = 0 ∧ bitsN v 288 224 = 0 ∧
    bitsN v 256 24 % 8 = 0 ∧ bitsN v 256 24 ≤ 0x5FFFF8 ∧ (bitsN v 280 8 ≤ 9 ∧ a % 8 = 0 ∨ bitsN v 280 8 = 0x10 ∧ a % 4 = 0)) ∧
  (DBlk.of (natLe 32 (3 + 4 * 2 ^ 128) ++ natLe 32 (0x10 * 2 ^ 24))).atomOk = true ∧
  (∀ d : List Byte,
    (formOk d = true ↔ ∃ l, bodyBits (dOpcode d) = some l ∧
      ∀ k < 512, bitN (fieldLe d 0 64) k = true → ∃ p ∈ [(0, 10), (32, 32)] ++ l, p.1 ≤ k ∧ k < p.1 + p.2) ∧
    (dOpcode d = 1 ∨ dOpcode d = 2 → let sp := fieldLe d 32 1
      (copyOk d = true ↔ sp % 4 ≠ 3 ∧ sp / 4 % 4 ≠ 3 ∧ (dOpcode d = 2 → sp % 4 = 0) ∧
        (dOpcode d = 1 → ¬(sp % 4 = sp / 4 % 4 ∧ sp % 4 ≠ 0))))) ∧
  (∀ o < 256, (bodyBits o).isSome = true ↔ o ∈ [0, 1, 2, 8, 9, 0x10, 0x11, 0x18, 0x19, 0x20, 0x21, 0x28, 0x30, 0x38]) ∧
  (∀ (s : State) (i : Nat),
    (barEnablable i s = true ↔ (∃ c < 192, barMember s i c = true) ∧
      (∀ c < 192, barMember s i c = true → s.flag F.CORE_OWNER_EN c = true ∧ s.fld F.CORE_OWNER_CTX c = s.fld F.SYNC_BAR_CTL_CTX i) ∧
      (∃ a, pwordAddr s (s.fld F.SYNC_BAR_CTL_RELEASE i) = some a) ∧
      (s.flag F.SYNC_BAR_CTL_NET i = true → let g := s.fld F.SYNC_BAR_CTL_GROUP i
        s.flag F.COL_GRP_CTL_EN g = true ∧ s.fld F.COL_GRP_CTL_CTX g = s.fld F.SYNC_BAR_CTL_CTX i)) ∧
    (ralnEnablable i s = true ↔ s.flag F.SYNC_BAR_CTL_EN (s.fld F.SYNC_RALN_CTL_BAR i) = true ∧ 1 ≤ s.fld F.SYNC_RALN_CTL_PERIOD i ∧
      ∀ j ≤ s.fld F.SYNC_RALN_CTL_NWORD i, ∃ a, pwordAddr s (s.fld F.SYNC_RALN_WORD_PWORD (i * 16 + j)) = some a)) ∧
  (∀ s t : State,
    (∀ b < 4, let v := (t.reg .VAT_PART b).toNat
      bitsN v 0 8 < 1 ∨ bitsN v 8 8 < 1 ∨ bitsN v 16 8 < 4 ∨ bitsN v 24 8 < 4 ∨
        128 < bitsN v 0 8 + bitsN v 8 8 + bitsN v 16 8 + bitsN v 24 8 → regOffset .VAT_PART b ∈ commitFails s t) ∧
    (∀ p < 16, (∃ c ∈ portCredits t p, c < 18) ∨ lnkIngress t p < (portCredits t p).sum → regOffset .VAT_PART (p / 4) ∈ commitFails s t) ∧
    (changes s t .FAB_NODE 0 = true → (∃ p < 16, portState s p ≠ psDISABLED ∧ portState s p ≠ psFAILED) →
      regOffset .FAB_NODE 0 ∈ commitFails s t) ∧
    (s.flag F.FAB_CTL_HOLD = false → ∀ d < 4, (changes s t .FAB_DIM_CFG d = true → regOffset .FAB_DIM_CFG d ∈ commitFails s t) ∧
      (changes s t .FAB_RT d = true → regOffset .FAB_RT d ∈ commitFails s t)) ∧
    (∀ q < 8, ∀ r < 3, r ∉ pathRoles t q → regOffset .D2D_BR_ROLE q ∈ commitFails s t) ∧
    (∀ w < 16, t.flag F.D2D_GW_CTL_EN w = true → gwDirty s w = true →
      let k := t.fld F.D2D_GW_CTL_LOG2SZ w
      let b := t.fld F.D2D_GW_BASE_BASE w * 65536
      k < 16 ∨ 40 < k ∨ b % 2 ^ k ≠ 0 ∨ (∃ x < 16, x ≠ w ∧ t.flag F.D2D_GW_CTL_EN x = true ∧
        t.fld F.D2D_GW_BASE_BASE x * 65536 < b + 2 ^ k ∧ b < t.fld F.D2D_GW_BASE_BASE x * 65536 + 2 ^ t.fld F.D2D_GW_CTL_LOG2SZ x) →
      regOffset .D2D_GW_BASE w ∈ commitFails s t)) ∧
  commitFails State.reset State.reset = []
end

