-- ==== Sys2Proof/Laws/State.lean ====
section
/-! SUPPORT. What each update of the state leaves as it was, field by field, and what it changes. -/

namespace Sys2Proof.Machine

@[simp] theorem State.setReg_pending (s : State) (r : Reg) (i : Nat) (v : Word) : (s.setReg r i v).pending = s.pending := rfl
@[simp] theorem State.setReg_out (s : State) (r : Reg) (i : Nat) (v : Word) : (s.setReg r i v).out = s.out := rfl
@[simp] theorem State.setReg_now (s : State) (r : Reg) (i : Nat) (v : Word) : (s.setReg r i v).now = s.now := rfl
@[simp] theorem State.setReg_tbase (s : State) (r : Reg) (i : Nat) (v : Word) : (s.setReg r i v).tbase = s.tbase := rfl
@[simp] theorem State.setReg_free (s : State) (r : Reg) (i : Nat) (v : Word) : (s.setReg r i v).free = s.free := rfl
@[simp] theorem State.setReg_stall (s : State) (r : Reg) (i : Nat) (v : Word) : (s.setReg r i v).stall = s.stall := rfl
@[simp] theorem State.setReg_kills (s : State) (r : Reg) (i : Nat) (v : Word) : (s.setReg r i v).kills = s.kills := rfl
@[simp] theorem State.setReg_fatals (s : State) (r : Reg) (i : Nat) (v : Word) : (s.setReg r i v).fatals = s.fatals := rfl
@[simp] theorem State.setReg_errAt (s : State) (r : Reg) (i : Nat) (v : Word) : (s.setReg r i v).errAt = s.errAt := rfl
@[simp] theorem State.setReg_errs (s : State) (r : Reg) (i : Nat) (v : Word) : (s.setReg r i v).errs = s.errs := rfl
@[simp] theorem State.setReg_errStop (s : State) (r : Reg) (i : Nat) (v : Word) : (s.setReg r i v).errStop = s.errStop := rfl
@[simp] theorem State.setReg_resid (s : State) (r : Reg) (i : Nat) (v : Word) : (s.setReg r i v).resid = s.resid := rfl
@[simp] theorem State.setReg_txn (s : State) (r : Reg) (i : Nat) (v : Word) : (s.setReg r i v).txn = s.txn := rfl
@[simp] theorem State.setReg_mem (s : State) (r : Reg) (i : Nat) (v : Word) : (s.setReg r i v).mem = s.mem := rfl
@[simp] theorem State.setReg_sync (s : State) (r : Reg) (i : Nat) (v : Word) : (s.setReg r i v).sync = s.sync := rfl
@[simp] theorem State.setReg_cores (s : State) (r : Reg) (i : Nat) (v : Word) : (s.setReg r i v).cores = s.cores := rfl
@[simp] theorem State.setReg_fe (s : State) (r : Reg) (i : Nat) (v : Word) : (s.setReg r i v).fe = s.fe := rfl
@[simp] theorem State.setReg_frost (s : State) (r : Reg) (i : Nat) (v : Word) : (s.setReg r i v).frost = s.frost := rfl
@[simp] theorem State.setReg_dbg (s : State) (r : Reg) (i : Nat) (v : Word) : (s.setReg r i v).dbg = s.dbg := rfl
@[simp] theorem State.setReg_ports (s : State) (r : Reg) (i : Nat) (v : Word) : (s.setReg r i v).ports = s.ports := rfl
@[simp] theorem State.setReg_fab (s : State) (r : Reg) (i : Nat) (v : Word) : (s.setReg r i v).fab = s.fab := rfl
@[simp] theorem State.setReg_col (s : State) (r : Reg) (i : Nat) (v : Word) : (s.setReg r i v).col = s.col := rfl
@[simp] theorem State.setReg_rst (s : State) (r : Reg) (i : Nat) (v : Word) : (s.setReg r i v).rst = s.rst := rfl
@[simp] theorem State.setReg_saves (s : State) (r : Reg) (i : Nat) (v : Word) : (s.setReg r i v).saves = s.saves := rfl
@[simp] theorem State.setReg_d2d (s : State) (r : Reg) (i : Nat) (v : Word) : (s.setReg r i v).d2d = s.d2d := rfl
@[simp] theorem State.setReg_pwr (s : State) (r : Reg) (i : Nat) (v : Word) : (s.setReg r i v).pwr = s.pwr := rfl
@[simp] theorem State.setReg_sec (s : State) (r : Reg) (i : Nat) (v : Word) : (s.setReg r i v).sec = s.sec := rfl

@[simp] theorem State.setFld_pending (s : State) (f : Fld) (i v : Nat) : (s.setFld f i v).pending = s.pending := rfl
@[simp] theorem State.setFld_out (s : State) (f : Fld) (i v : Nat) : (s.setFld f i v).out = s.out := rfl
@[simp] theorem State.setFld_now (s : State) (f : Fld) (i v : Nat) : (s.setFld f i v).now = s.now := rfl
@[simp] theorem State.setFld_tbase (s : State) (f : Fld) (i v : Nat) : (s.setFld f i v).tbase = s.tbase := rfl
@[simp] theorem State.setFld_free (s : State) (f : Fld) (i v : Nat) : (s.setFld f i v).free = s.free := rfl
@[simp] theorem State.setFld_stall (s : State) (f : Fld) (i v : Nat) : (s.setFld f i v).stall = s.stall := rfl
@[simp] theorem State.setFld_kills (s : State) (f : Fld) (i v : Nat) : (s.setFld f i v).kills = s.kills := rfl
@[simp] theorem State.setFld_fatals (s : State) (f : Fld) (i v : Nat) : (s.setFld f i v).fatals = s.fatals := rfl
@[simp] theorem State.setFld_errAt (s : State) (f : Fld) (i v : Nat) : (s.setFld f i v).errAt = s.errAt := rfl
@[simp] theorem State.setFld_errs (s : State) (f : Fld) (i v : Nat) : (s.setFld f i v).errs = s.errs := rfl
@[simp] theorem State.setFld_errStop (s : State) (f : Fld) (i v : Nat) : (s.setFld f i v).errStop = s.errStop := rfl
@[simp] theorem State.setFld_resid (s : State) (f : Fld) (i v : Nat) : (s.setFld f i v).resid = s.resid := rfl
@[simp] theorem State.setFld_txn (s : State) (f : Fld) (i v : Nat) : (s.setFld f i v).txn = s.txn := rfl
@[simp] theorem State.setFld_mem (s : State) (f : Fld) (i v : Nat) : (s.setFld f i v).mem = s.mem := rfl
@[simp] theorem State.setFld_sync (s : State) (f : Fld) (i v : Nat) : (s.setFld f i v).sync = s.sync := rfl
@[simp] theorem State.setFld_cores (s : State) (f : Fld) (i v : Nat) : (s.setFld f i v).cores = s.cores := rfl
@[simp] theorem State.setFld_fe (s : State) (f : Fld) (i v : Nat) : (s.setFld f i v).fe = s.fe := rfl
@[simp] theorem State.setFld_frost (s : State) (f : Fld) (i v : Nat) : (s.setFld f i v).frost = s.frost := rfl
@[simp] theorem State.setFld_dbg (s : State) (f : Fld) (i v : Nat) : (s.setFld f i v).dbg = s.dbg := rfl
@[simp] theorem State.setFld_ports (s : State) (f : Fld) (i v : Nat) : (s.setFld f i v).ports = s.ports := rfl
@[simp] theorem State.setFld_fab (s : State) (f : Fld) (i v : Nat) : (s.setFld f i v).fab = s.fab := rfl
@[simp] theorem State.setFld_col (s : State) (f : Fld) (i v : Nat) : (s.setFld f i v).col = s.col := rfl
@[simp] theorem State.setFld_rst (s : State) (f : Fld) (i v : Nat) : (s.setFld f i v).rst = s.rst := rfl
@[simp] theorem State.setFld_saves (s : State) (f : Fld) (i v : Nat) : (s.setFld f i v).saves = s.saves := rfl
@[simp] theorem State.setFld_d2d (s : State) (f : Fld) (i v : Nat) : (s.setFld f i v).d2d = s.d2d := rfl
@[simp] theorem State.setFld_pwr (s : State) (f : Fld) (i v : Nat) : (s.setFld f i v).pwr = s.pwr := rfl
@[simp] theorem State.setFld_sec (s : State) (f : Fld) (i v : Nat) : (s.setFld f i v).sec = s.sec := rfl

@[simp] theorem State.incSat_pending (s : State) (f : Fld) (i n : Nat) : (s.incSat f i n).pending = s.pending := rfl
@[simp] theorem State.incSat_out (s : State) (f : Fld) (i n : Nat) : (s.incSat f i n).out = s.out := rfl
@[simp] theorem State.incSat_now (s : State) (f : Fld) (i n : Nat) : (s.incSat f i n).now = s.now := rfl
@[simp] theorem State.incSat_tbase (s : State) (f : Fld) (i n : Nat) : (s.incSat f i n).tbase = s.tbase := rfl
@[simp] theorem State.incSat_free (s : State) (f : Fld) (i n : Nat) : (s.incSat f i n).free = s.free := rfl
@[simp] theorem State.incSat_stall (s : State) (f : Fld) (i n : Nat) : (s.incSat f i n).stall = s.stall := rfl
@[simp] theorem State.incSat_kills (s : State) (f : Fld) (i n : Nat) : (s.incSat f i n).kills = s.kills := rfl
@[simp] theorem State.incSat_fatals (s : State) (f : Fld) (i n : Nat) : (s.incSat f i n).fatals = s.fatals := rfl
@[simp] theorem State.incSat_errAt (s : State) (f : Fld) (i n : Nat) : (s.incSat f i n).errAt = s.errAt := rfl
@[simp] theorem State.incSat_errs (s : State) (f : Fld) (i n : Nat) : (s.incSat f i n).errs = s.errs := rfl
@[simp] theorem State.incSat_errStop (s : State) (f : Fld) (i n : Nat) : (s.incSat f i n).errStop = s.errStop := rfl
@[simp] theorem State.incSat_resid (s : State) (f : Fld) (i n : Nat) : (s.incSat f i n).resid = s.resid := rfl
@[simp] theorem State.incSat_txn (s : State) (f : Fld) (i n : Nat) : (s.incSat f i n).txn = s.txn := rfl
@[simp] theorem State.incSat_mem (s : State) (f : Fld) (i n : Nat) : (s.incSat f i n).mem = s.mem := rfl
@[simp] theorem State.incSat_sync (s : State) (f : Fld) (i n : Nat) : (s.incSat f i n).sync = s.sync := rfl
@[simp] theorem State.incSat_cores (s : State) (f : Fld) (i n : Nat) : (s.incSat f i n).cores = s.cores := rfl
@[simp] theorem State.incSat_fe (s : State) (f : Fld) (i n : Nat) : (s.incSat f i n).fe = s.fe := rfl
@[simp] theorem State.incSat_frost (s : State) (f : Fld) (i n : Nat) : (s.incSat f i n).frost = s.frost := rfl
@[simp] theorem State.incSat_dbg (s : State) (f : Fld) (i n : Nat) : (s.incSat f i n).dbg = s.dbg := rfl
@[simp] theorem State.incSat_ports (s : State) (f : Fld) (i n : Nat) : (s.incSat f i n).ports = s.ports := rfl
@[simp] theorem State.incSat_fab (s : State) (f : Fld) (i n : Nat) : (s.incSat f i n).fab = s.fab := rfl
@[simp] theorem State.incSat_col (s : State) (f : Fld) (i n : Nat) : (s.incSat f i n).col = s.col := rfl
@[simp] theorem State.incSat_rst (s : State) (f : Fld) (i n : Nat) : (s.incSat f i n).rst = s.rst := rfl
@[simp] theorem State.incSat_saves (s : State) (f : Fld) (i n : Nat) : (s.incSat f i n).saves = s.saves := rfl
@[simp] theorem State.incSat_d2d (s : State) (f : Fld) (i n : Nat) : (s.incSat f i n).d2d = s.d2d := rfl
@[simp] theorem State.incSat_pwr (s : State) (f : Fld) (i n : Nat) : (s.incSat f i n).pwr = s.pwr := rfl
@[simp] theorem State.incSat_sec (s : State) (f : Fld) (i n : Nat) : (s.incSat f i n).sec = s.sec := rfl

@[simp] theorem State.incWrap_pending (s : State) (f : Fld) (i : Nat) : (s.incWrap f i).pending = s.pending := rfl
@[simp] theorem State.incWrap_out (s : State) (f : Fld) (i : Nat) : (s.incWrap f i).out = s.out := rfl
@[simp] theorem State.incWrap_now (s : State) (f : Fld) (i : Nat) : (s.incWrap f i).now = s.now := rfl
@[simp] theorem State.incWrap_tbase (s : State) (f : Fld) (i : Nat) : (s.incWrap f i).tbase = s.tbase := rfl
@[simp] theorem State.incWrap_free (s : State) (f : Fld) (i : Nat) : (s.incWrap f i).free = s.free := rfl
@[simp] theorem State.incWrap_stall (s : State) (f : Fld) (i : Nat) : (s.incWrap f i).stall = s.stall := rfl
@[simp] theorem State.incWrap_kills (s : State) (f : Fld) (i : Nat) : (s.incWrap f i).kills = s.kills := rfl
@[simp] theorem State.incWrap_fatals (s : State) (f : Fld) (i : Nat) : (s.incWrap f i).fatals = s.fatals := rfl
@[simp] theorem State.incWrap_errAt (s : State) (f : Fld) (i : Nat) : (s.incWrap f i).errAt = s.errAt := rfl
@[simp] theorem State.incWrap_errs (s : State) (f : Fld) (i : Nat) : (s.incWrap f i).errs = s.errs := rfl
@[simp] theorem State.incWrap_errStop (s : State) (f : Fld) (i : Nat) : (s.incWrap f i).errStop = s.errStop := rfl
@[simp] theorem State.incWrap_resid (s : State) (f : Fld) (i : Nat) : (s.incWrap f i).resid = s.resid := rfl
@[simp] theorem State.incWrap_txn (s : State) (f : Fld) (i : Nat) : (s.incWrap f i).txn = s.txn := rfl
@[simp] theorem State.incWrap_mem (s : State) (f : Fld) (i : Nat) : (s.incWrap f i).mem = s.mem := rfl
@[simp] theorem State.incWrap_sync (s : State) (f : Fld) (i : Nat) : (s.incWrap f i).sync = s.sync := rfl
@[simp] theorem State.incWrap_cores (s : State) (f : Fld) (i : Nat) : (s.incWrap f i).cores = s.cores := rfl
@[simp] theorem State.incWrap_fe (s : State) (f : Fld) (i : Nat) : (s.incWrap f i).fe = s.fe := rfl
@[simp] theorem State.incWrap_frost (s : State) (f : Fld) (i : Nat) : (s.incWrap f i).frost = s.frost := rfl
@[simp] theorem State.incWrap_dbg (s : State) (f : Fld) (i : Nat) : (s.incWrap f i).dbg = s.dbg := rfl
@[simp] theorem State.incWrap_ports (s : State) (f : Fld) (i : Nat) : (s.incWrap f i).ports = s.ports := rfl
@[simp] theorem State.incWrap_fab (s : State) (f : Fld) (i : Nat) : (s.incWrap f i).fab = s.fab := rfl
@[simp] theorem State.incWrap_col (s : State) (f : Fld) (i : Nat) : (s.incWrap f i).col = s.col := rfl
@[simp] theorem State.incWrap_rst (s : State) (f : Fld) (i : Nat) : (s.incWrap f i).rst = s.rst := rfl
@[simp] theorem State.incWrap_saves (s : State) (f : Fld) (i : Nat) : (s.incWrap f i).saves = s.saves := rfl
@[simp] theorem State.incWrap_d2d (s : State) (f : Fld) (i : Nat) : (s.incWrap f i).d2d = s.d2d := rfl
@[simp] theorem State.incWrap_pwr (s : State) (f : Fld) (i : Nat) : (s.incWrap f i).pwr = s.pwr := rfl
@[simp] theorem State.incWrap_sec (s : State) (f : Fld) (i : Nat) : (s.incWrap f i).sec = s.sec := rfl

@[simp] theorem State.regWrite_pending (s : State) (r : Reg) (i v : Nat) : (s.regWrite r i v).pending = s.pending := rfl
@[simp] theorem State.regWrite_out (s : State) (r : Reg) (i v : Nat) : (s.regWrite r i v).out = s.out := rfl
@[simp] theorem State.regWrite_now (s : State) (r : Reg) (i v : Nat) : (s.regWrite r i v).now = s.now := rfl
@[simp] theorem State.regWrite_tbase (s : State) (r : Reg) (i v : Nat) : (s.regWrite r i v).tbase = s.tbase := rfl
@[simp] theorem State.regWrite_free (s : State) (r : Reg) (i v : Nat) : (s.regWrite r i v).free = s.free := rfl
@[simp] theorem State.regWrite_stall (s : State) (r : Reg) (i v : Nat) : (s.regWrite r i v).stall = s.stall := rfl
@[simp] theorem State.regWrite_kills (s : State) (r : Reg) (i v : Nat) : (s.regWrite r i v).kills = s.kills := rfl
@[simp] theorem State.regWrite_fatals (s : State) (r : Reg) (i v : Nat) : (s.regWrite r i v).fatals = s.fatals := rfl
@[simp] theorem State.regWrite_errAt (s : State) (r : Reg) (i v : Nat) : (s.regWrite r i v).errAt = s.errAt := rfl
@[simp] theorem State.regWrite_errs (s : State) (r : Reg) (i v : Nat) : (s.regWrite r i v).errs = s.errs := rfl
@[simp] theorem State.regWrite_errStop (s : State) (r : Reg) (i v : Nat) : (s.regWrite r i v).errStop = s.errStop := rfl
@[simp] theorem State.regWrite_resid (s : State) (r : Reg) (i v : Nat) : (s.regWrite r i v).resid = s.resid := rfl
@[simp] theorem State.regWrite_txn (s : State) (r : Reg) (i v : Nat) : (s.regWrite r i v).txn = s.txn := rfl
@[simp] theorem State.regWrite_mem (s : State) (r : Reg) (i v : Nat) : (s.regWrite r i v).mem = s.mem := rfl
@[simp] theorem State.regWrite_sync (s : State) (r : Reg) (i v : Nat) : (s.regWrite r i v).sync = s.sync := rfl
@[simp] theorem State.regWrite_cores (s : State) (r : Reg) (i v : Nat) : (s.regWrite r i v).cores = s.cores := rfl
@[simp] theorem State.regWrite_fe (s : State) (r : Reg) (i v : Nat) : (s.regWrite r i v).fe = s.fe := rfl
@[simp] theorem State.regWrite_frost (s : State) (r : Reg) (i v : Nat) : (s.regWrite r i v).frost = s.frost := rfl
@[simp] theorem State.regWrite_dbg (s : State) (r : Reg) (i v : Nat) : (s.regWrite r i v).dbg = s.dbg := rfl
@[simp] theorem State.regWrite_ports (s : State) (r : Reg) (i v : Nat) : (s.regWrite r i v).ports = s.ports := rfl
@[simp] theorem State.regWrite_fab (s : State) (r : Reg) (i v : Nat) : (s.regWrite r i v).fab = s.fab := rfl
@[simp] theorem State.regWrite_col (s : State) (r : Reg) (i v : Nat) : (s.regWrite r i v).col = s.col := rfl
@[simp] theorem State.regWrite_rst (s : State) (r : Reg) (i v : Nat) : (s.regWrite r i v).rst = s.rst := rfl
@[simp] theorem State.regWrite_saves (s : State) (r : Reg) (i v : Nat) : (s.regWrite r i v).saves = s.saves := rfl
@[simp] theorem State.regWrite_d2d (s : State) (r : Reg) (i v : Nat) : (s.regWrite r i v).d2d = s.d2d := rfl
@[simp] theorem State.regWrite_pwr (s : State) (r : Reg) (i v : Nat) : (s.regWrite r i v).pwr = s.pwr := rfl
@[simp] theorem State.regWrite_sec (s : State) (r : Reg) (i v : Nat) : (s.regWrite r i v).sec = s.sec := rfl

@[simp] theorem State.resetRegs_pending (s : State) (p : Nat → Bool) : (s.resetRegs p).pending = s.pending := rfl
@[simp] theorem State.resetRegs_out (s : State) (p : Nat → Bool) : (s.resetRegs p).out = s.out := rfl
@[simp] theorem State.resetRegs_now (s : State) (p : Nat → Bool) : (s.resetRegs p).now = s.now := rfl
@[simp] theorem State.resetRegs_tbase (s : State) (p : Nat → Bool) : (s.resetRegs p).tbase = s.tbase := rfl
@[simp] theorem State.resetRegs_free (s : State) (p : Nat → Bool) : (s.resetRegs p).free = s.free := rfl
@[simp] theorem State.resetRegs_stall (s : State) (p : Nat → Bool) : (s.resetRegs p).stall = s.stall := rfl
@[simp] theorem State.resetRegs_kills (s : State) (p : Nat → Bool) : (s.resetRegs p).kills = s.kills := rfl
@[simp] theorem State.resetRegs_fatals (s : State) (p : Nat → Bool) : (s.resetRegs p).fatals = s.fatals := rfl
@[simp] theorem State.resetRegs_errAt (s : State) (p : Nat → Bool) : (s.resetRegs p).errAt = s.errAt := rfl
@[simp] theorem State.resetRegs_errs (s : State) (p : Nat → Bool) : (s.resetRegs p).errs = s.errs := rfl
@[simp] theorem State.resetRegs_errStop (s : State) (p : Nat → Bool) : (s.resetRegs p).errStop = s.errStop := rfl
@[simp] theorem State.resetRegs_resid (s : State) (p : Nat → Bool) : (s.resetRegs p).resid = s.resid := rfl
@[simp] theorem State.resetRegs_txn (s : State) (p : Nat → Bool) : (s.resetRegs p).txn = s.txn := rfl
@[simp] theorem State.resetRegs_mem (s : State) (p : Nat → Bool) : (s.resetRegs p).mem = s.mem := rfl
@[simp] theorem State.resetRegs_sync (s : State) (p : Nat → Bool) : (s.resetRegs p).sync = s.sync := rfl
@[simp] theorem State.resetRegs_cores (s : State) (p : Nat → Bool) : (s.resetRegs p).cores = s.cores := rfl
@[simp] theorem State.resetRegs_fe (s : State) (p : Nat → Bool) : (s.resetRegs p).fe = s.fe := rfl
@[simp] theorem State.resetRegs_frost (s : State) (p : Nat → Bool) : (s.resetRegs p).frost = s.frost := rfl
@[simp] theorem State.resetRegs_dbg (s : State) (p : Nat → Bool) : (s.resetRegs p).dbg = s.dbg := rfl
@[simp] theorem State.resetRegs_ports (s : State) (p : Nat → Bool) : (s.resetRegs p).ports = s.ports := rfl
@[simp] theorem State.resetRegs_fab (s : State) (p : Nat → Bool) : (s.resetRegs p).fab = s.fab := rfl
@[simp] theorem State.resetRegs_col (s : State) (p : Nat → Bool) : (s.resetRegs p).col = s.col := rfl
@[simp] theorem State.resetRegs_rst (s : State) (p : Nat → Bool) : (s.resetRegs p).rst = s.rst := rfl
@[simp] theorem State.resetRegs_saves (s : State) (p : Nat → Bool) : (s.resetRegs p).saves = s.saves := rfl
@[simp] theorem State.resetRegs_d2d (s : State) (p : Nat → Bool) : (s.resetRegs p).d2d = s.d2d := rfl
@[simp] theorem State.resetRegs_pwr (s : State) (p : Nat → Bool) : (s.resetRegs p).pwr = s.pwr := rfl
@[simp] theorem State.resetRegs_sec (s : State) (p : Nat → Bool) : (s.resetRegs p).sec = s.sec := rfl

@[simp] theorem State.setCore_pending (s : State) (c : Nat) (v : CoreSt) : (s.setCore c v).pending = s.pending := rfl
@[simp] theorem State.setCore_out (s : State) (c : Nat) (v : CoreSt) : (s.setCore c v).out = s.out := rfl
@[simp] theorem State.setCore_now (s : State) (c : Nat) (v : CoreSt) : (s.setCore c v).now = s.now := rfl
@[simp] theorem State.setCore_tbase (s : State) (c : Nat) (v : CoreSt) : (s.setCore c v).tbase = s.tbase := rfl
@[simp] theorem State.setCore_free (s : State) (c : Nat) (v : CoreSt) : (s.setCore c v).free = s.free := rfl
@[simp] theorem State.setCore_stall (s : State) (c : Nat) (v : CoreSt) : (s.setCore c v).stall = s.stall := rfl
@[simp] theorem State.setCore_kills (s : State) (c : Nat) (v : CoreSt) : (s.setCore c v).kills = s.kills := rfl
@[simp] theorem State.setCore_fatals (s : State) (c : Nat) (v : CoreSt) : (s.setCore c v).fatals = s.fatals := rfl
@[simp] theorem State.setCore_errAt (s : State) (c : Nat) (v : CoreSt) : (s.setCore c v).errAt = s.errAt := rfl
@[simp] theorem State.setCore_errs (s : State) (c : Nat) (v : CoreSt) : (s.setCore c v).errs = s.errs := rfl
@[simp] theorem State.setCore_errStop (s : State) (c : Nat) (v : CoreSt) : (s.setCore c v).errStop = s.errStop := rfl
@[simp] theorem State.setCore_resid (s : State) (c : Nat) (v : CoreSt) : (s.setCore c v).resid = s.resid := rfl
@[simp] theorem State.setCore_regs (s : State) (c : Nat) (v : CoreSt) : (s.setCore c v).regs = s.regs := rfl
@[simp] theorem State.setCore_txn (s : State) (c : Nat) (v : CoreSt) : (s.setCore c v).txn = s.txn := rfl
@[simp] theorem State.setCore_mem (s : State) (c : Nat) (v : CoreSt) : (s.setCore c v).mem = s.mem := rfl
@[simp] theorem State.setCore_sync (s : State) (c : Nat) (v : CoreSt) : (s.setCore c v).sync = s.sync := rfl
@[simp] theorem State.setCore_fe (s : State) (c : Nat) (v : CoreSt) : (s.setCore c v).fe = s.fe := rfl
@[simp] theorem State.setCore_frost (s : State) (c : Nat) (v : CoreSt) : (s.setCore c v).frost = s.frost := rfl
@[simp] theorem State.setCore_dbg (s : State) (c : Nat) (v : CoreSt) : (s.setCore c v).dbg = s.dbg := rfl
@[simp] theorem State.setCore_ports (s : State) (c : Nat) (v : CoreSt) : (s.setCore c v).ports = s.ports := rfl
@[simp] theorem State.setCore_fab (s : State) (c : Nat) (v : CoreSt) : (s.setCore c v).fab = s.fab := rfl
@[simp] theorem State.setCore_col (s : State) (c : Nat) (v : CoreSt) : (s.setCore c v).col = s.col := rfl
@[simp] theorem State.setCore_rst (s : State) (c : Nat) (v : CoreSt) : (s.setCore c v).rst = s.rst := rfl
@[simp] theorem State.setCore_saves (s : State) (c : Nat) (v : CoreSt) : (s.setCore c v).saves = s.saves := rfl
@[simp] theorem State.setCore_d2d (s : State) (c : Nat) (v : CoreSt) : (s.setCore c v).d2d = s.d2d := rfl
@[simp] theorem State.setCore_pwr (s : State) (c : Nat) (v : CoreSt) : (s.setCore c v).pwr = s.pwr := rfl
@[simp] theorem State.setCore_sec (s : State) (c : Nat) (v : CoreSt) : (s.setCore c v).sec = s.sec := rfl

@[simp] theorem State.modCore_pending (s : State) (c : Nat) (f : CoreSt → CoreSt) : (s.modCore c f).pending = s.pending := rfl
@[simp] theorem State.modCore_out (s : State) (c : Nat) (f : CoreSt → CoreSt) : (s.modCore c f).out = s.out := rfl
@[simp] theorem State.modCore_now (s : State) (c : Nat) (f : CoreSt → CoreSt) : (s.modCore c f).now = s.now := rfl
@[simp] theorem State.modCore_tbase (s : State) (c : Nat) (f : CoreSt → CoreSt) : (s.modCore c f).tbase = s.tbase := rfl
@[simp] theorem State.modCore_free (s : State) (c : Nat) (f : CoreSt → CoreSt) : (s.modCore c f).free = s.free := rfl
@[simp] theorem State.modCore_stall (s : State) (c : Nat) (f : CoreSt → CoreSt) : (s.modCore c f).stall = s.stall := rfl
@[simp] theorem State.modCore_kills (s : State) (c : Nat) (f : CoreSt → CoreSt) : (s.modCore c f).kills = s.kills := rfl
@[simp] theorem State.modCore_fatals (s : State) (c : Nat) (f : CoreSt → CoreSt) : (s.modCore c f).fatals = s.fatals := rfl
@[simp] theorem State.modCore_errAt (s : State) (c : Nat) (f : CoreSt → CoreSt) : (s.modCore c f).errAt = s.errAt := rfl
@[simp] theorem State.modCore_errs (s : State) (c : Nat) (f : CoreSt → CoreSt) : (s.modCore c f).errs = s.errs := rfl
@[simp] theorem State.modCore_errStop (s : State) (c : Nat) (f : CoreSt → CoreSt) : (s.modCore c f).errStop = s.errStop := rfl
@[simp] theorem State.modCore_resid (s : State) (c : Nat) (f : CoreSt → CoreSt) : (s.modCore c f).resid = s.resid := rfl
@[simp] theorem State.modCore_regs (s : State) (c : Nat) (f : CoreSt → CoreSt) : (s.modCore c f).regs = s.regs := rfl
@[simp] theorem State.modCore_txn (s : State) (c : Nat) (f : CoreSt → CoreSt) : (s.modCore c f).txn = s.txn := rfl
@[simp] theorem State.modCore_mem (s : State) (c : Nat) (f : CoreSt → CoreSt) : (s.modCore c f).mem = s.mem := rfl
@[simp] theorem State.modCore_sync (s : State) (c : Nat) (f : CoreSt → CoreSt) : (s.modCore c f).sync = s.sync := rfl
@[simp] theorem State.modCore_fe (s : State) (c : Nat) (f : CoreSt → CoreSt) : (s.modCore c f).fe = s.fe := rfl
@[simp] theorem State.modCore_frost (s : State) (c : Nat) (f : CoreSt → CoreSt) : (s.modCore c f).frost = s.frost := rfl
@[simp] theorem State.modCore_dbg (s : State) (c : Nat) (f : CoreSt → CoreSt) : (s.modCore c f).dbg = s.dbg := rfl
@[simp] theorem State.modCore_ports (s : State) (c : Nat) (f : CoreSt → CoreSt) : (s.modCore c f).ports = s.ports := rfl
@[simp] theorem State.modCore_fab (s : State) (c : Nat) (f : CoreSt → CoreSt) : (s.modCore c f).fab = s.fab := rfl
@[simp] theorem State.modCore_col (s : State) (c : Nat) (f : CoreSt → CoreSt) : (s.modCore c f).col = s.col := rfl
@[simp] theorem State.modCore_rst (s : State) (c : Nat) (f : CoreSt → CoreSt) : (s.modCore c f).rst = s.rst := rfl
@[simp] theorem State.modCore_saves (s : State) (c : Nat) (f : CoreSt → CoreSt) : (s.modCore c f).saves = s.saves := rfl
@[simp] theorem State.modCore_d2d (s : State) (c : Nat) (f : CoreSt → CoreSt) : (s.modCore c f).d2d = s.d2d := rfl
@[simp] theorem State.modCore_pwr (s : State) (c : Nat) (f : CoreSt → CoreSt) : (s.modCore c f).pwr = s.pwr := rfl
@[simp] theorem State.modCore_sec (s : State) (c : Nat) (f : CoreSt → CoreSt) : (s.modCore c f).sec = s.sec := rfl

@[simp] theorem State.modQueue_pending (s : State) (c q : Nat) (f : QueueSt → QueueSt) : (s.modQueue c q f).pending = s.pending := rfl
@[simp] theorem State.modQueue_out (s : State) (c q : Nat) (f : QueueSt → QueueSt) : (s.modQueue c q f).out = s.out := rfl
@[simp] theorem State.modQueue_now (s : State) (c q : Nat) (f : QueueSt → QueueSt) : (s.modQueue c q f).now = s.now := rfl
@[simp] theorem State.modQueue_tbase (s : State) (c q : Nat) (f : QueueSt → QueueSt) : (s.modQueue c q f).tbase = s.tbase := rfl
@[simp] theorem State.modQueue_free (s : State) (c q : Nat) (f : QueueSt → QueueSt) : (s.modQueue c q f).free = s.free := rfl
@[simp] theorem State.modQueue_stall (s : State) (c q : Nat) (f : QueueSt → QueueSt) : (s.modQueue c q f).stall = s.stall := rfl
@[simp] theorem State.modQueue_kills (s : State) (c q : Nat) (f : QueueSt → QueueSt) : (s.modQueue c q f).kills = s.kills := rfl
@[simp] theorem State.modQueue_fatals (s : State) (c q : Nat) (f : QueueSt → QueueSt) : (s.modQueue c q f).fatals = s.fatals := rfl
@[simp] theorem State.modQueue_errAt (s : State) (c q : Nat) (f : QueueSt → QueueSt) : (s.modQueue c q f).errAt = s.errAt := rfl
@[simp] theorem State.modQueue_errs (s : State) (c q : Nat) (f : QueueSt → QueueSt) : (s.modQueue c q f).errs = s.errs := rfl
@[simp] theorem State.modQueue_errStop (s : State) (c q : Nat) (f : QueueSt → QueueSt) : (s.modQueue c q f).errStop = s.errStop := rfl
@[simp] theorem State.modQueue_resid (s : State) (c q : Nat) (f : QueueSt → QueueSt) : (s.modQueue c q f).resid = s.resid := rfl
@[simp] theorem State.modQueue_regs (s : State) (c q : Nat) (f : QueueSt → QueueSt) : (s.modQueue c q f).regs = s.regs := rfl
@[simp] theorem State.modQueue_txn (s : State) (c q : Nat) (f : QueueSt → QueueSt) : (s.modQueue c q f).txn = s.txn := rfl
@[simp] theorem State.modQueue_mem (s : State) (c q : Nat) (f : QueueSt → QueueSt) : (s.modQueue c q f).mem = s.mem := rfl
@[simp] theorem State.modQueue_sync (s : State) (c q : Nat) (f : QueueSt → QueueSt) : (s.modQueue c q f).sync = s.sync := rfl
@[simp] theorem State.modQueue_fe (s : State) (c q : Nat) (f : QueueSt → QueueSt) : (s.modQueue c q f).fe = s.fe := rfl
@[simp] theorem State.modQueue_frost (s : State) (c q : Nat) (f : QueueSt → QueueSt) : (s.modQueue c q f).frost = s.frost := rfl
@[simp] theorem State.modQueue_dbg (s : State) (c q : Nat) (f : QueueSt → QueueSt) : (s.modQueue c q f).dbg = s.dbg := rfl
@[simp] theorem State.modQueue_ports (s : State) (c q : Nat) (f : QueueSt → QueueSt) : (s.modQueue c q f).ports = s.ports := rfl
@[simp] theorem State.modQueue_fab (s : State) (c q : Nat) (f : QueueSt → QueueSt) : (s.modQueue c q f).fab = s.fab := rfl
@[simp] theorem State.modQueue_col (s : State) (c q : Nat) (f : QueueSt → QueueSt) : (s.modQueue c q f).col = s.col := rfl
@[simp] theorem State.modQueue_rst (s : State) (c q : Nat) (f : QueueSt → QueueSt) : (s.modQueue c q f).rst = s.rst := rfl
@[simp] theorem State.modQueue_saves (s : State) (c q : Nat) (f : QueueSt → QueueSt) : (s.modQueue c q f).saves = s.saves := rfl
@[simp] theorem State.modQueue_d2d (s : State) (c q : Nat) (f : QueueSt → QueueSt) : (s.modQueue c q f).d2d = s.d2d := rfl
@[simp] theorem State.modQueue_pwr (s : State) (c q : Nat) (f : QueueSt → QueueSt) : (s.modQueue c q f).pwr = s.pwr := rfl
@[simp] theorem State.modQueue_sec (s : State) (c q : Nat) (f : QueueSt → QueueSt) : (s.modQueue c q f).sec = s.sec := rfl

@[simp] theorem State.setRing_pending (s : State) (r : Nat) (v : RingSt) : (s.setRing r v).pending = s.pending := rfl
@[simp] theorem State.setRing_out (s : State) (r : Nat) (v : RingSt) : (s.setRing r v).out = s.out := rfl
@[simp] theorem State.setRing_now (s : State) (r : Nat) (v : RingSt) : (s.setRing r v).now = s.now := rfl
@[simp] theorem State.setRing_tbase (s : State) (r : Nat) (v : RingSt) : (s.setRing r v).tbase = s.tbase := rfl
@[simp] theorem State.setRing_free (s : State) (r : Nat) (v : RingSt) : (s.setRing r v).free = s.free := rfl
@[simp] theorem State.setRing_stall (s : State) (r : Nat) (v : RingSt) : (s.setRing r v).stall = s.stall := rfl
@[simp] theorem State.setRing_kills (s : State) (r : Nat) (v : RingSt) : (s.setRing r v).kills = s.kills := rfl
@[simp] theorem State.setRing_fatals (s : State) (r : Nat) (v : RingSt) : (s.setRing r v).fatals = s.fatals := rfl
@[simp] theorem State.setRing_errAt (s : State) (r : Nat) (v : RingSt) : (s.setRing r v).errAt = s.errAt := rfl
@[simp] theorem State.setRing_errs (s : State) (r : Nat) (v : RingSt) : (s.setRing r v).errs = s.errs := rfl
@[simp] theorem State.setRing_errStop (s : State) (r : Nat) (v : RingSt) : (s.setRing r v).errStop = s.errStop := rfl
@[simp] theorem State.setRing_resid (s : State) (r : Nat) (v : RingSt) : (s.setRing r v).resid = s.resid := rfl
@[simp] theorem State.setRing_regs (s : State) (r : Nat) (v : RingSt) : (s.setRing r v).regs = s.regs := rfl
@[simp] theorem State.setRing_txn (s : State) (r : Nat) (v : RingSt) : (s.setRing r v).txn = s.txn := rfl
@[simp] theorem State.setRing_mem (s : State) (r : Nat) (v : RingSt) : (s.setRing r v).mem = s.mem := rfl
@[simp] theorem State.setRing_sync (s : State) (r : Nat) (v : RingSt) : (s.setRing r v).sync = s.sync := rfl
@[simp] theorem State.setRing_cores (s : State) (r : Nat) (v : RingSt) : (s.setRing r v).cores = s.cores := rfl
@[simp] theorem State.setRing_frost (s : State) (r : Nat) (v : RingSt) : (s.setRing r v).frost = s.frost := rfl
@[simp] theorem State.setRing_dbg (s : State) (r : Nat) (v : RingSt) : (s.setRing r v).dbg = s.dbg := rfl
@[simp] theorem State.setRing_ports (s : State) (r : Nat) (v : RingSt) : (s.setRing r v).ports = s.ports := rfl
@[simp] theorem State.setRing_fab (s : State) (r : Nat) (v : RingSt) : (s.setRing r v).fab = s.fab := rfl
@[simp] theorem State.setRing_col (s : State) (r : Nat) (v : RingSt) : (s.setRing r v).col = s.col := rfl
@[simp] theorem State.setRing_rst (s : State) (r : Nat) (v : RingSt) : (s.setRing r v).rst = s.rst := rfl
@[simp] theorem State.setRing_saves (s : State) (r : Nat) (v : RingSt) : (s.setRing r v).saves = s.saves := rfl
@[simp] theorem State.setRing_d2d (s : State) (r : Nat) (v : RingSt) : (s.setRing r v).d2d = s.d2d := rfl
@[simp] theorem State.setRing_pwr (s : State) (r : Nat) (v : RingSt) : (s.setRing r v).pwr = s.pwr := rfl
@[simp] theorem State.setRing_sec (s : State) (r : Nat) (v : RingSt) : (s.setRing r v).sec = s.sec := rfl

@[simp] theorem State.modRing_pending (s : State) (r : Nat) (f : RingSt → RingSt) : (s.modRing r f).pending = s.pending := rfl
@[simp] theorem State.modRing_out (s : State) (r : Nat) (f : RingSt → RingSt) : (s.modRing r f).out = s.out := rfl
@[simp] theorem State.modRing_now (s : State) (r : Nat) (f : RingSt → RingSt) : (s.modRing r f).now = s.now := rfl
@[simp] theorem State.modRing_tbase (s : State) (r : Nat) (f : RingSt → RingSt) : (s.modRing r f).tbase = s.tbase := rfl
@[simp] theorem State.modRing_free (s : State) (r : Nat) (f : RingSt → RingSt) : (s.modRing r f).free = s.free := rfl
@[simp] theorem State.modRing_stall (s : State) (r : Nat) (f : RingSt → RingSt) : (s.modRing r f).stall = s.stall := rfl
@[simp] theorem State.modRing_kills (s : State) (r : Nat) (f : RingSt → RingSt) : (s.modRing r f).kills = s.kills := rfl
@[simp] theorem State.modRing_fatals (s : State) (r : Nat) (f : RingSt → RingSt) : (s.modRing r f).fatals = s.fatals := rfl
@[simp] theorem State.modRing_errAt (s : State) (r : Nat) (f : RingSt → RingSt) : (s.modRing r f).errAt = s.errAt := rfl
@[simp] theorem State.modRing_errs (s : State) (r : Nat) (f : RingSt → RingSt) : (s.modRing r f).errs = s.errs := rfl
@[simp] theorem State.modRing_errStop (s : State) (r : Nat) (f : RingSt → RingSt) : (s.modRing r f).errStop = s.errStop := rfl
@[simp] theorem State.modRing_resid (s : State) (r : Nat) (f : RingSt → RingSt) : (s.modRing r f).resid = s.resid := rfl
@[simp] theorem State.modRing_regs (s : State) (r : Nat) (f : RingSt → RingSt) : (s.modRing r f).regs = s.regs := rfl
@[simp] theorem State.modRing_txn (s : State) (r : Nat) (f : RingSt → RingSt) : (s.modRing r f).txn = s.txn := rfl
@[simp] theorem State.modRing_mem (s : State) (r : Nat) (f : RingSt → RingSt) : (s.modRing r f).mem = s.mem := rfl
@[simp] theorem State.modRing_sync (s : State) (r : Nat) (f : RingSt → RingSt) : (s.modRing r f).sync = s.sync := rfl
@[simp] theorem State.modRing_cores (s : State) (r : Nat) (f : RingSt → RingSt) : (s.modRing r f).cores = s.cores := rfl
@[simp] theorem State.modRing_frost (s : State) (r : Nat) (f : RingSt → RingSt) : (s.modRing r f).frost = s.frost := rfl
@[simp] theorem State.modRing_dbg (s : State) (r : Nat) (f : RingSt → RingSt) : (s.modRing r f).dbg = s.dbg := rfl
@[simp] theorem State.modRing_ports (s : State) (r : Nat) (f : RingSt → RingSt) : (s.modRing r f).ports = s.ports := rfl
@[simp] theorem State.modRing_fab (s : State) (r : Nat) (f : RingSt → RingSt) : (s.modRing r f).fab = s.fab := rfl
@[simp] theorem State.modRing_col (s : State) (r : Nat) (f : RingSt → RingSt) : (s.modRing r f).col = s.col := rfl
@[simp] theorem State.modRing_rst (s : State) (r : Nat) (f : RingSt → RingSt) : (s.modRing r f).rst = s.rst := rfl
@[simp] theorem State.modRing_saves (s : State) (r : Nat) (f : RingSt → RingSt) : (s.modRing r f).saves = s.saves := rfl
@[simp] theorem State.modRing_d2d (s : State) (r : Nat) (f : RingSt → RingSt) : (s.modRing r f).d2d = s.d2d := rfl
@[simp] theorem State.modRing_pwr (s : State) (r : Nat) (f : RingSt → RingSt) : (s.modRing r f).pwr = s.pwr := rfl
@[simp] theorem State.modRing_sec (s : State) (r : Nat) (f : RingSt → RingSt) : (s.modRing r f).sec = s.sec := rfl

@[simp] theorem State.modPort_pending (s : State) (p : Nat) (f : PortSt → PortSt) : (s.modPort p f).pending = s.pending := rfl
@[simp] theorem State.modPort_out (s : State) (p : Nat) (f : PortSt → PortSt) : (s.modPort p f).out = s.out := rfl
@[simp] theorem State.modPort_now (s : State) (p : Nat) (f : PortSt → PortSt) : (s.modPort p f).now = s.now := rfl
@[simp] theorem State.modPort_tbase (s : State) (p : Nat) (f : PortSt → PortSt) : (s.modPort p f).tbase = s.tbase := rfl
@[simp] theorem State.modPort_free (s : State) (p : Nat) (f : PortSt → PortSt) : (s.modPort p f).free = s.free := rfl
@[simp] theorem State.modPort_stall (s : State) (p : Nat) (f : PortSt → PortSt) : (s.modPort p f).stall = s.stall := rfl
@[simp] theorem State.modPort_kills (s : State) (p : Nat) (f : PortSt → PortSt) : (s.modPort p f).kills = s.kills := rfl
@[simp] theorem State.modPort_fatals (s : State) (p : Nat) (f : PortSt → PortSt) : (s.modPort p f).fatals = s.fatals := rfl
@[simp] theorem State.modPort_errAt (s : State) (p : Nat) (f : PortSt → PortSt) : (s.modPort p f).errAt = s.errAt := rfl
@[simp] theorem State.modPort_errs (s : State) (p : Nat) (f : PortSt → PortSt) : (s.modPort p f).errs = s.errs := rfl
@[simp] theorem State.modPort_errStop (s : State) (p : Nat) (f : PortSt → PortSt) : (s.modPort p f).errStop = s.errStop := rfl
@[simp] theorem State.modPort_resid (s : State) (p : Nat) (f : PortSt → PortSt) : (s.modPort p f).resid = s.resid := rfl
@[simp] theorem State.modPort_regs (s : State) (p : Nat) (f : PortSt → PortSt) : (s.modPort p f).regs = s.regs := rfl
@[simp] theorem State.modPort_txn (s : State) (p : Nat) (f : PortSt → PortSt) : (s.modPort p f).txn = s.txn := rfl
@[simp] theorem State.modPort_mem (s : State) (p : Nat) (f : PortSt → PortSt) : (s.modPort p f).mem = s.mem := rfl
@[simp] theorem State.modPort_sync (s : State) (p : Nat) (f : PortSt → PortSt) : (s.modPort p f).sync = s.sync := rfl
@[simp] theorem State.modPort_cores (s : State) (p : Nat) (f : PortSt → PortSt) : (s.modPort p f).cores = s.cores := rfl
@[simp] theorem State.modPort_fe (s : State) (p : Nat) (f : PortSt → PortSt) : (s.modPort p f).fe = s.fe := rfl
@[simp] theorem State.modPort_frost (s : State) (p : Nat) (f : PortSt → PortSt) : (s.modPort p f).frost = s.frost := rfl
@[simp] theorem State.modPort_dbg (s : State) (p : Nat) (f : PortSt → PortSt) : (s.modPort p f).dbg = s.dbg := rfl
@[simp] theorem State.modPort_fab (s : State) (p : Nat) (f : PortSt → PortSt) : (s.modPort p f).fab = s.fab := rfl
@[simp] theorem State.modPort_col (s : State) (p : Nat) (f : PortSt → PortSt) : (s.modPort p f).col = s.col := rfl
@[simp] theorem State.modPort_rst (s : State) (p : Nat) (f : PortSt → PortSt) : (s.modPort p f).rst = s.rst := rfl
@[simp] theorem State.modPort_saves (s : State) (p : Nat) (f : PortSt → PortSt) : (s.modPort p f).saves = s.saves := rfl
@[simp] theorem State.modPort_d2d (s : State) (p : Nat) (f : PortSt → PortSt) : (s.modPort p f).d2d = s.d2d := rfl
@[simp] theorem State.modPort_pwr (s : State) (p : Nat) (f : PortSt → PortSt) : (s.modPort p f).pwr = s.pwr := rfl
@[simp] theorem State.modPort_sec (s : State) (p : Nat) (f : PortSt → PortSt) : (s.modPort p f).sec = s.sec := rfl

@[simp] theorem State.setBar_pending (s : State) (i : Nat) (b : BarSt) : (s.setBar i b).pending = s.pending := rfl
@[simp] theorem State.setBar_out (s : State) (i : Nat) (b : BarSt) : (s.setBar i b).out = s.out := rfl
@[simp] theorem State.setBar_now (s : State) (i : Nat) (b : BarSt) : (s.setBar i b).now = s.now := rfl
@[simp] theorem State.setBar_tbase (s : State) (i : Nat) (b : BarSt) : (s.setBar i b).tbase = s.tbase := rfl
@[simp] theorem State.setBar_free (s : State) (i : Nat) (b : BarSt) : (s.setBar i b).free = s.free := rfl
@[simp] theorem State.setBar_stall (s : State) (i : Nat) (b : BarSt) : (s.setBar i b).stall = s.stall := rfl
@[simp] theorem State.setBar_kills (s : State) (i : Nat) (b : BarSt) : (s.setBar i b).kills = s.kills := rfl
@[simp] theorem State.setBar_fatals (s : State) (i : Nat) (b : BarSt) : (s.setBar i b).fatals = s.fatals := rfl
@[simp] theorem State.setBar_errAt (s : State) (i : Nat) (b : BarSt) : (s.setBar i b).errAt = s.errAt := rfl
@[simp] theorem State.setBar_errs (s : State) (i : Nat) (b : BarSt) : (s.setBar i b).errs = s.errs := rfl
@[simp] theorem State.setBar_errStop (s : State) (i : Nat) (b : BarSt) : (s.setBar i b).errStop = s.errStop := rfl
@[simp] theorem State.setBar_resid (s : State) (i : Nat) (b : BarSt) : (s.setBar i b).resid = s.resid := rfl
@[simp] theorem State.setBar_regs (s : State) (i : Nat) (b : BarSt) : (s.setBar i b).regs = s.regs := rfl
@[simp] theorem State.setBar_txn (s : State) (i : Nat) (b : BarSt) : (s.setBar i b).txn = s.txn := rfl
@[simp] theorem State.setBar_mem (s : State) (i : Nat) (b : BarSt) : (s.setBar i b).mem = s.mem := rfl
@[simp] theorem State.setBar_cores (s : State) (i : Nat) (b : BarSt) : (s.setBar i b).cores = s.cores := rfl
@[simp] theorem State.setBar_fe (s : State) (i : Nat) (b : BarSt) : (s.setBar i b).fe = s.fe := rfl
@[simp] theorem State.setBar_frost (s : State) (i : Nat) (b : BarSt) : (s.setBar i b).frost = s.frost := rfl
@[simp] theorem State.setBar_dbg (s : State) (i : Nat) (b : BarSt) : (s.setBar i b).dbg = s.dbg := rfl
@[simp] theorem State.setBar_ports (s : State) (i : Nat) (b : BarSt) : (s.setBar i b).ports = s.ports := rfl
@[simp] theorem State.setBar_fab (s : State) (i : Nat) (b : BarSt) : (s.setBar i b).fab = s.fab := rfl
@[simp] theorem State.setBar_col (s : State) (i : Nat) (b : BarSt) : (s.setBar i b).col = s.col := rfl
@[simp] theorem State.setBar_rst (s : State) (i : Nat) (b : BarSt) : (s.setBar i b).rst = s.rst := rfl
@[simp] theorem State.setBar_saves (s : State) (i : Nat) (b : BarSt) : (s.setBar i b).saves = s.saves := rfl
@[simp] theorem State.setBar_d2d (s : State) (i : Nat) (b : BarSt) : (s.setBar i b).d2d = s.d2d := rfl
@[simp] theorem State.setBar_pwr (s : State) (i : Nat) (b : BarSt) : (s.setBar i b).pwr = s.pwr := rfl
@[simp] theorem State.setBar_sec (s : State) (i : Nat) (b : BarSt) : (s.setBar i b).sec = s.sec := rfl

@[simp] theorem emit_pending (s : State) (o : Out) : (emit o s).pending = s.pending := rfl
@[simp] theorem emit_out (s : State) (o : Out) : (emit o s).out = o :: s.out := rfl
@[simp] theorem emit_now (s : State) (o : Out) : (emit o s).now = s.now := rfl
@[simp] theorem emit_tbase (s : State) (o : Out) : (emit o s).tbase = s.tbase := rfl
@[simp] theorem emit_free (s : State) (o : Out) : (emit o s).free = s.free := rfl
@[simp] theorem emit_stall (s : State) (o : Out) : (emit o s).stall = s.stall := rfl
@[simp] theorem emit_kills (s : State) (o : Out) : (emit o s).kills = s.kills := rfl
@[simp] theorem emit_fatals (s : State) (o : Out) : (emit o s).fatals = s.fatals := rfl
@[simp] theorem emit_errAt (s : State) (o : Out) : (emit o s).errAt = s.errAt := rfl
@[simp] theorem emit_errs (s : State) (o : Out) : (emit o s).errs = s.errs := rfl
@[simp] theorem emit_errStop (s : State) (o : Out) : (emit o s).errStop = s.errStop := rfl
@[simp] theorem emit_resid (s : State) (o : Out) : (emit o s).resid = s.resid := rfl
@[simp] theorem emit_regs (s : State) (o : Out) : (emit o s).regs = s.regs := rfl
@[simp] theorem emit_txn (s : State) (o : Out) : (emit o s).txn = s.txn := rfl
@[simp] theorem emit_mem (s : State) (o : Out) : (emit o s).mem = s.mem := rfl
@[simp] theorem emit_sync (s : State) (o : Out) : (emit o s).sync = s.sync := rfl
@[simp] theorem emit_cores (s : State) (o : Out) : (emit o s).cores = s.cores := rfl
@[simp] theorem emit_fe (s : State) (o : Out) : (emit o s).fe = s.fe := rfl
@[simp] theorem emit_frost (s : State) (o : Out) : (emit o s).frost = s.frost := rfl
@[simp] theorem emit_dbg (s : State) (o : Out) : (emit o s).dbg = s.dbg := rfl
@[simp] theorem emit_ports (s : State) (o : Out) : (emit o s).ports = s.ports := rfl
@[simp] theorem emit_fab (s : State) (o : Out) : (emit o s).fab = s.fab := rfl
@[simp] theorem emit_col (s : State) (o : Out) : (emit o s).col = s.col := rfl
@[simp] theorem emit_rst (s : State) (o : Out) : (emit o s).rst = s.rst := rfl
@[simp] theorem emit_saves (s : State) (o : Out) : (emit o s).saves = s.saves := rfl
@[simp] theorem emit_d2d (s : State) (o : Out) : (emit o s).d2d = s.d2d := rfl
@[simp] theorem emit_pwr (s : State) (o : Out) : (emit o s).pwr = s.pwr := rfl
@[simp] theorem emit_sec (s : State) (o : Out) : (emit o s).sec = s.sec := rfl

@[simp] theorem State.modFe_pending (s : State) (f : FeSt → FeSt) : (s.modFe f).pending = s.pending := rfl
@[simp] theorem State.modFe_out (s : State) (f : FeSt → FeSt) : (s.modFe f).out = s.out := rfl
@[simp] theorem State.modFe_now (s : State) (f : FeSt → FeSt) : (s.modFe f).now = s.now := rfl
@[simp] theorem State.modFe_tbase (s : State) (f : FeSt → FeSt) : (s.modFe f).tbase = s.tbase := rfl
@[simp] theorem State.modFe_free (s : State) (f : FeSt → FeSt) : (s.modFe f).free = s.free := rfl
@[simp] theorem State.modFe_stall (s : State) (f : FeSt → FeSt) : (s.modFe f).stall = s.stall := rfl
@[simp] theorem State.modFe_kills (s : State) (f : FeSt → FeSt) : (s.modFe f).kills = s.kills := rfl
@[simp] theorem State.modFe_fatals (s : State) (f : FeSt → FeSt) : (s.modFe f).fatals = s.fatals := rfl
@[simp] theorem State.modFe_errAt (s : State) (f : FeSt → FeSt) : (s.modFe f).errAt = s.errAt := rfl
@[simp] theorem State.modFe_errs (s : State) (f : FeSt → FeSt) : (s.modFe f).errs = s.errs := rfl
@[simp] theorem State.modFe_errStop (s : State) (f : FeSt → FeSt) : (s.modFe f).errStop = s.errStop := rfl
@[simp] theorem State.modFe_resid (s : State) (f : FeSt → FeSt) : (s.modFe f).resid = s.resid := rfl
@[simp] theorem State.modFe_regs (s : State) (f : FeSt → FeSt) : (s.modFe f).regs = s.regs := rfl
@[simp] theorem State.modFe_txn (s : State) (f : FeSt → FeSt) : (s.modFe f).txn = s.txn := rfl
@[simp] theorem State.modFe_mem (s : State) (f : FeSt → FeSt) : (s.modFe f).mem = s.mem := rfl
@[simp] theorem State.modFe_sync (s : State) (f : FeSt → FeSt) : (s.modFe f).sync = s.sync := rfl
@[simp] theorem State.modFe_cores (s : State) (f : FeSt → FeSt) : (s.modFe f).cores = s.cores := rfl
@[simp] theorem State.modFe_fe (s : State) (f : FeSt → FeSt) : (s.modFe f).fe = f s.fe := rfl
@[simp] theorem State.modFe_frost (s : State) (f : FeSt → FeSt) : (s.modFe f).frost = s.frost := rfl
@[simp] theorem State.modFe_dbg (s : State) (f : FeSt → FeSt) : (s.modFe f).dbg = s.dbg := rfl
@[simp] theorem State.modFe_ports (s : State) (f : FeSt → FeSt) : (s.modFe f).ports = s.ports := rfl
@[simp] theorem State.modFe_fab (s : State) (f : FeSt → FeSt) : (s.modFe f).fab = s.fab := rfl
@[simp] theorem State.modFe_col (s : State) (f : FeSt → FeSt) : (s.modFe f).col = s.col := rfl
@[simp] theorem State.modFe_rst (s : State) (f : FeSt → FeSt) : (s.modFe f).rst = s.rst := rfl
@[simp] theorem State.modFe_saves (s : State) (f : FeSt → FeSt) : (s.modFe f).saves = s.saves := rfl
@[simp] theorem State.modFe_d2d (s : State) (f : FeSt → FeSt) : (s.modFe f).d2d = s.d2d := rfl
@[simp] theorem State.modFe_pwr (s : State) (f : FeSt → FeSt) : (s.modFe f).pwr = s.pwr := rfl
@[simp] theorem State.modFe_sec (s : State) (f : FeSt → FeSt) : (s.modFe f).sec = s.sec := rfl

@[simp] theorem State.modMem_pending (s : State) (f : MemSt → MemSt) : (s.modMem f).pending = s.pending := rfl
@[simp] theorem State.modMem_out (s : State) (f : MemSt → MemSt) : (s.modMem f).out = s.out := rfl
@[simp] theorem State.modMem_now (s : State) (f : MemSt → MemSt) : (s.modMem f).now = s.now := rfl
@[simp] theorem State.modMem_tbase (s : State) (f : MemSt → MemSt) : (s.modMem f).tbase = s.tbase := rfl
@[simp] theorem State.modMem_free (s : State) (f : MemSt → MemSt) : (s.modMem f).free = s.free := rfl
@[simp] theorem State.modMem_stall (s : State) (f : MemSt → MemSt) : (s.modMem f).stall = s.stall := rfl
@[simp] theorem State.modMem_kills (s : State) (f : MemSt → MemSt) : (s.modMem f).kills = s.kills := rfl
@[simp] theorem State.modMem_fatals (s : State) (f : MemSt → MemSt) : (s.modMem f).fatals = s.fatals := rfl
@[simp] theorem State.modMem_errAt (s : State) (f : MemSt → MemSt) : (s.modMem f).errAt = s.errAt := rfl
@[simp] theorem State.modMem_errs (s : State) (f : MemSt → MemSt) : (s.modMem f).errs = s.errs := rfl
@[simp] theorem State.modMem_errStop (s : State) (f : MemSt → MemSt) : (s.modMem f).errStop = s.errStop := rfl
@[simp] theorem State.modMem_resid (s : State) (f : MemSt → MemSt) : (s.modMem f).resid = s.resid := rfl
@[simp] theorem State.modMem_regs (s : State) (f : MemSt → MemSt) : (s.modMem f).regs = s.regs := rfl
@[simp] theorem State.modMem_txn (s : State) (f : MemSt → MemSt) : (s.modMem f).txn = s.txn := rfl
@[simp] theorem State.modMem_mem (s : State) (f : MemSt → MemSt) : (s.modMem f).mem = f s.mem := rfl
@[simp] theorem State.modMem_sync (s : State) (f : MemSt → MemSt) : (s.modMem f).sync = s.sync := rfl
@[simp] theorem State.modMem_cores (s : State) (f : MemSt → MemSt) : (s.modMem f).cores = s.cores := rfl
@[simp] theorem State.modMem_fe (s : State) (f : MemSt → MemSt) : (s.modMem f).fe = s.fe := rfl
@[simp] theorem State.modMem_frost (s : State) (f : MemSt → MemSt) : (s.modMem f).frost = s.frost := rfl
@[simp] theorem State.modMem_dbg (s : State) (f : MemSt → MemSt) : (s.modMem f).dbg = s.dbg := rfl
@[simp] theorem State.modMem_ports (s : State) (f : MemSt → MemSt) : (s.modMem f).ports = s.ports := rfl
@[simp] theorem State.modMem_fab (s : State) (f : MemSt → MemSt) : (s.modMem f).fab = s.fab := rfl
@[simp] theorem State.modMem_col (s : State) (f : MemSt → MemSt) : (s.modMem f).col = s.col := rfl
@[simp] theorem State.modMem_rst (s : State) (f : MemSt → MemSt) : (s.modMem f).rst = s.rst := rfl
@[simp] theorem State.modMem_saves (s : State) (f : MemSt → MemSt) : (s.modMem f).saves = s.saves := rfl
@[simp] theorem State.modMem_d2d (s : State) (f : MemSt → MemSt) : (s.modMem f).d2d = s.d2d := rfl
@[simp] theorem State.modMem_pwr (s : State) (f : MemSt → MemSt) : (s.modMem f).pwr = s.pwr := rfl
@[simp] theorem State.modMem_sec (s : State) (f : MemSt → MemSt) : (s.modMem f).sec = s.sec := rfl

@[simp] theorem State.modSync_pending (s : State) (f : SyncSt → SyncSt) : (s.modSync f).pending = s.pending := rfl
@[simp] theorem State.modSync_out (s : State) (f : SyncSt → SyncSt) : (s.modSync f).out = s.out := rfl
@[simp] theorem State.modSync_now (s : State) (f : SyncSt → SyncSt) : (s.modSync f).now = s.now := rfl
@[simp] theorem State.modSync_tbase (s : State) (f : SyncSt → SyncSt) : (s.modSync f).tbase = s.tbase := rfl
@[simp] theorem State.modSync_free (s : State) (f : SyncSt → SyncSt) : (s.modSync f).free = s.free := rfl
@[simp] theorem State.modSync_stall (s : State) (f : SyncSt → SyncSt) : (s.modSync f).stall = s.stall := rfl
@[simp] theorem State.modSync_kills (s : State) (f : SyncSt → SyncSt) : (s.modSync f).kills = s.kills := rfl
@[simp] theorem State.modSync_fatals (s : State) (f : SyncSt → SyncSt) : (s.modSync f).fatals = s.fatals := rfl
@[simp] theorem State.modSync_errAt (s : State) (f : SyncSt → SyncSt) : (s.modSync f).errAt = s.errAt := rfl
@[simp] theorem State.modSync_errs (s : State) (f : SyncSt → SyncSt) : (s.modSync f).errs = s.errs := rfl
@[simp] theorem State.modSync_errStop (s : State) (f : SyncSt → SyncSt) : (s.modSync f).errStop = s.errStop := rfl
@[simp] theorem State.modSync_resid (s : State) (f : SyncSt → SyncSt) : (s.modSync f).resid = s.resid := rfl
@[simp] theorem State.modSync_regs (s : State) (f : SyncSt → SyncSt) : (s.modSync f).regs = s.regs := rfl
@[simp] theorem State.modSync_txn (s : State) (f : SyncSt → SyncSt) : (s.modSync f).txn = s.txn := rfl
@[simp] theorem State.modSync_mem (s : State) (f : SyncSt → SyncSt) : (s.modSync f).mem = s.mem := rfl
@[simp] theorem State.modSync_sync (s : State) (f : SyncSt → SyncSt) : (s.modSync f).sync = f s.sync := rfl
@[simp] theorem State.modSync_cores (s : State) (f : SyncSt → SyncSt) : (s.modSync f).cores = s.cores := rfl
@[simp] theorem State.modSync_fe (s : State) (f : SyncSt → SyncSt) : (s.modSync f).fe = s.fe := rfl
@[simp] theorem State.modSync_frost (s : State) (f : SyncSt → SyncSt) : (s.modSync f).frost = s.frost := rfl
@[simp] theorem State.modSync_dbg (s : State) (f : SyncSt → SyncSt) : (s.modSync f).dbg = s.dbg := rfl
@[simp] theorem State.modSync_ports (s : State) (f : SyncSt → SyncSt) : (s.modSync f).ports = s.ports := rfl
@[simp] theorem State.modSync_fab (s : State) (f : SyncSt → SyncSt) : (s.modSync f).fab = s.fab := rfl
@[simp] theorem State.modSync_col (s : State) (f : SyncSt → SyncSt) : (s.modSync f).col = s.col := rfl
@[simp] theorem State.modSync_rst (s : State) (f : SyncSt → SyncSt) : (s.modSync f).rst = s.rst := rfl
@[simp] theorem State.modSync_saves (s : State) (f : SyncSt → SyncSt) : (s.modSync f).saves = s.saves := rfl
@[simp] theorem State.modSync_d2d (s : State) (f : SyncSt → SyncSt) : (s.modSync f).d2d = s.d2d := rfl
@[simp] theorem State.modSync_pwr (s : State) (f : SyncSt → SyncSt) : (s.modSync f).pwr = s.pwr := rfl
@[simp] theorem State.modSync_sec (s : State) (f : SyncSt → SyncSt) : (s.modSync f).sec = s.sec := rfl

@[simp] theorem State.modFrost_pending (s : State) (f : FrostSt → FrostSt) : (s.modFrost f).pending = s.pending := rfl
@[simp] theorem State.modFrost_out (s : State) (f : FrostSt → FrostSt) : (s.modFrost f).out = s.out := rfl
@[simp] theorem State.modFrost_now (s : State) (f : FrostSt → FrostSt) : (s.modFrost f).now = s.now := rfl
@[simp] theorem State.modFrost_tbase (s : State) (f : FrostSt → FrostSt) : (s.modFrost f).tbase = s.tbase := rfl
@[simp] theorem State.modFrost_free (s : State) (f : FrostSt → FrostSt) : (s.modFrost f).free = s.free := rfl
@[simp] theorem State.modFrost_stall (s : State) (f : FrostSt → FrostSt) : (s.modFrost f).stall = s.stall := rfl
@[simp] theorem State.modFrost_kills (s : State) (f : FrostSt → FrostSt) : (s.modFrost f).kills = s.kills := rfl
@[simp] theorem State.modFrost_fatals (s : State) (f : FrostSt → FrostSt) : (s.modFrost f).fatals = s.fatals := rfl
@[simp] theorem State.modFrost_errAt (s : State) (f : FrostSt → FrostSt) : (s.modFrost f).errAt = s.errAt := rfl
@[simp] theorem State.modFrost_errs (s : State) (f : FrostSt → FrostSt) : (s.modFrost f).errs = s.errs := rfl
@[simp] theorem State.modFrost_errStop (s : State) (f : FrostSt → FrostSt) : (s.modFrost f).errStop = s.errStop := rfl
@[simp] theorem State.modFrost_resid (s : State) (f : FrostSt → FrostSt) : (s.modFrost f).resid = s.resid := rfl
@[simp] theorem State.modFrost_regs (s : State) (f : FrostSt → FrostSt) : (s.modFrost f).regs = s.regs := rfl
@[simp] theorem State.modFrost_txn (s : State) (f : FrostSt → FrostSt) : (s.modFrost f).txn = s.txn := rfl
@[simp] theorem State.modFrost_mem (s : State) (f : FrostSt → FrostSt) : (s.modFrost f).mem = s.mem := rfl
@[simp] theorem State.modFrost_sync (s : State) (f : FrostSt → FrostSt) : (s.modFrost f).sync = s.sync := rfl
@[simp] theorem State.modFrost_cores (s : State) (f : FrostSt → FrostSt) : (s.modFrost f).cores = s.cores := rfl
@[simp] theorem State.modFrost_fe (s : State) (f : FrostSt → FrostSt) : (s.modFrost f).fe = s.fe := rfl
@[simp] theorem State.modFrost_frost (s : State) (f : FrostSt → FrostSt) : (s.modFrost f).frost = f s.frost := rfl
@[simp] theorem State.modFrost_dbg (s : State) (f : FrostSt → FrostSt) : (s.modFrost f).dbg = s.dbg := rfl
@[simp] theorem State.modFrost_ports (s : State) (f : FrostSt → FrostSt) : (s.modFrost f).ports = s.ports := rfl
@[simp] theorem State.modFrost_fab (s : State) (f : FrostSt → FrostSt) : (s.modFrost f).fab = s.fab := rfl
@[simp] theorem State.modFrost_col (s : State) (f : FrostSt → FrostSt) : (s.modFrost f).col = s.col := rfl
@[simp] theorem State.modFrost_rst (s : State) (f : FrostSt → FrostSt) : (s.modFrost f).rst = s.rst := rfl
@[simp] theorem State.modFrost_saves (s : State) (f : FrostSt → FrostSt) : (s.modFrost f).saves = s.saves := rfl
@[simp] theorem State.modFrost_d2d (s : State) (f : FrostSt → FrostSt) : (s.modFrost f).d2d = s.d2d := rfl
@[simp] theorem State.modFrost_pwr (s : State) (f : FrostSt → FrostSt) : (s.modFrost f).pwr = s.pwr := rfl
@[simp] theorem State.modFrost_sec (s : State) (f : FrostSt → FrostSt) : (s.modFrost f).sec = s.sec := rfl

@[simp] theorem State.modDbg_pending (s : State) (f : DbgSt → DbgSt) : (s.modDbg f).pending = s.pending := rfl
@[simp] theorem State.modDbg_out (s : State) (f : DbgSt → DbgSt) : (s.modDbg f).out = s.out := rfl
@[simp] theorem State.modDbg_now (s : State) (f : DbgSt → DbgSt) : (s.modDbg f).now = s.now := rfl
@[simp] theorem State.modDbg_tbase (s : State) (f : DbgSt → DbgSt) : (s.modDbg f).tbase = s.tbase := rfl
@[simp] theorem State.modDbg_free (s : State) (f : DbgSt → DbgSt) : (s.modDbg f).free = s.free := rfl
@[simp] theorem State.modDbg_stall (s : State) (f : DbgSt → DbgSt) : (s.modDbg f).stall = s.stall := rfl
@[simp] theorem State.modDbg_kills (s : State) (f : DbgSt → DbgSt) : (s.modDbg f).kills = s.kills := rfl
@[simp] theorem State.modDbg_fatals (s : State) (f : DbgSt → DbgSt) : (s.modDbg f).fatals = s.fatals := rfl
@[simp] theorem State.modDbg_errAt (s : State) (f : DbgSt → DbgSt) : (s.modDbg f).errAt = s.errAt := rfl
@[simp] theorem State.modDbg_errs (s : State) (f : DbgSt → DbgSt) : (s.modDbg f).errs = s.errs := rfl
@[simp] theorem State.modDbg_errStop (s : State) (f : DbgSt → DbgSt) : (s.modDbg f).errStop = s.errStop := rfl
@[simp] theorem State.modDbg_resid (s : State) (f : DbgSt → DbgSt) : (s.modDbg f).resid = s.resid := rfl
@[simp] theorem State.modDbg_regs (s : State) (f : DbgSt → DbgSt) : (s.modDbg f).regs = s.regs := rfl
@[simp] theorem State.modDbg_txn (s : State) (f : DbgSt → DbgSt) : (s.modDbg f).txn = s.txn := rfl
@[simp] theorem State.modDbg_mem (s : State) (f : DbgSt → DbgSt) : (s.modDbg f).mem = s.mem := rfl
@[simp] theorem State.modDbg_sync (s : State) (f : DbgSt → DbgSt) : (s.modDbg f).sync = s.sync := rfl
@[simp] theorem State.modDbg_cores (s : State) (f : DbgSt → DbgSt) : (s.modDbg f).cores = s.cores := rfl
@[simp] theorem State.modDbg_fe (s : State) (f : DbgSt → DbgSt) : (s.modDbg f).fe = s.fe := rfl
@[simp] theorem State.modDbg_frost (s : State) (f : DbgSt → DbgSt) : (s.modDbg f).frost = s.frost := rfl
@[simp] theorem State.modDbg_dbg (s : State) (f : DbgSt → DbgSt) : (s.modDbg f).dbg = f s.dbg := rfl
@[simp] theorem State.modDbg_ports (s : State) (f : DbgSt → DbgSt) : (s.modDbg f).ports = s.ports := rfl
@[simp] theorem State.modDbg_fab (s : State) (f : DbgSt → DbgSt) : (s.modDbg f).fab = s.fab := rfl
@[simp] theorem State.modDbg_col (s : State) (f : DbgSt → DbgSt) : (s.modDbg f).col = s.col := rfl
@[simp] theorem State.modDbg_rst (s : State) (f : DbgSt → DbgSt) : (s.modDbg f).rst = s.rst := rfl
@[simp] theorem State.modDbg_saves (s : State) (f : DbgSt → DbgSt) : (s.modDbg f).saves = s.saves := rfl
@[simp] theorem State.modDbg_d2d (s : State) (f : DbgSt → DbgSt) : (s.modDbg f).d2d = s.d2d := rfl
@[simp] theorem State.modDbg_pwr (s : State) (f : DbgSt → DbgSt) : (s.modDbg f).pwr = s.pwr := rfl
@[simp] theorem State.modDbg_sec (s : State) (f : DbgSt → DbgSt) : (s.modDbg f).sec = s.sec := rfl

@[simp] theorem State.modFab_pending (s : State) (f : FabSt → FabSt) : (s.modFab f).pending = s.pending := rfl
@[simp] theorem State.modFab_out (s : State) (f : FabSt → FabSt) : (s.modFab f).out = s.out := rfl
@[simp] theorem State.modFab_now (s : State) (f : FabSt → FabSt) : (s.modFab f).now = s.now := rfl
@[simp] theorem State.modFab_tbase (s : State) (f : FabSt → FabSt) : (s.modFab f).tbase = s.tbase := rfl
@[simp] theorem State.modFab_free (s : State) (f : FabSt → FabSt) : (s.modFab f).free = s.free := rfl
@[simp] theorem State.modFab_stall (s : State) (f : FabSt → FabSt) : (s.modFab f).stall = s.stall := rfl
@[simp] theorem State.modFab_kills (s : State) (f : FabSt → FabSt) : (s.modFab f).kills = s.kills := rfl
@[simp] theorem State.modFab_fatals (s : State) (f : FabSt → FabSt) : (s.modFab f).fatals = s.fatals := rfl
@[simp] theorem State.modFab_errAt (s : State) (f : FabSt → FabSt) : (s.modFab f).errAt = s.errAt := rfl
@[simp] theorem State.modFab_errs (s : State) (f : FabSt → FabSt) : (s.modFab f).errs = s.errs := rfl
@[simp] theorem State.modFab_errStop (s : State) (f : FabSt → FabSt) : (s.modFab f).errStop = s.errStop := rfl
@[simp] theorem State.modFab_resid (s : State) (f : FabSt → FabSt) : (s.modFab f).resid = s.resid := rfl
@[simp] theorem State.modFab_regs (s : State) (f : FabSt → FabSt) : (s.modFab f).regs = s.regs := rfl
@[simp] theorem State.modFab_txn (s : State) (f : FabSt → FabSt) : (s.modFab f).txn = s.txn := rfl
@[simp] theorem State.modFab_mem (s : State) (f : FabSt → FabSt) : (s.modFab f).mem = s.mem := rfl
@[simp] theorem State.modFab_sync (s : State) (f : FabSt → FabSt) : (s.modFab f).sync = s.sync := rfl
@[simp] theorem State.modFab_cores (s : State) (f : FabSt → FabSt) : (s.modFab f).cores = s.cores := rfl
@[simp] theorem State.modFab_fe (s : State) (f : FabSt → FabSt) : (s.modFab f).fe = s.fe := rfl
@[simp] theorem State.modFab_frost (s : State) (f : FabSt → FabSt) : (s.modFab f).frost = s.frost := rfl
@[simp] theorem State.modFab_dbg (s : State) (f : FabSt → FabSt) : (s.modFab f).dbg = s.dbg := rfl
@[simp] theorem State.modFab_ports (s : State) (f : FabSt → FabSt) : (s.modFab f).ports = s.ports := rfl
@[simp] theorem State.modFab_fab (s : State) (f : FabSt → FabSt) : (s.modFab f).fab = f s.fab := rfl
@[simp] theorem State.modFab_col (s : State) (f : FabSt → FabSt) : (s.modFab f).col = s.col := rfl
@[simp] theorem State.modFab_rst (s : State) (f : FabSt → FabSt) : (s.modFab f).rst = s.rst := rfl
@[simp] theorem State.modFab_saves (s : State) (f : FabSt → FabSt) : (s.modFab f).saves = s.saves := rfl
@[simp] theorem State.modFab_d2d (s : State) (f : FabSt → FabSt) : (s.modFab f).d2d = s.d2d := rfl
@[simp] theorem State.modFab_pwr (s : State) (f : FabSt → FabSt) : (s.modFab f).pwr = s.pwr := rfl
@[simp] theorem State.modFab_sec (s : State) (f : FabSt → FabSt) : (s.modFab f).sec = s.sec := rfl

@[simp] theorem State.modTxn_pending (s : State) (f : TxnSt → TxnSt) : (s.modTxn f).pending = s.pending := rfl
@[simp] theorem State.modTxn_out (s : State) (f : TxnSt → TxnSt) : (s.modTxn f).out = s.out := rfl
@[simp] theorem State.modTxn_now (s : State) (f : TxnSt → TxnSt) : (s.modTxn f).now = s.now := rfl
@[simp] theorem State.modTxn_tbase (s : State) (f : TxnSt → TxnSt) : (s.modTxn f).tbase = s.tbase := rfl
@[simp] theorem State.modTxn_free (s : State) (f : TxnSt → TxnSt) : (s.modTxn f).free = s.free := rfl
@[simp] theorem State.modTxn_stall (s : State) (f : TxnSt → TxnSt) : (s.modTxn f).stall = s.stall := rfl
@[simp] theorem State.modTxn_kills (s : State) (f : TxnSt → TxnSt) : (s.modTxn f).kills = s.kills := rfl
@[simp] theorem State.modTxn_fatals (s : State) (f : TxnSt → TxnSt) : (s.modTxn f).fatals = s.fatals := rfl
@[simp] theorem State.modTxn_errAt (s : State) (f : TxnSt → TxnSt) : (s.modTxn f).errAt = s.errAt := rfl
@[simp] theorem State.modTxn_errs (s : State) (f : TxnSt → TxnSt) : (s.modTxn f).errs = s.errs := rfl
@[simp] theorem State.modTxn_errStop (s : State) (f : TxnSt → TxnSt) : (s.modTxn f).errStop = s.errStop := rfl
@[simp] theorem State.modTxn_resid (s : State) (f : TxnSt → TxnSt) : (s.modTxn f).resid = s.resid := rfl
@[simp] theorem State.modTxn_regs (s : State) (f : TxnSt → TxnSt) : (s.modTxn f).regs = s.regs := rfl
@[simp] theorem State.modTxn_txn (s : State) (f : TxnSt → TxnSt) : (s.modTxn f).txn = f s.txn := rfl
@[simp] theorem State.modTxn_mem (s : State) (f : TxnSt → TxnSt) : (s.modTxn f).mem = s.mem := rfl
@[simp] theorem State.modTxn_sync (s : State) (f : TxnSt → TxnSt) : (s.modTxn f).sync = s.sync := rfl
@[simp] theorem State.modTxn_cores (s : State) (f : TxnSt → TxnSt) : (s.modTxn f).cores = s.cores := rfl
@[simp] theorem State.modTxn_fe (s : State) (f : TxnSt → TxnSt) : (s.modTxn f).fe = s.fe := rfl
@[simp] theorem State.modTxn_frost (s : State) (f : TxnSt → TxnSt) : (s.modTxn f).frost = s.frost := rfl
@[simp] theorem State.modTxn_dbg (s : State) (f : TxnSt → TxnSt) : (s.modTxn f).dbg = s.dbg := rfl
@[simp] theorem State.modTxn_ports (s : State) (f : TxnSt → TxnSt) : (s.modTxn f).ports = s.ports := rfl
@[simp] theorem State.modTxn_fab (s : State) (f : TxnSt → TxnSt) : (s.modTxn f).fab = s.fab := rfl
@[simp] theorem State.modTxn_col (s : State) (f : TxnSt → TxnSt) : (s.modTxn f).col = s.col := rfl
@[simp] theorem State.modTxn_rst (s : State) (f : TxnSt → TxnSt) : (s.modTxn f).rst = s.rst := rfl
@[simp] theorem State.modTxn_saves (s : State) (f : TxnSt → TxnSt) : (s.modTxn f).saves = s.saves := rfl
@[simp] theorem State.modTxn_d2d (s : State) (f : TxnSt → TxnSt) : (s.modTxn f).d2d = s.d2d := rfl
@[simp] theorem State.modTxn_pwr (s : State) (f : TxnSt → TxnSt) : (s.modTxn f).pwr = s.pwr := rfl
@[simp] theorem State.modTxn_sec (s : State) (f : TxnSt → TxnSt) : (s.modTxn f).sec = s.sec := rfl

@[simp] theorem State.modD2d_pending (s : State) (f : D2dSt → D2dSt) : (s.modD2d f).pending = s.pending := rfl
@[simp] theorem State.modD2d_out (s : State) (f : D2dSt → D2dSt) : (s.modD2d f).out = s.out := rfl
@[simp] theorem State.modD2d_now (s : State) (f : D2dSt → D2dSt) : (s.modD2d f).now = s.now := rfl
@[simp] theorem State.modD2d_tbase (s : State) (f : D2dSt → D2dSt) : (s.modD2d f).tbase = s.tbase := rfl
@[simp] theorem State.modD2d_free (s : State) (f : D2dSt → D2dSt) : (s.modD2d f).free = s.free := rfl
@[simp] theorem State.modD2d_stall (s : State) (f : D2dSt → D2dSt) : (s.modD2d f).stall = s.stall := rfl
@[simp] theorem State.modD2d_kills (s : State) (f : D2dSt → D2dSt) : (s.modD2d f).kills = s.kills := rfl
@[simp] theorem State.modD2d_fatals (s : State) (f : D2dSt → D2dSt) : (s.modD2d f).fatals = s.fatals := rfl
@[simp] theorem State.modD2d_errAt (s : State) (f : D2dSt → D2dSt) : (s.modD2d f).errAt = s.errAt := rfl
@[simp] theorem State.modD2d_errs (s : State) (f : D2dSt → D2dSt) : (s.modD2d f).errs = s.errs := rfl
@[simp] theorem State.modD2d_errStop (s : State) (f : D2dSt → D2dSt) : (s.modD2d f).errStop = s.errStop := rfl
@[simp] theorem State.modD2d_resid (s : State) (f : D2dSt → D2dSt) : (s.modD2d f).resid = s.resid := rfl
@[simp] theorem State.modD2d_regs (s : State) (f : D2dSt → D2dSt) : (s.modD2d f).regs = s.regs := rfl
@[simp] theorem State.modD2d_txn (s : State) (f : D2dSt → D2dSt) : (s.modD2d f).txn = s.txn := rfl
@[simp] theorem State.modD2d_mem (s : State) (f : D2dSt → D2dSt) : (s.modD2d f).mem = s.mem := rfl
@[simp] theorem State.modD2d_sync (s : State) (f : D2dSt → D2dSt) : (s.modD2d f).sync = s.sync := rfl
@[simp] theorem State.modD2d_cores (s : State) (f : D2dSt → D2dSt) : (s.modD2d f).cores = s.cores := rfl
@[simp] theorem State.modD2d_fe (s : State) (f : D2dSt → D2dSt) : (s.modD2d f).fe = s.fe := rfl
@[simp] theorem State.modD2d_frost (s : State) (f : D2dSt → D2dSt) : (s.modD2d f).frost = s.frost := rfl
@[simp] theorem State.modD2d_dbg (s : State) (f : D2dSt → D2dSt) : (s.modD2d f).dbg = s.dbg := rfl
@[simp] theorem State.modD2d_ports (s : State) (f : D2dSt → D2dSt) : (s.modD2d f).ports = s.ports := rfl
@[simp] theorem State.modD2d_fab (s : State) (f : D2dSt → D2dSt) : (s.modD2d f).fab = s.fab := rfl
@[simp] theorem State.modD2d_col (s : State) (f : D2dSt → D2dSt) : (s.modD2d f).col = s.col := rfl
@[simp] theorem State.modD2d_rst (s : State) (f : D2dSt → D2dSt) : (s.modD2d f).rst = s.rst := rfl
@[simp] theorem State.modD2d_saves (s : State) (f : D2dSt → D2dSt) : (s.modD2d f).saves = s.saves := rfl
@[simp] theorem State.modD2d_d2d (s : State) (f : D2dSt → D2dSt) : (s.modD2d f).d2d = f s.d2d := rfl
@[simp] theorem State.modD2d_pwr (s : State) (f : D2dSt → D2dSt) : (s.modD2d f).pwr = s.pwr := rfl
@[simp] theorem State.modD2d_sec (s : State) (f : D2dSt → D2dSt) : (s.modD2d f).sec = s.sec := rfl

@[simp] theorem State.modPwr_pending (s : State) (f : PwrSt → PwrSt) : (s.modPwr f).pending = s.pending := rfl
@[simp] theorem State.modPwr_out (s : State) (f : PwrSt → PwrSt) : (s.modPwr f).out = s.out := rfl
@[simp] theorem State.modPwr_now (s : State) (f : PwrSt → PwrSt) : (s.modPwr f).now = s.now := rfl
@[simp] theorem State.modPwr_tbase (s : State) (f : PwrSt → PwrSt) : (s.modPwr f).tbase = s.tbase := rfl
@[simp] theorem State.modPwr_free (s : State) (f : PwrSt → PwrSt) : (s.modPwr f).free = s.free := rfl
@[simp] theorem State.modPwr_stall (s : State) (f : PwrSt → PwrSt) : (s.modPwr f).stall = s.stall := rfl
@[simp] theorem State.modPwr_kills (s : State) (f : PwrSt → PwrSt) : (s.modPwr f).kills = s.kills := rfl
@[simp] theorem State.modPwr_fatals (s : State) (f : PwrSt → PwrSt) : (s.modPwr f).fatals = s.fatals := rfl
@[simp] theorem State.modPwr_errAt (s : State) (f : PwrSt → PwrSt) : (s.modPwr f).errAt = s.errAt := rfl
@[simp] theorem State.modPwr_errs (s : State) (f : PwrSt → PwrSt) : (s.modPwr f).errs = s.errs := rfl
@[simp] theorem State.modPwr_errStop (s : State) (f : PwrSt → PwrSt) : (s.modPwr f).errStop = s.errStop := rfl
@[simp] theorem State.modPwr_resid (s : State) (f : PwrSt → PwrSt) : (s.modPwr f).resid = s.resid := rfl
@[simp] theorem State.modPwr_regs (s : State) (f : PwrSt → PwrSt) : (s.modPwr f).regs = s.regs := rfl
@[simp] theorem State.modPwr_txn (s : State) (f : PwrSt → PwrSt) : (s.modPwr f).txn = s.txn := rfl
@[simp] theorem State.modPwr_mem (s : State) (f : PwrSt → PwrSt) : (s.modPwr f).mem = s.mem := rfl
@[simp] theorem State.modPwr_sync (s : State) (f : PwrSt → PwrSt) : (s.modPwr f).sync = s.sync := rfl
@[simp] theorem State.modPwr_cores (s : State) (f : PwrSt → PwrSt) : (s.modPwr f).cores = s.cores := rfl
@[simp] theorem State.modPwr_fe (s : State) (f : PwrSt → PwrSt) : (s.modPwr f).fe = s.fe := rfl
@[simp] theorem State.modPwr_frost (s : State) (f : PwrSt → PwrSt) : (s.modPwr f).frost = s.frost := rfl
@[simp] theorem State.modPwr_dbg (s : State) (f : PwrSt → PwrSt) : (s.modPwr f).dbg = s.dbg := rfl
@[simp] theorem State.modPwr_ports (s : State) (f : PwrSt → PwrSt) : (s.modPwr f).ports = s.ports := rfl
@[simp] theorem State.modPwr_fab (s : State) (f : PwrSt → PwrSt) : (s.modPwr f).fab = s.fab := rfl
@[simp] theorem State.modPwr_col (s : State) (f : PwrSt → PwrSt) : (s.modPwr f).col = s.col := rfl
@[simp] theorem State.modPwr_rst (s : State) (f : PwrSt → PwrSt) : (s.modPwr f).rst = s.rst := rfl
@[simp] theorem State.modPwr_saves (s : State) (f : PwrSt → PwrSt) : (s.modPwr f).saves = s.saves := rfl
@[simp] theorem State.modPwr_d2d (s : State) (f : PwrSt → PwrSt) : (s.modPwr f).d2d = s.d2d := rfl
@[simp] theorem State.modPwr_pwr (s : State) (f : PwrSt → PwrSt) : (s.modPwr f).pwr = f s.pwr := rfl
@[simp] theorem State.modPwr_sec (s : State) (f : PwrSt → PwrSt) : (s.modPwr f).sec = s.sec := rfl

@[simp] theorem State.modSec_pending (s : State) (f : SecSt → SecSt) : (s.modSec f).pending = s.pending := rfl
@[simp] theorem State.modSec_out (s : State) (f : SecSt → SecSt) : (s.modSec f).out = s.out := rfl
@[simp] theorem State.modSec_now (s : State) (f : SecSt → SecSt) : (s.modSec f).now = s.now := rfl
@[simp] theorem State.modSec_tbase (s : State) (f : SecSt → SecSt) : (s.modSec f).tbase = s.tbase := rfl
@[simp] theorem State.modSec_free (s : State) (f : SecSt → SecSt) : (s.modSec f).free = s.free := rfl
@[simp] theorem State.modSec_stall (s : State) (f : SecSt → SecSt) : (s.modSec f).stall = s.stall := rfl
@[simp] theorem State.modSec_kills (s : State) (f : SecSt → SecSt) : (s.modSec f).kills = s.kills := rfl
@[simp] theorem State.modSec_fatals (s : State) (f : SecSt → SecSt) : (s.modSec f).fatals = s.fatals := rfl
@[simp] theorem State.modSec_errAt (s : State) (f : SecSt → SecSt) : (s.modSec f).errAt = s.errAt := rfl
@[simp] theorem State.modSec_errs (s : State) (f : SecSt → SecSt) : (s.modSec f).errs = s.errs := rfl
@[simp] theorem State.modSec_errStop (s : State) (f : SecSt → SecSt) : (s.modSec f).errStop = s.errStop := rfl
@[simp] theorem State.modSec_resid (s : State) (f : SecSt → SecSt) : (s.modSec f).resid = s.resid := rfl
@[simp] theorem State.modSec_regs (s : State) (f : SecSt → SecSt) : (s.modSec f).regs = s.regs := rfl
@[simp] theorem State.modSec_txn (s : State) (f : SecSt → SecSt) : (s.modSec f).txn = s.txn := rfl
@[simp] theorem State.modSec_mem (s : State) (f : SecSt → SecSt) : (s.modSec f).mem = s.mem := rfl
@[simp] theorem State.modSec_sync (s : State) (f : SecSt → SecSt) : (s.modSec f).sync = s.sync := rfl
@[simp] theorem State.modSec_cores (s : State) (f : SecSt → SecSt) : (s.modSec f).cores = s.cores := rfl
@[simp] theorem State.modSec_fe (s : State) (f : SecSt → SecSt) : (s.modSec f).fe = s.fe := rfl
@[simp] theorem State.modSec_frost (s : State) (f : SecSt → SecSt) : (s.modSec f).frost = s.frost := rfl
@[simp] theorem State.modSec_dbg (s : State) (f : SecSt → SecSt) : (s.modSec f).dbg = s.dbg := rfl
@[simp] theorem State.modSec_ports (s : State) (f : SecSt → SecSt) : (s.modSec f).ports = s.ports := rfl
@[simp] theorem State.modSec_fab (s : State) (f : SecSt → SecSt) : (s.modSec f).fab = s.fab := rfl
@[simp] theorem State.modSec_col (s : State) (f : SecSt → SecSt) : (s.modSec f).col = s.col := rfl
@[simp] theorem State.modSec_rst (s : State) (f : SecSt → SecSt) : (s.modSec f).rst = s.rst := rfl
@[simp] theorem State.modSec_saves (s : State) (f : SecSt → SecSt) : (s.modSec f).saves = s.saves := rfl
@[simp] theorem State.modSec_d2d (s : State) (f : SecSt → SecSt) : (s.modSec f).d2d = s.d2d := rfl
@[simp] theorem State.modSec_pwr (s : State) (f : SecSt → SecSt) : (s.modSec f).pwr = s.pwr := rfl
@[simp] theorem State.modSec_sec (s : State) (f : SecSt → SecSt) : (s.modSec f).sec = f s.sec := rfl

@[simp] theorem State.modRst_pending (s : State) (f : RstSt → RstSt) : (s.modRst f).pending = s.pending := rfl
@[simp] theorem State.modRst_out (s : State) (f : RstSt → RstSt) : (s.modRst f).out = s.out := rfl
@[simp] theorem State.modRst_now (s : State) (f : RstSt → RstSt) : (s.modRst f).now = s.now := rfl
@[simp] theorem State.modRst_tbase (s : State) (f : RstSt → RstSt) : (s.modRst f).tbase = s.tbase := rfl
@[simp] theorem State.modRst_free (s : State) (f : RstSt → RstSt) : (s.modRst f).free = s.free := rfl
@[simp] theorem State.modRst_stall (s : State) (f : RstSt → RstSt) : (s.modRst f).stall = s.stall := rfl
@[simp] theorem State.modRst_kills (s : State) (f : RstSt → RstSt) : (s.modRst f).kills = s.kills := rfl
@[simp] theorem State.modRst_fatals (s : State) (f : RstSt → RstSt) : (s.modRst f).fatals = s.fatals := rfl
@[simp] theorem State.modRst_errAt (s : State) (f : RstSt → RstSt) : (s.modRst f).errAt = s.errAt := rfl
@[simp] theorem State.modRst_errs (s : State) (f : RstSt → RstSt) : (s.modRst f).errs = s.errs := rfl
@[simp] theorem State.modRst_errStop (s : State) (f : RstSt → RstSt) : (s.modRst f).errStop = s.errStop := rfl
@[simp] theorem State.modRst_resid (s : State) (f : RstSt → RstSt) : (s.modRst f).resid = s.resid := rfl
@[simp] theorem State.modRst_regs (s : State) (f : RstSt → RstSt) : (s.modRst f).regs = s.regs := rfl
@[simp] theorem State.modRst_txn (s : State) (f : RstSt → RstSt) : (s.modRst f).txn = s.txn := rfl
@[simp] theorem State.modRst_mem (s : State) (f : RstSt → RstSt) : (s.modRst f).mem = s.mem := rfl
@[simp] theorem State.modRst_sync (s : State) (f : RstSt → RstSt) : (s.modRst f).sync = s.sync := rfl
@[simp] theorem State.modRst_cores (s : State) (f : RstSt → RstSt) : (s.modRst f).cores = s.cores := rfl
@[simp] theorem State.modRst_fe (s : State) (f : RstSt → RstSt) : (s.modRst f).fe = s.fe := rfl
@[simp] theorem State.modRst_frost (s : State) (f : RstSt → RstSt) : (s.modRst f).frost = s.frost := rfl
@[simp] theorem State.modRst_dbg (s : State) (f : RstSt → RstSt) : (s.modRst f).dbg = s.dbg := rfl
@[simp] theorem State.modRst_ports (s : State) (f : RstSt → RstSt) : (s.modRst f).ports = s.ports := rfl
@[simp] theorem State.modRst_fab (s : State) (f : RstSt → RstSt) : (s.modRst f).fab = s.fab := rfl
@[simp] theorem State.modRst_col (s : State) (f : RstSt → RstSt) : (s.modRst f).col = s.col := rfl
@[simp] theorem State.modRst_rst (s : State) (f : RstSt → RstSt) : (s.modRst f).rst = f s.rst := rfl
@[simp] theorem State.modRst_saves (s : State) (f : RstSt → RstSt) : (s.modRst f).saves = s.saves := rfl
@[simp] theorem State.modRst_d2d (s : State) (f : RstSt → RstSt) : (s.modRst f).d2d = s.d2d := rfl
@[simp] theorem State.modRst_pwr (s : State) (f : RstSt → RstSt) : (s.modRst f).pwr = s.pwr := rfl
@[simp] theorem State.modRst_sec (s : State) (f : RstSt → RstSt) : (s.modRst f).sec = s.sec := rfl

end Sys2Proof.Machine
end

