-- ==== Sys2Proof/Laws/Finish.lean ====
section
/-! SUPPORT. How a meaning ends: what `run`, `runHost` and `endOf` answer, and the form in which a statement cites it. -/

namespace Sys2Proof.Machine

theorem endOf_pending (s t : State) : (endOf s t).pending = s.pending := by unfold endOf; split <;> rfl

/-- An effect that met memory that is held has not happened. -/
theorem endOf_stall {s t : State} (h : t.stall = true) : endOf s t = s := by simp [endOf, h]
theorem endOf_done {s t : State} (h : t.stall = false) : endOf s t = { settle t with pending := s.pending } := by
  simp [endOf, h]

theorem settle_settled (s : State) : Settled (settle s) := ⟨rfl, rfl, rfl, rfl⟩

/-- Nothing that was raised is left over at the end, if nothing was before. -/
theorem endOf_settled {s : State} (t : State) (hs : Settled s) : Settled (endOf s t) := by
  unfold endOf; split
  · exact hs
  · exact ⟨rfl, rfl, rfl, rfl⟩

/-- A running device settles the effect. -/
theorem run_running {s : State} (t : State) (h : running s = true) : run s t = .next (endOf s t) := by simp [run, h]

/-- A device in reset takes no command. -/
theorem run_stopped {s : State} (t : State) (h : running s = false) : run s t = .next s := by simp [run, h]

/-- The host is served from host ready on. -/
theorem runHost_ready {s : State} (t : State) (h : ready s = true) : runHost s t = run s t := by simp [runHost, h]
theorem runHost_not_ready {s : State} (t : State) (h : ready s = false) : runHost s t = run s s := by simp [runHost, h]

/-- Before host ready a host access does nothing. -/
theorem runHost_effect (s t : State) (h : running s = true) :
    runHost s t = .next (endOf s (if ready s then t else s)) := by simp [runHost, run, h]

/-- The form of a completion: a meaning that is `run` of an effect that met nothing held has that effect. -/
theorem effect_run {i : Instr} {s t : State} (h : On s) (e : exec i s = run s t) : Effect i s t := by
  rw [Effect, e, run_running t h.1]

theorem does_iff {i : Instr} {s t : State} : Does i s t ↔ t.stall = false ∧ Effect i s t := by
  unfold Does Effect
  constructor <;> rintro ⟨a, b⟩ <;> exact ⟨a, by rw [b, endOf_done a]⟩

theorem does_run {i : Instr} {s t : State} (h : On s) (d : t.stall = false) (e : exec i s = run s t) : Does i s t :=
  does_iff.2 ⟨d, effect_run h e⟩

theorem does_runHost {i : Instr} {s t : State} (h : On s) (r : ready s = true) (d : t.stall = false)
    (e : exec i s = runHost s t) : Does i s t :=
  does_run h d (by rw [e, runHost_ready t r])

/-- Where the device or the host is not served the command does nothing. -/
theorem does_none {i : Instr} {s : State} (h : On s) (e : exec i s = run s s) : Does i s s := does_run h h.2 e

/-- The three endings answer a next state. -/
theorem run_next (s t : State) : ∃ u, run s t = .next u := ⟨_, rfl⟩
theorem runHost_next (s t : State) : ∃ u, runHost s t = .next u := ⟨_, rfl⟩
theorem always_next (s t : State) : ∃ u, always s t = .next u := ⟨_, rfl⟩

/-- The three endings keep the commands that wait, where the effect in a reset does. -/
theorem run_pending {s t u : State} (h : run s t = .next u) : u.pending = s.pending := by
  unfold run at h
  split at h <;> cases h
  · exact endOf_pending _ _
  · rfl

theorem runHost_pending {s t u : State} (h : runHost s t = .next u) : u.pending = s.pending := run_pending h

theorem always_pending {s t u : State} (h : always s t = .next u) : u.pending = s.pending := by
  unfold always at h
  split at h <;> cases h
  · exact endOf_pending _ _
  · rfl

/-- After either ending nothing that was raised is left over, if nothing was before. -/
theorem run_settled {s t u : State} (hs : Settled s) (h : run s t = .next u) : Settled u := by
  unfold run at h
  split at h <;> cases h
  · exact endOf_settled t hs
  · exact hs

theorem always_settled {s t u : State} (hs : Settled s) (h : always s t = .next u) : Settled u := by
  unfold always at h
  split at h <;> cases h
  · exact endOf_settled _ hs
  · exact ⟨rfl, rfl, rfl, rfl⟩

end Sys2Proof.Machine
end

