-- ==== Sys2Proof/Laws/Tables.lean ====
section
/-! SUPPORT. Sparse tables and memory: a read after a write, and the canonical form that every memory operation keeps. -/

namespace Sys2Proof.Machine

variable {α : Type}

theorem smGet_smErase (d : α) (m : SMap α) (k key : Nat) :
    smGet d (smErase k m) key = if key = k then d else smGet d m key := by
  induction m with
  | nil => simp [smErase, smGet]
  | cons e m ih =>
    obtain ⟨a, v⟩ := e
    by_cases h : k = a
    · subst h
      by_cases h' : key = k
      · subst h'; simp only [smErase, if_true, ih]
      · simp [smErase, smGet, h', ih]
    · by_cases h' : key = a
      · subst h'; simp [smErase, smGet, h, Ne.symm h]
      · simp [smErase, smGet, h, h', ih]

theorem smGet_smPut (d x : α) (m : SMap α) (k key : Nat) :
    smGet d (smPut k x m) key = if key = k then x else smGet d m key := by
  induction m with
  | nil => simp [smPut, smGet]
  | cons e m ih =>
    obtain ⟨a, v⟩ := e
    by_cases h : k = a
    · subst h; by_cases h' : key = k <;> simp [smPut, smGet, h']
    · by_cases h1 : k < a
      · simp [smPut, smGet, h, h1]
      · by_cases h' : key = a
        · subst h'; simp [smPut, smGet, h, h1, Ne.symm h]
        · simp [smPut, smGet, h, h1, h', ih]

/-- A sparse table after a write: the value at its key, every other key as before. -/
@[simp] theorem smGet_smSet [DecidableEq α] (d x : α) (m : SMap α) (k key : Nat) :
    smGet d (smSet d k x m) key = if key = k then x else smGet d m key := by
  unfold smSet
  split
  · next h => subst h; simp [smGet_smErase]
  · simp [smGet_smPut]

@[simp] theorem smGet_nil (d : α) (k : Nat) : smGet d [] k = d := rfl

/-- Every key of a table is above a bound. -/
def above (n : Nat) (m : SMap α) : Prop := ∀ e ∈ m, n < e.1

theorem smSorted_cons (k : Nat) (v : α) (m : SMap α) : smSorted ((k, v) :: m) = true ↔ above k m ∧ smSorted m = true := by
  induction m generalizing k v with
  | nil => simp [smSorted, above]
  | cons e m ih =>
    obtain ⟨a, w⟩ := e
    simp only [smSorted, Bool.and_eq_true, decide_eq_true_eq, ih, above, List.mem_cons, forall_eq_or_imp]
    constructor
    · rintro ⟨h, h', h''⟩; exact ⟨⟨h, fun e he => Nat.lt_trans h (h' e he)⟩, h', h''⟩
    · rintro ⟨⟨h, _⟩, h', h''⟩; exact ⟨h, h', h''⟩

theorem above_erase {n : Nat} {m : SMap α} (k : Nat) (h : above n m) : above n (smErase k m) := by
  induction m with
  | nil => exact h
  | cons e m ih =>
    obtain ⟨a, v⟩ := e
    have h' : above n m := fun e he => h e (List.mem_cons_of_mem _ he)
    unfold smErase
    split
    · exact ih h'
    · intro e he
      rcases List.mem_cons.1 he with rfl | he
      · exact h _ List.mem_cons_self
      · exact ih h' e he

theorem above_put {n k : Nat} {m : SMap α} (x : α) (hk : n < k) (h : above n m) : above n (smPut k x m) := by
  induction m with
  | nil => intro e he; simp [smPut] at he; subst he; exact hk
  | cons e m ih =>
    obtain ⟨a, v⟩ := e
    have h' : above n m := fun e he => h e (List.mem_cons_of_mem _ he)
    unfold smPut
    split
    · next hka =>
      intro e he
      rcases List.mem_cons.1 he with rfl | he
      · exact hka ▸ hk
      · exact h' e he
    · split
      · intro e he
        rcases List.mem_cons.1 he with rfl | he
        · exact hk
        · exact h e he
      · intro e he
        rcases List.mem_cons.1 he with rfl | he
        · exact h _ List.mem_cons_self
        · exact ih h' e he

theorem smSorted_smErase (k : Nat) (m : SMap α) (h : smSorted m = true) : smSorted (smErase k m) = true := by
  induction m with
  | nil => exact h
  | cons e m ih =>
    obtain ⟨a, v⟩ := e
    obtain ⟨h1, h2⟩ := (smSorted_cons a v m).1 h
    unfold smErase
    split
    · exact ih h2
    · exact (smSorted_cons _ _ _).2 ⟨above_erase k h1, ih h2⟩

theorem smSorted_smPut (k : Nat) (x : α) (m : SMap α) (h : smSorted m = true) : smSorted (smPut k x m) = true := by
  induction m with
  | nil => simp [smPut, smSorted]
  | cons e m ih =>
    obtain ⟨a, v⟩ := e
    obtain ⟨h1, h2⟩ := (smSorted_cons a v m).1 h
    unfold smPut
    split
    · next hka => subst hka; exact (smSorted_cons _ _ _).2 ⟨h1, h2⟩
    · split
      · next hlt =>
        refine (smSorted_cons _ _ _).2 ⟨?_, h⟩
        intro e he
        rcases List.mem_cons.1 he with rfl | he
        · exact hlt
        · exact Nat.lt_trans hlt (h1 e he)
      · next hne hlt =>
        refine (smSorted_cons _ _ _).2 ⟨above_put x (by omega) h1, ih h2⟩

/-- A write keeps the keys rising. -/
theorem smSorted_smSet [DecidableEq α] (d x : α) (k : Nat) (m : SMap α) (h : smSorted m = true) :
    smSorted (smSet d k x m) = true := by
  unfold smSet; split
  · exact smSorted_smErase k m h
  · exact smSorted_smPut k x m h

/-! ## Memory -/

/-- A byte reads as written; every other address reads as before. -/
@[simp] theorem memGet_memPut (m : MemSt) (a b : Nat) (v : Byte) :
    memGet (memPut m a v) b = if b = a then v else memGet m b := by
  by_cases h : b = a
  · subst h; simp [memGet, memPut]
  · unfold memGet memPut smSet
    simp only [h, if_false]
    split
    · next hv => simp [smGet_smErase, h]
    · simp [smGet_smPut, h]

theorem memGet_memPuts_ne (l : List Byte) (m : MemSt) (a b : Nat) (h : b < a ∨ a + l.length ≤ b) :
    memGet (memPuts m a l) b = memGet m b := by
  induction l generalizing m a with
  | nil => rfl
  | cons v l ih =>
    simp only [List.length_cons] at h
    unfold memPuts
    rw [ih _ _ (by omega), memGet_memPut, if_neg (by omega)]

theorem memGet_memPuts (l : List Byte) (m : MemSt) (a i : Nat) (h : i < l.length) :
    memGet (memPuts m a l) (a + i) = l[i] := by
  induction l generalizing m a i with
  | nil => simp at h
  | cons v l ih =>
    unfold memPuts
    cases i with
    | zero => rw [memGet_memPuts_ne _ _ _ _ (by omega)]; simp
    | succ i =>
      have := ih (memPut m a v) (a + 1) i (by simpa using h)
      rw [show a + (i + 1) = a + 1 + i by omega, this]; rfl

theorem mem_smErase {k : Nat} {m : SMap α} {e : Nat × α} (h : e ∈ smErase k m) : e ∈ m := by
  induction m with
  | nil => exact h
  | cons x m ih =>
    obtain ⟨a, v⟩ := x
    unfold smErase at h
    split at h
    · exact List.mem_cons_of_mem _ (ih h)
    · rcases List.mem_cons.1 h with rfl | h
      · exact List.mem_cons_self
      · exact List.mem_cons_of_mem _ (ih h)

theorem mem_smPut {k : Nat} {x : α} {m : SMap α} {e : Nat × α} (h : e ∈ smPut k x m) : e = (k, x) ∨ e ∈ m := by
  induction m with
  | nil => simp [smPut] at h; exact .inl h
  | cons y m ih =>
    obtain ⟨a, v⟩ := y
    unfold smPut at h
    split at h
    · next hk =>
      rcases List.mem_cons.1 h with h | h
      · exact .inl (hk ▸ h)
      · exact .inr (List.mem_cons_of_mem _ h)
    · split at h
      · rcases List.mem_cons.1 h with h | h
        · exact .inl h
        · exact .inr h
      · rcases List.mem_cons.1 h with rfl | h
        · exact .inr List.mem_cons_self
        · rcases ih h with h | h
          · exact .inl h
          · exact .inr (List.mem_cons_of_mem _ h)

/-- A byte write keeps the canonical form. -/
theorem memPut_wf (m : MemSt) (a : Nat) (b : Byte) (h : Memory.wf m = true) : Memory.wf (memPut m a b) = true := by
  simp only [Memory.wf, Bool.and_eq_true, List.all_eq_true, bne_iff_ne, ne_eq] at h ⊢
  refine ⟨smSorted_smSet _ _ _ _ h.1, fun e he => ?_⟩
  simp only [memPut] at he ⊢
  unfold smSet at he
  split at he
  · exact h.2 e (mem_smErase he)
  · next hb =>
    rcases mem_smPut he with rfl | he
    · exact hb
    · exact h.2 e he

theorem memPuts_wf (l : List Byte) (m : MemSt) (a : Nat) (h : Memory.wf m = true) : Memory.wf (memPuts m a l) = true := by
  induction l generalizing m a with
  | nil => exact h
  | cons b l ih => exact ih _ _ (memPut_wf m a b h)

theorem smSorted_filter (p : Nat × α → Bool) (m : SMap α) (h : smSorted m = true) : smSorted (m.filter p) = true := by
  induction m with
  | nil => exact h
  | cons e m ih =>
    obtain ⟨a, v⟩ := e
    obtain ⟨h1, h2⟩ := (smSorted_cons a v m).1 h
    rw [List.filter_cons]
    split
    · exact (smSorted_cons _ _ _).2 ⟨fun e he => h1 e (List.mem_filter.1 he).1, ih h2⟩
    · exact ih h2

/-- Spans that lie inside a range say nothing of an address outside it. -/
theorem unlisted_filter (l : List Span) (lo hi a : Nat) (h : a < lo ∨ hi ≤ a) :
    unlisted (l.filter (fun sp => !(lo ≤ sp.lo && sp.hi ≤ hi))) a = unlisted l a := by
  induction l with
  | nil => rfl
  | cons sp l ih =>
    rw [List.filter_cons]
    split
    · simp only [unlisted, ih]
    · next hs =>
      have hs : lo ≤ sp.lo ∧ sp.hi ≤ hi := by simpa using hs
      rw [ih]
      have : ¬ (sp.lo ≤ a ∧ a < sp.hi) := by omega
      simp [unlisted, this]

/-- A span keeps the canonical form. -/
theorem memSpan_wf (m : MemSt) (lo hi seed : Nat) (h : Memory.wf m = true) : Memory.wf (memSpan m lo hi seed) = true := by
  simp only [Memory.wf, Bool.and_eq_true, List.all_eq_true, bne_iff_ne, ne_eq] at h ⊢
  refine ⟨smSorted_filter _ _ h.1, fun e he => ?_⟩
  simp only [memSpan, List.mem_filter, Bool.not_eq_true', Bool.and_eq_false_iff, decide_eq_false_iff_not] at he ⊢
  have ho : e.1 < lo ∨ hi ≤ e.1 := by omega
  have := h.2 e he.1
  split
  · rwa [unlisted_filter _ _ _ _ ho]
  · have hn : ¬ (lo ≤ e.1 ∧ e.1 < hi) := by omega
    simp only [unlisted, Bool.and_eq_true, decide_eq_true_eq, hn, if_false]
    rwa [unlisted_filter _ _ _ _ ho]

/-- What a byte reads as after a span: zero or free inside it, as before outside. -/
theorem memGet_memSpan_ne (m : MemSt) (lo hi seed a : Nat) (h : a < lo ∨ hi ≤ a) :
    memGet (memSpan m lo hi seed) a = memGet m a := by
  have hc : ∀ d : Byte, smGet d (m.cells.filter (fun c => !(lo ≤ c.1 && c.1 < hi))) a = smGet d m.cells a := by
    intro d
    induction m.cells with
    | nil => rfl
    | cons e l ih =>
      obtain ⟨k, v⟩ := e
      rw [List.filter_cons]
      by_cases hk : a = k
      · subst hk
        have : (!(decide (lo ≤ a) && decide (a < hi))) = true := by
          simp only [Bool.not_eq_true', Bool.and_eq_false_iff, decide_eq_false_iff_not]; omega
        simp [this, smGet]
      · split
        · simp only [smGet, hk, if_false]; exact ih
        · simp only [smGet, hk, if_false]; exact ih
  have hn : ¬ (lo ≤ a ∧ a < hi) := by omega
  unfold memGet
  rw [show (memSpan m lo hi seed).cells = m.cells.filter (fun c => !(lo ≤ c.1 && c.1 < hi)) from rfl, hc]
  congr 1
  simp only [memSpan]
  split
  · exact unlisted_filter _ _ _ _ h
  · simp only [unlisted, Bool.and_eq_true, decide_eq_true_eq, hn, if_false]
    exact unlisted_filter _ _ _ _ h

/-- Memory after reset has the canonical form. -/
theorem reset_mem_wf : Memory.wf State.reset.mem = true := rfl

end Sys2Proof.Machine
end

