-- ==== Sys2Proof/Laws/Mem.lean ====
section
/-! SUPPORT. What the shared operations over memory can do: writing bytes changes the bytes written and no other,
flushing and buffering change no byte, and every operation keeps the canonical form. -/

namespace Sys2Proof.Machine

/-- Two memories hold the same bytes in the same form. -/
def SameBytes (m n : MemSt) : Prop := m.cells = n.cells ∧ m.spans = n.spans

theorem SameBytes.rfl {m : MemSt} : SameBytes m m := ⟨Eq.refl _, Eq.refl _⟩

theorem SameBytes.trans {m n o : MemSt} (h : SameBytes m n) (k : SameBytes n o) : SameBytes m o :=
  ⟨h.1.trans k.1, h.2.trans k.2⟩

theorem SameBytes.get {m n : MemSt} (h : SameBytes m n) (a : Nat) : memGet m a = memGet n a := by
  simp [memGet, h.1, h.2]

theorem SameBytes.wf {m n : MemSt} (h : SameBytes m n) : Memory.wf m = Memory.wf n := by
  simp [Memory.wf, h.1, h.2]

theorem SameBytes.put {m n : MemSt} (h : SameBytes m n) (a : Nat) (b : Byte) : SameBytes (memPut m a b) (memPut n a b) := by
  constructor <;> simp [memPut, h.1, h.2]

theorem SameBytes.puts {m n : MemSt} (l : List Byte) (h : SameBytes m n) (a : Nat) : SameBytes (memPuts m a l) (memPuts n a l) := by
  induction l generalizing m n a with
  | nil => exact h
  | cons b l ih => exact ih (h.put a b) (a + 1)

theorem memPuts_append (m : MemSt) (a : Nat) (l k : List Byte) :
    memPuts m a (l ++ k) = memPuts (memPuts m a l) (a + l.length) k := by
  induction l generalizing m a with
  | nil => rfl
  | cons b l ih => simp only [List.cons_append, memPuts, ih, List.length_cons]; congr 1; omega

theorem sameBytes_setPoison (g : Nat) (b : Bool) (s : State) : SameBytes (setPoison g b s).mem s.mem := ⟨rfl, rfl⟩

theorem sameBytes_count (b i n : Nat) (s : State) : SameBytes (count b i n s).mem s.mem := by
  unfold count; split <;> exact .rfl

theorem sameBytes_setWcb (ch : Nat) (l : List WcbEntry) (s : State) : SameBytes (setWcb ch l s).mem s.mem := ⟨rfl, rfl⟩

theorem sameBytes_flushLine (e : WcbEntry) (s : State) : SameBytes (flushLine e s).mem s.mem := by
  simp only [flushLine]
  split
  · exact (sameBytes_setPoison _ _ _).trans (sameBytes_count _ _ _ _)
  · exact sameBytes_count _ _ _ _

theorem sameBytes_flushFirst (ch : Nat) (p : WcbEntry → Bool) (s : State) : SameBytes (flushFirst ch p s).mem s.mem := by
  unfold flushFirst
  split
  · exact .rfl
  · exact (sameBytes_flushLine _ _).trans (sameBytes_setWcb _ _ _)

theorem sameBytes_flushTo (n k ch : Nat) (s : State) : SameBytes (flushTo n k ch s).mem s.mem := by
  induction k generalizing s with
  | zero => exact .rfl
  | succ k ih =>
    unfold flushTo
    split
    · exact (ih _).trans (sameBytes_flushFirst _ _ _)
    · exact .rfl

theorem sameBytes_flushChans (l : List Nat) (s : State) : SameBytes (flushChans l s).mem s.mem := by
  unfold flushChans
  induction l generalizing s with
  | nil => exact .rfl
  | cons c l ih => exact (ih _).trans (sameBytes_flushTo _ _ _ _)

theorem sameBytes_wcbAccept (a n : Nat) (p : Bool) (s : State) : SameBytes (wcbAccept a n p s).mem s.mem := by
  simp only [wcbAccept]
  split
  · split
    · exact (sameBytes_flushLine _ _).trans (sameBytes_setWcb _ _ _)
    · exact sameBytes_setWcb _ _ _
  · split
    · exact (sameBytes_flushLine _ _).trans (sameBytes_flushTo _ _ _ _)
    · exact ((sameBytes_flushTo _ _ _ _).trans (sameBytes_setWcb _ _ _)).trans (sameBytes_flushTo _ _ _ _)

/-- Noting an access changes the debug unit alone. -/
theorem touch_eq (a : Nat) (s : State) : ∃ d, touch a s = { s with dbg := d } := by
  unfold touch
  generalize touchBits s a = l
  induction l generalizing s with
  | nil => exact ⟨_, rfl⟩
  | cons b l ih =>
    rw [List.foldl_cons]
    split
    · exact ih s
    · obtain ⟨d, h⟩ := ih (s.modDbg (fun d => { d with touched := d.touched + 2 ^ b }))
      exact ⟨d, h⟩

theorem sameBytes_touch (a : Nat) (s : State) : SameBytes (touch a s).mem s.mem := by
  obtain ⟨d, h⟩ := touch_eq a s; rw [h]; exact .rfl

/-- A chunk is written where it stands and nowhere else. -/
theorem sameBytes_putChunk (a : Nat) (bs : List Byte) (p : Bool) (s : State) :
    SameBytes (putChunk a bs p s).mem (memPuts s.mem a bs) := by
  have hp : ∀ t : State, SameBytes (if p then setPoison (granule s a).1 true (touch a t) else touch a t).mem t.mem := by
    intro t; split
    · exact (sameBytes_setPoison _ _ _).trans (sameBytes_touch _ _)
    · exact sameBytes_touch _ _
  simp only [putChunk]
  split
  · exact (sameBytes_wcbAccept _ _ _ _).trans (hp _)
  · split
    · exact (sameBytes_setPoison _ _ _).trans (hp _)
    · exact hp _

/-- Cutting a write into granules writes the same bytes; `k` bounds the number of granules. -/
theorem sameBytes_putChunks (k a : Nat) (bs : List Byte) (p : Bool) (s : State)
    (h : ∀ t : State, ∀ b, b < (granule t b).1 + (granule t b).2) (hk : bs.length ≤ k) :
    SameBytes (putChunks k a bs p s).mem (memPuts s.mem a bs) := by
  induction k generalizing a bs s with
  | zero =>
    have : bs = [] := List.length_eq_zero_iff.mp (by omega)
    subst this; exact .rfl
  | succ k ih =>
    cases bs with
    | nil => exact .rfl
    | cons b l =>
      simp only [putChunks]
      generalize hn : (granule s a).1 + (granule s a).2 - a = n
      have hpos : 0 < n := by have := h s a; omega
      refine (ih (a + n) ((b :: l).drop n) _ (by simp only [List.length_drop, List.length_cons] at *; omega)).trans ?_
      refine ((sameBytes_putChunk a ((b :: l).take n) p s).puts _ (a + n)).trans ?_
      by_cases hl : n ≤ (b :: l).length
      · have hs := memPuts_append s.mem a ((b :: l).take n) ((b :: l).drop n)
        rw [List.take_append_drop, List.length_take, Nat.min_eq_left hl] at hs
        rw [hs]; exact .rfl
      · rw [List.drop_eq_nil_of_le (by omega), List.take_of_length_le (by omega)]; exact .rfl

theorem granule_covers (s : State) (a : Nat) : a < (granule s a).1 + (granule s a).2 := by
  unfold granule
  split <;> simp only <;> omega

/-- A write of bytes leaves memory as `memPuts` does: those bytes, whatever their granules and buffers. -/
theorem sameBytes_putBytes (a : Nat) (bs : List Byte) (p : Bool) (s : State) :
    SameBytes (putBytes a bs p s).mem (memPuts s.mem a bs) :=
  sameBytes_putChunks _ _ _ _ _ granule_covers (Nat.le_refl _)

/-! ## Every operation keeps the canonical form -/

theorem putBytes_wf (a : Nat) (bs : List Byte) (p : Bool) (s : State) (h : Memory.wf s.mem = true) :
    Memory.wf (putBytes a bs p s).mem = true := by
  rw [(sameBytes_putBytes a bs p s).wf]; exact memPuts_wf _ _ _ h

theorem flushAll_wf (s : State) (h : Memory.wf s.mem = true) : Memory.wf (flushAll s).mem = true := by
  unfold flushAll; rw [(sameBytes_flushChans _ _).wf]; exact h

theorem layBytes_wf (a : Nat) (l : List Byte) (s : State) (h : Memory.wf s.mem = true) :
    Memory.wf (layBytes a l s).mem = true := memPuts_wf _ _ _ h

theorem zeroSpan_wf (lo hi : Nat) (s : State) (h : Memory.wf s.mem = true) : Memory.wf (zeroSpan lo hi s).mem = true := by
  unfold zeroSpan; split
  · exact memSpan_wf _ _ _ _ h
  · exact h

theorem undefSpan_wf (lo hi : Nat) (s : State) (h : Memory.wf s.mem = true) : Memory.wf (undefSpan lo hi s).mem = true := by
  simp only [undefSpan]; split
  · exact memSpan_wf _ _ _ _ h
  · exact h

/-- Marking poison changes no byte. -/
theorem sameBytes_poisonSpan (a n : Nat) (s : State) : SameBytes (poisonSpan a n s).mem s.mem := by
  unfold poisonSpan
  generalize List.range (n / 8) = l
  induction l generalizing s with
  | nil => exact .rfl
  | cons i l ih => exact (ih _).trans (sameBytes_setPoison _ _ _)

/-- Copying a range keeps the form. -/
theorem copyRange_wf (src dst n : Nat) (s : State) (h : Memory.wf s.mem = true) :
    Memory.wf (copyRange src dst n s).mem = true := by
  have spans : ∀ (l : List Span) (t : State), Memory.wf t.mem = true →
      Memory.wf (l.foldl (fun s x => undefSpan (dst + (max x.lo src - src)) (dst + (min x.hi (src + n) - src)) s) t).mem = true := by
    intro l
    induction l with
    | nil => exact fun _ h => h
    | cons x l ih => exact fun t ht => ih _ (undefSpan_wf _ _ _ ht)
  have cells : ∀ (l : List Host.Cell) (m : MemSt), Memory.wf m = true →
      Memory.wf (l.foldl (fun m c => memPut m (dst + (c.1 - src)) c.2) m) = true := by
    intro l
    induction l with
    | nil => exact fun _ h => h
    | cons x l ih => exact fun m hm => ih _ (memPut_wf _ _ _ hm)
  have marks : ∀ (l : List (Nat × Bool)) (t : State), Memory.wf t.mem = true →
      Memory.wf (l.foldl (fun s x => poisonSpan (dst + (x.1 - src)) (granule s x.1).2 s) t).mem = true := by
    intro l
    induction l with
    | nil => exact fun _ h => h
    | cons x l ih => exact fun t ht => ih _ (by rw [(sameBytes_poisonSpan _ _ _).wf]; exact ht)
  exact marks _ _ (cells _ _ (spans _ _ (zeroSpan_wf _ _ _ h)))

end Sys2Proof.Machine
end

