-- ==== Sys2Proof/Laws/Regs.lean ====
section
/-! SUPPORT. Bit fields and registers: what a field reads after a write of its register, of itself, or of another field. -/

namespace Sys2Proof.Machine

/-! ## Bit fields -/

theorem bitsN_lt (v l w : Nat) : bitsN v l w < 2 ^ w := Nat.mod_lt _ (Nat.two_pow_pos w)

/-- A number is what lies above a field, the field, and what lies below it. -/
theorem bitsN_split (v l w : Nat) : v = v / 2 ^ (l + w) * 2 ^ (l + w) + bitsN v l w * 2 ^ l + v % 2 ^ l := by
  have h1 : v = v / 2 ^ l * 2 ^ l + v % 2 ^ l := by rw [Nat.mul_comm]; exact (Nat.div_add_mod v (2 ^ l)).symm
  have h2 : v / 2 ^ l = v / 2 ^ (l + w) * 2 ^ w + bitsN v l w := by
    unfold bitsN
    rw [Nat.pow_add, ← Nat.div_div_eq_div_mul, Nat.mul_comm _ (2 ^ w)]
    exact (Nat.div_add_mod _ _).symm
  calc v = v / 2 ^ l * 2 ^ l + v % 2 ^ l := h1
    _ = (v / 2 ^ (l + w) * 2 ^ w + bitsN v l w) * 2 ^ l + v % 2 ^ l := by rw [← h2]
    _ = _ := by rw [Nat.add_mul, Nat.mul_assoc, ← Nat.pow_add, Nat.add_comm w l]

/-- A number with one field replaced, by its parts. -/
theorem setBitsN_split (v l w x : Nat) :
    setBitsN v l w x = v / 2 ^ (l + w) * 2 ^ (l + w) + x % 2 ^ w * 2 ^ l + v % 2 ^ l := by
  unfold setBitsN
  have := bitsN_split v l w
  omega

theorem bitsN_of_split (a b c l w : Nat) (hb : b < 2 ^ w) (hc : c < 2 ^ l) :
    bitsN (a * 2 ^ (l + w) + b * 2 ^ l + c) l w = b := by
  unfold bitsN
  have : a * 2 ^ (l + w) + b * 2 ^ l + c = (a * 2 ^ w + b) * 2 ^ l + c := by
    rw [Nat.add_mul, Nat.mul_assoc, ← Nat.pow_add, Nat.add_comm w l]
  rw [this, Nat.add_comm, Nat.add_mul_div_right _ _ (Nat.two_pow_pos l), Nat.div_eq_of_lt hc, Nat.zero_add,
    Nat.add_comm, Nat.add_mul_mod_self_right, Nat.mod_eq_of_lt hb]

/-- A field reads as replaced. -/
@[simp] theorem bitsN_setBitsN (v l w x : Nat) : bitsN (setBitsN v l w x) l w = x % 2 ^ w := by
  rw [setBitsN_split]
  exact bitsN_of_split _ _ _ _ _ (Nat.mod_lt _ (Nat.two_pow_pos w)) (Nat.mod_lt _ (Nat.two_pow_pos l))

/-- A bit of a number, by division. -/
theorem bitsN_testBit (v l w i : Nat) : (bitsN v l w).testBit i = (decide (i < w) && v.testBit (l + i)) := by
  simp [bitsN, Nat.testBit_mod_two_pow, Nat.testBit_div_two_pow, Nat.add_comm]

theorem setBitsN_testBit (v l w x i : Nat) :
    (setBitsN v l w x).testBit i = if l ≤ i ∧ i < l + w then x.testBit (i - l) else v.testBit i := by
  rw [setBitsN_split]
  have h1 : v % 2 ^ l < 2 ^ l := Nat.mod_lt _ (Nat.two_pow_pos l)
  have h2 : x % 2 ^ w < 2 ^ w := Nat.mod_lt _ (Nat.two_pow_pos w)
  have h3 : v / 2 ^ (l + w) * 2 ^ (l + w) + x % 2 ^ w * 2 ^ l + v % 2 ^ l =
      2 ^ l * (2 ^ w * (v / 2 ^ (l + w)) + x % 2 ^ w) + v % 2 ^ l := by
    rw [Nat.mul_add, ← Nat.mul_assoc, ← Nat.pow_add, Nat.mul_comm (2 ^ (l + w)), Nat.mul_comm (2 ^ l)]
  rw [h3, Nat.testBit_two_pow_mul_add _ h1]
  split
  · next hi =>
    rw [if_neg (by omega)]
    simp [Nat.testBit_mod_two_pow, hi]
  · next hi =>
    rw [Nat.testBit_two_pow_mul_add _ h2]
    by_cases hw : i - l < w
    · rw [if_pos hw, if_pos ⟨by omega, by omega⟩]
      simp [Nat.testBit_mod_two_pow, hw]
    · rw [if_neg hw, if_neg (by omega), Nat.testBit_div_two_pow]
      congr 1; omega

/-- Another field reads as before. -/
theorem bitsN_setBitsN_ne (v l w x l' w' : Nat) (h : l' + w' ≤ l ∨ l + w ≤ l') :
    bitsN (setBitsN v l w x) l' w' = bitsN v l' w' := by
  apply Nat.eq_of_testBit_eq
  intro i
  rw [bitsN_testBit, bitsN_testBit]
  by_cases hi : i < w'
  · rw [setBitsN_testBit, if_neg (by omega)]
  · simp [hi]

theorem bitsN_wN (v l w : Nat) (h : l + w ≤ 64) : bitsN (wN v).toNat l w = bitsN v l w := by
  apply Nat.eq_of_testBit_eq
  intro i
  simp only [bitsN_testBit, wN, BitVec.toNat_ofNat, Nat.testBit_mod_two_pow]
  by_cases hi : i < w
  · have : l + i < 64 := by omega
    simp [this]
  · simp [hi]

/-! ## Registers -/

@[simp] theorem reg_setReg (s : State) (r : Reg) (i : Nat) (v : Word) : (s.setReg r i v).reg r i = v := by
  simp [State.reg, State.setReg]

theorem smGet_smSet_ne {α : Type} [DecidableEq α] (d d' x : α) (m : SMap α) (k key : Nat) (h : key ≠ k) :
    smGet d' (smSet d k x m) key = smGet d' m key := by
  unfold smSet; split <;> simp [smGet_smErase, smGet_smPut, h]

/-- Another register, or another entry of a register array, reads as before. -/
theorem reg_setReg_ne (s : State) (r r' : Reg) (i i' : Nat) (v : Word) (h : regKey r' i' ≠ regKey r i) :
    (s.setReg r i v).reg r' i' = s.reg r' i' := by
  simp [State.reg, State.setReg, smGet_smSet_ne, h]

/-- A field reads as hardware sets it. -/
theorem fld_setFld (s : State) (f : Fld) (i v : Nat) (h : f.lsb + f.width ≤ 64) :
    (s.setFld f i v).fld f i = v % 2 ^ f.width := by
  simp [State.fld, State.setFld, bitsN_wN _ _ _ h]

/-- A field of a register with another key reads as before. -/
theorem fld_setFld_ne (s : State) (f g : Fld) (i j v : Nat) (h : regKey g.reg j ≠ regKey f.reg i) :
    (s.setFld f i v).fld g j = s.fld g j := by
  simp [State.fld, State.setFld, reg_setReg_ne _ _ _ _ _ _ h]

/-- Another field of the same register reads as before. -/
theorem fld_setFld_disjoint (s : State) (f g : Fld) (i v : Nat) (hr : g.reg = f.reg) (h : g.lsb + g.width ≤ 64)
    (hd : g.lsb + g.width ≤ f.lsb ∨ f.lsb + f.width ≤ g.lsb) : (s.setFld f i v).fld g i = s.fld g i := by
  simp only [State.fld, State.setFld, hr, reg_setReg]
  rw [bitsN_wN _ _ _ h, bitsN_setBitsN_ne _ _ _ _ _ _ hd]

/-! ## Units -/

@[simp] theorem core_setCore (s : State) (c d : Nat) (v : CoreSt) :
    (s.setCore c v).core d = if d = c then v else s.core d := by simp [State.core, State.setCore]

@[simp] theorem core_modCore (s : State) (c d : Nat) (f : CoreSt → CoreSt) :
    (s.modCore c f).core d = if d = c then f (s.core c) else s.core d := by simp [State.modCore]

@[simp] theorem ring_setRing (s : State) (r q : Nat) (v : RingSt) :
    (s.setRing r v).ring q = if q = r then v else s.ring q := by simp [State.ring, State.setRing]

@[simp] theorem port_modPort (s : State) (p q : Nat) (f : PortSt → PortSt) :
    (s.modPort p f).port q = if q = p then f (s.port p) else s.port q := by simp [State.port, State.modPort]

@[simp] theorem bar_setBar (s : State) (i j : Nat) (b : BarSt) :
    (s.setBar i b).bar j = if j = i then b else s.bar j := by simp [State.bar, State.setBar]

/-- x0 reads zero whatever is written to it; any other register reads as written (R136). -/
theorem getX_setX (k : CoreSt) (r q : Nat) (v : Word) :
    (k.setX r v).getX q = if q = 0 then 0 else if q = r then v else k.getX q := by
  unfold CoreSt.getX CoreSt.setX
  by_cases hq : q = 0
  · simp [hq]
  · by_cases hr : r = 0
    · subst hr; simp [hq]
    · simp [hq, hr]

end Sys2Proof.Machine
end

