-- ==== Sys2Proof/Laws/Report.lean ====
section
/-! SUPPORT. What counting, tracing, progress records, signals to the management controller and error reports change: each
is the state with a few fields replaced, so whatever else is read of it is as it was. -/

namespace Sys2Proof.Machine

/-- Counting touches the counter banks alone. -/
theorem count_eq (b i n : Nat) (s : State) : ∃ d, count b i n s = { s with dbg := d } := by
  unfold count; split
  · exact ⟨_, rfl⟩
  · exact ⟨_, rfl⟩

/-- A trace record waits for its writer. -/
theorem trace_eq (t : Nat) (c : Option Nat) (u a b d : Nat) (s : State) : ∃ x, trace t c u a b d s = { s with dbg := x } := by
  unfold trace traceAt; split
  · exact ⟨_, rfl⟩
  · exact ⟨_, rfl⟩

/-- A progress record lies in the front end. -/
theorem setProg_eq (n : Nat) (p : Prog) (s : State) : ∃ f, setProg n p s = { s with fe := f } := by
  unfold setProg
  generalize (if p.total = 0 then { p with dn := 0, time := s.timebase } else { p with time := s.timebase } : Prog) = q
  simp only []
  split
  · exact ⟨_, rfl⟩
  · exact ⟨_, rfl⟩

/-- An outlier is shown, and reported through management. -/
theorem outlier_eq (c k i d : Nat) (s : State) : ∃ r x, outlier c k i d s = { s with regs := r, sec := x } := ⟨_, _, rfl⟩

/-- The log takes a record, or counts one lost. -/
theorem logError_eq (t : Nat) (e : Err) (s : State) :
    ∃ r o f x a, logError t e s = { s with regs := r, out := o, free := f, errStop := x, errAt := a } := by
  unfold logError
  dsimp only
  split
  · exact ⟨_, _, _, _, _, rfl⟩
  split
  · split
    · cases hb : s.choose with
      | mk bad t =>
        have ht : t = { s with free := s.free + 1 } := by
          have := congrArg Prod.snd hb; exact this.symm
        subst ht
        cases bad
        · exact ⟨_, _, _, _, _, rfl⟩
        · exact ⟨_, _, _, _, _, rfl⟩
    · exact ⟨_, _, _, _, _, rfl⟩
  · exact ⟨_, _, _, _, _, rfl⟩

/-- At the end of a command the log takes its errors, and none is left over. -/
theorem flushErrs_eq (s : State) :
    ∃ r o f x a, flushErrs s = { s with regs := r, out := o, free := f, errStop := x, errAt := a, errs := [] } := by
  have fold : ∀ (l : List (Nat × Err)) (u : State), ∃ r o f x a,
      l.foldl (fun s x => logError x.1 x.2 s) u = { u with regs := r, out := o, free := f, errStop := x, errAt := a } := by
    intro l
    induction l with
    | nil => exact fun u => ⟨u.regs, u.out, u.free, u.errStop, u.errAt, rfl⟩
    | cons y l ih =>
      intro u
      obtain ⟨r, o, f, x, a, h⟩ := logError_eq y.1 y.2 u
      obtain ⟨r', o', f', x', a', h'⟩ := ih (logError y.1 y.2 u)
      refine ⟨r', o', f', x', a', ?_⟩
      rw [List.foldl_cons, h', h]
  unfold flushErrs
  split
  · rename_i he
    exact ⟨s.regs, s.out, s.free, s.errStop, s.errAt, by cases s; simp at he; simp [he]⟩
  · obtain ⟨r, o, f, x, a, h⟩ := fold (s.errs.foldl (fun l x => insertErr x l) []) { s with errs := [] }
    exact ⟨r, o, f, x, a, h⟩

/-- An error is counted and traced, and the log and what it ends are left to the end of the command. -/
theorem reportErr_eq (e : Err) (s : State) : ∃ r d g k x, reportErr e s =
    { s with regs := r, dbg := d, errs := g, kills := k, fatals := x } := by
  unfold reportErr
  dsimp only
  generalize e.charged = e
  obtain ⟨r0, h0⟩ : ∃ r, s.incSat (errCounter e.sev) = { s with regs := r } := ⟨_, rfl⟩
  rw [h0]
  obtain ⟨d, hd⟩ := trace_eq 0x50 e.ctx 0 (e.sev + e.code * 65536) e.addr 0 { s with regs := r0 }
  simp only [hd]
  have shape : ∀ t : State, (∃ g, t = { s with regs := r0, dbg := d, errs := g }) →
      ∃ r d g k x, (match e.sev with
        | 2 => match e.ctx with
          | some c => { t with kills := t.kills ++ [c] }
          | none => t
        | 3 => { t with fatals := t.fatals ++ [e.code] }
        | _ => t) = { s with regs := r, dbg := d, errs := g, kills := k, fatals := x } := by
    rintro t ⟨g, rfl⟩
    split
    · split <;> exact ⟨_, _, _, _, _, rfl⟩
    · exact ⟨_, _, _, _, _, rfl⟩
    · exact ⟨_, _, _, _, _, rfl⟩
  exact shape _ ⟨_, rfl⟩

end Sys2Proof.Machine
end

