-- ==== Sys2Proof/Laws/Time.lean ====
section
/-! SUPPORT. What the passing of time can do: the clock goes on, counters count, and nothing else changes. -/

namespace Sys2Proof.Machine

/-- What a stretch of time leaves as it is. -/
structure TimeFrame (s t : State) : Prop where
  pending : t.pending = s.pending
  out : t.out = s.out
  tbase : t.tbase = s.tbase
  kills : t.kills = s.kills
  fatals : t.fatals = s.fatals
  mem : t.mem = s.mem
  sync : t.sync = s.sync
  cores : t.cores = s.cores
  fe : t.fe = s.fe
  frost : t.frost = s.frost
  ports : t.ports = s.ports
  fab : t.fab = s.fab
  col : t.col = s.col
  rst : t.rst = s.rst
  txn : t.txn = s.txn
  d2d : t.d2d = s.d2d
  pwr : t.pwr = s.pwr
  sec : t.sec = s.sec

theorem TimeFrame.refl (s : State) : TimeFrame s s := by constructor <;> rfl

theorem TimeFrame.trans {s t u : State} (h : TimeFrame s t) (k : TimeFrame t u) : TimeFrame s u where
  pending := k.pending.trans h.pending
  out := k.out.trans h.out
  tbase := k.tbase.trans h.tbase
  kills := k.kills.trans h.kills
  fatals := k.fatals.trans h.fatals
  mem := k.mem.trans h.mem
  sync := k.sync.trans h.sync
  cores := k.cores.trans h.cores
  fe := k.fe.trans h.fe
  frost := k.frost.trans h.frost
  ports := k.ports.trans h.ports
  fab := k.fab.trans h.fab
  col := k.col.trans h.col
  rst := k.rst.trans h.rst
  txn := k.txn.trans h.txn
  d2d := k.d2d.trans h.d2d
  pwr := k.pwr.trans h.pwr
  sec := k.sec.trans h.sec

theorem timeFrame_count (b i n : Nat) (s : State) : TimeFrame s (count b i n s) := by
  unfold count; split <;> constructor <;> rfl

/-- A fold of steps that each keep the frame keeps it. -/
theorem timeFrame_foldl {α : Type} (f : State → α → State) (h : ∀ s x, TimeFrame s (f s x)) (l : List α) (s : State) :
    TimeFrame s (l.foldl f s) := by
  induction l generalizing s with
  | nil => exact .refl s
  | cons x l ih => exact (h s x).trans (ih _)

/-- Whatever time passes, only the clock, the counters and the throttle times move. -/
theorem timeFrame_passTime (n : Nat) (s : State) : TimeFrame s (passTime n s) := by
  have clock : ∀ t : State, TimeFrame t { t with now := t.now + n } := fun t => by constructor <;> rfl
  unfold passTime
  refine (timeFrame_foldl _ ?_ _ _).trans ((timeFrame_foldl _ ?_ _ _).trans (clock _))
  · intro s kv
    simp only
    split
    · split
      · exact (timeFrame_count _ _ _ _).trans (timeFrame_count _ _ _ _)
      · exact timeFrame_count _ _ _ _
    · exact .refl _
  · intro s k
    split
    · constructor <;> rfl
    · exact .refl _

theorem now_count (b i n : Nat) (s : State) : (count b i n s).now = s.now := by unfold count; split <;> rfl

/-- The clock moves by the time that passes. -/
theorem now_passTime (n : Nat) (s : State) : (passTime n s).now = s.now + n := by
  have fold : ∀ {α : Type} (f : State → α → State), (∀ s x, (f s x).now = s.now) → ∀ (l : List α) (s : State),
      (l.foldl f s).now = s.now := by
    intro α f h l
    induction l with
    | nil => exact fun _ => rfl
    | cons x l ih => exact fun s => (ih _).trans (h s x)
  simp only [passTime]
  rw [fold, fold]
  · intro s kv
    split
    · split <;> simp [now_count]
    · rfl
  · intro s k; split <;> rfl

theorem timeFrame_passTo (t : Nat) (s : State) : TimeFrame s (passTo t s) := by
  unfold passTo; split
  · exact timeFrame_passTime _ _
  · exact .refl _

/-- Time that is to reach t has reached it, and never goes back. -/
theorem now_passTo (t : Nat) (s : State) : (passTo t s).now = max s.now t := by
  unfold passTo; split
  · rw [now_passTime]; omega
  · omega

end Sys2Proof.Machine
end

