-- ==== Sys2Proof/WellFormed.lean ====
section
/-! DEFINITION. Which commands are well formed: operands that are lists have the lengths that the spec's tables give. The
meanings hold for every command; a list that is short reads as zero beyond its end, and a long one is cut. -/

namespace Sys2Proof

/-- Whether a command's list operands have the lengths of the spec. -/
def Instr.wf : Instr → Bool
  -- R176: one 64-byte line takes the bytes
  | .hbmWrite a d _ => 1 ≤ d.length && a.val % 64 + d.length ≤ 64
  -- PRESUMED: a TLP carries at most 4 KiB
  | .bar4Write _ d => 1 ≤ d.length && d.length ≤ 4096
  -- R243: five flits of 256 bytes in a block
  | .blockReceive _ _ _ _ flits => flits.length == 5 && flits.all (fun f => f.length == 256)
  -- R240: one number for each physical lane
  | .lanemap _ nums _ _ => nums.length == 8
  -- R313: a frame carries 256 data bytes
  | .d2dFrame _ v d _ => v.isNone || d.length == 256
  -- R321: a write brings its bytes
  | .guestRequest w _ n d => !w || d.length == n.val
  -- R325: one estimate and temperature for each die, one temperature for each stack
  | .calenderFastLoop x => x.est.length == 16 && x.tj.length == 16 && x.hbmTj.length == 20
  -- R339, R340, R343: one rate for each die
  | .equalisation l => l.length == 16
  | .ageingTrim l => l.length == 16
  | .isoRateChange l => l.length == 16
  -- R316: one strap word for each die
  | .d2dTraining p _ => p.straps.length == 16
  -- PRESUMED (SPDM): nonces of 32 bytes
  | .challenge _ _ n => n.length == 32
  | .getMeasurements _ _ n => n.length == 32
  | _ => true

end Sys2Proof
end

