-- ==== Sys2Proof/Tests/Slice0.lean ====
section
/-! SUPPORT. Tests: ill-formed commands that the check refuses, single commands against the
spec's own values, and for each statement a state and operands that meet its hypotheses. -/

-- One theorem after another: the checks of many at once would each take a thread of their own.
set_option Elab.async false

namespace Sys2Proof.Tests

open Sys2Proof Sys2Proof.Machine

/-! ## States -/

/-- A device that has booted. -/
def up : State := (State.reset.setFld F.DEV_BOOT_STAT_STEP 0 8).setFld F.DEV_BOOT_STAT_READY 0 1

/-- The state after a command, as the tests read it. -/
def after (i : Instr) (s : State) : State := match exec i s with | .next t => t | _ => s

/-- Core 0 runs a launch. -/
def coreOn (f : CoreSt → CoreSt) : State :=
  (up.setFld F.CORE_CTX_STAT_STATE 0 csRunning).modCore 0 (fun k => { f k with launched := true })

/-- Core 0 has the instruction ins at pc 0 in its cache. -/
def fetching (ins : Nat) (f : CoreSt → CoreSt) : State :=
  coreOn (fun k => { f k with icache := [(0, natLe 4 ins ++ List.replicate 60 0)] })

/-- A block of 64 bytes waits in queue q of core 0. -/
def queued (q : Nat) (v : Nat) (f : CoreSt → CoreSt) : State :=
  (coreOn f).modQueue 0 q (fun u => { u with pend := [⟨1, 0, natLe 64 v, [], []⟩], last := 1 })

/-- A descriptor as it is fetched. -/
def desc (seq v : Nat) : DescSt :=
  ⟨seq, natLe 64 v, .fetched, 0, none, 0, false, 0, 0, 0, false, 0, 0, false, false⟩

/-- Ring r is ACTIVE with one descriptor. -/
def ringWith (r v : Nat) : State :=
  (up.setFld F.FE_RING_CTL_EN r 1).modRing r (fun k => { k with st := rsActive, tail := 1, fetched := 1, descs := [desc 0 v] })

/-- Identifier 0 of context 0 names Vat sync word 0 for every use. -/
def withSid (s : State) : State :=
  layBytes 0 (natLe 4 0xD00000) (((s.setFld F.SYNC_CTX_TBL_EN 0 1).setFld F.SYNC_CTX_LIM_LIMIT 0 16))

/-- Context 0 maps its first GiB to HBM. -/
def mapped (s : State) : State :=
  (layBytes 0x11000 (natLe 8 0x1F) (layBytes 0x10000 (natLe 8 0x11001) s)).modMem
    (fun m => { m with ptBase := smSet 0 0 0x10001 m.ptBase })

/-- A host answer with data. -/
def answer (l : List Byte) : HostAns := ⟨false, false, l, 0⟩

/-! ## Well-formed commands -/

theorem test_wf_hbmWrite : Instr.wf (.hbmWrite 0x3C [1, 2, 3, 4, 5] false) = false ∧ Instr.wf (.hbmWrite 0x3C [1, 2, 3, 4] false) = true := by decide
theorem test_wf_bar4Write : Instr.wf (.bar4Write 0 []) = false := by decide
theorem test_wf_blockReceive : Instr.wf (.blockReceive 0 .clean .clean 0 [[0]]) = false := by decide
theorem test_wf_lanemap : Instr.wf (.lanemap 0 [0, 1] 0 0) = false := by decide
theorem test_wf_d2dFrame : Instr.wf (.d2dFrame 0 (some 0) [0] []) = false := by decide
theorem test_wf_guestRequest : Instr.wf (.guestRequest true 0 2 [0]) = false := by decide
theorem test_wf_calenderFastLoop : Instr.wf (.calenderFastLoop ⟨0, [], [], [], 0, false, false, []⟩) = false := by decide
theorem test_wf_equalisation : Instr.wf (.equalisation [0]) = false := by decide
theorem test_wf_ageingTrim : Instr.wf (.ageingTrim [0]) = false := by decide
theorem test_wf_isoRateChange : Instr.wf (.isoRateChange [0]) = false := by decide
theorem test_wf_d2dTraining : Instr.wf (.d2dTraining ⟨true, [none]⟩ []) = false := by decide
theorem test_wf_challenge : Instr.wf (.challenge .i3c 0 [0]) = false := by decide
theorem test_wf_getMeasurements : Instr.wf (.getMeasurements .i3c 0 [0]) = false := by decide

/-! ## States that meet the hypotheses of the statements -/

theorem test_up : On up ∧ ready up = true ∧ bootStep up = 8 := by unfold On; decide +kernel

theorem test_StepTakesFront : up.pending = [] := by decide +kernel
theorem test_StepKeepsMemory : Memory.wf up.mem = true ∧ Settled up ∧ step up = .next (tick1 up) :=
  ⟨by decide +kernel, ⟨rfl, rfl, rfl, rfl⟩, rfl⟩
/-- A contained error of context 5, at a slice. -/
def err1 : Err := ⟨2, some 5, 8, 3, 13, 0x100, 0⟩
/-- The host's log is on, with 256 entries of which none is used. -/
def logged (head : Nat) : State := (((up.setFld F.DEV_ERR_LOG_CTL_EN 0 1).setFld F.DEV_ERR_LOG_CTL_LOG2N 0 8).setFld F.DEV_ERR_LOG_HEAD_HEAD 0 head)
theorem test_ErrorsTakeEffect_log : let s := { logged 0 with errs := [(7, err1)] }
    s.errs = [(7, err1)] ∧ s.flag F.DEV_ERR_LOG_CTL_EN = true ∧ s.flag F.DEV_ERR_LOG_STAT_FAIL = false ∧ s.errStop = false ∧ err1.sev ≠ 0 ∧
    (s.fld F.DEV_ERR_LOG_STAT_TAIL + 2 ^ 32 - s.fld F.DEV_ERR_LOG_HEAD_HEAD) % 2 ^ 32 < 2 ^ s.fld F.DEV_ERR_LOG_CTL_LOG2N ∧
    2 ^ 8 ≤ ((logged 1).fld F.DEV_ERR_LOG_STAT_TAIL + 2 ^ 32 - (logged 1).fld F.DEV_ERR_LOG_HEAD_HEAD) % 2 ^ 32 ∧
    smGet 0 s.errAt (err1.kind * 4096 + err1.index) ≤ 7 + s.tbase := by decide +kernel
theorem test_ErrorsTakeEffect_off : up.flag F.DEV_ERR_LOG_CTL_EN = false ∧ err1.kind * 4096 + err1.index < { err1 with index := 4 }.kind * 4096 + 4 ∧
    err1.sev < 4 ∧ err1.kind < 16 ∧ err1.index < 4096 := by decide +kernel
/-- A launch of context 5 runs on core 0, and its ring 1 is ACTIVE. -/
def ctx5 : State :=
  { ((coreOn (fun k => { k with launch := some (1, 0) })).setFld F.FE_RING_CTL_CTX 1 5).modRing 1 (fun k => { k with st := rsActive }) with kills := [5] }
theorem test_ErrorsTakeEffect_kill : let s := ctx5.modFe (fun f => { f with launches := [⟨1, 0, 5, 1, 0x1000, 7, 0, true, []⟩] })
    s.kills = [5] ∧ (s.ring 1).st ≠ rsOff ∧ ringCtx s 1 = 5 ∧ 0 ∈ coresOf 1 ∧ (s.core 0).launch = some (1, 0) ∧ (s.core 0).launched = true ∧
    (s.core 0).park = none := by decide +kernel
theorem test_ErrorsTakeEffect_fatal : up.rst.level = 0 ∧ up.rst.off = false ∧ up.rst.vsb = true ∧ up.flag F.DEV_ERR_POLICY_ACT = false ∧
    (up.setFld F.DEV_ERR_POLICY_ACT 0 1).flag F.DEV_ERR_POLICY_ACT = true ∧ frostState up = fsRUN ∧
    frostState (up.setFld F.DEV_FROST_STAT_STATE 0 fsCUT) ≠ fsRUN := by decide +kernel
theorem test_CalmStatesRest : Does .coolantInRange up (up.modPwr (fun p => { p with coolant := false })) ∧
    Calm (up.modPwr (fun p => { p with coolant := false })) := by
  refine ⟨⟨by decide +kernel, rfl⟩, ?_⟩
  unfold Calm Settled
  decide +kernel

theorem test_CodesConvertBack : (decodeFp fE4M3 0x7E).isNaN = false ∧ (decodeFa40 0).isNaN = false := by decide +kernel
theorem test_RoundingPicks : decodeFp fFP32 0x3F800001 = .fin false 0x800001 (-23) := by decide +kernel
theorem test_Comparisons_nan : (decodeFp fFP32 0x7F800001).isNaN = true ∧ (decodeFp fFP32 0x7F800001).isSig = true := by decide +kernel
theorem test_Comparisons_number : (decodeFp fFP32 0).isNaN = false ∧ (decodeFp fFP32 0x7F800000).isNaN = false := by decide +kernel

/-- MMA with ACC = 1, no rows: INT8 operands. -/
def mmaBlock (acc : Nat) : Nat := 1 + acc * 2 ^ 8 + 8 * 2 ^ 16 + 8 * 2 ^ 32
theorem test_MatrixOperationsStart_bad :
    headReady (queued 0 1 id) 0 0 = some ⟨1, 0, natLe 64 1, [], []⟩ ∧ (MBlk.of (natLe 64 1)).op = 1 := by decide +kernel
theorem test_MatrixOperationsStart_ok :
    (headReady (queued 0 (mmaBlock 1) id) 0 0).isSome = true ∧ (MBlk.of (natLe 64 (mmaBlock 1))).ok = true ∧
    (MBlk.of (natLe 64 (mmaBlock 1))).acc = 1 ∧ accReadsDone readsAcc ((queued 0 (mmaBlock 1) id).core 0) 0 = true := by decide +kernel
theorem test_MatrixOperationsStart_waits : let s := queued 0 (mmaBlock 1) (fun k => { k with vq := { k.vq with
      pend := [⟨1, 0, natLe 64 4, [], []⟩] } })
    (headReady (s.modQueue 0 0 (fun u => { u with pend := [⟨1, 1, natLe 64 (mmaBlock 1), [], []⟩] })) 0 0).isSome = true ∧
    accReadsDone readsAcc (s.core 0) 1 = false := by decide +kernel
theorem test_MatrixOperationsStart_mode :
    (MBlk.of (natLe 64 (mmaBlock 0))).acc = 0 ∧ (MBlk.of (natLe 64 (mmaBlock 0))).intMode ≠ ((queued 0 (mmaBlock 0) id).core 0).accInt := by
  decide +kernel
/-- A matrix operation at a step of core 0. -/
def stepOp (step steps : Nat) : MatOp := ⟨1, natLe 64 (mmaBlock 1), step, steps, 0, false, [], []⟩
def stepping (step steps : Nat) : State := coreOn (fun k => { k with mop := some (stepOp step steps) })
theorem test_MatrixSteps_step : On (stepping 0 1) ∧ ((stepping 0 1).core 0).mop = some (stepOp 0 1) ∧
    arrayMayStep (stepping 0 1) 0 (stepOp 0 1) = true ∧ isoOn (stepping 0 1) = false ∧
    stepPoison (stepping 0 1) 0 (MBlk.of (natLe 64 (mmaBlock 1))) 0 = false := by unfold On; decide +kernel
theorem test_MatrixSteps_tile : ((stepping 1 1).core 0).mop = some (stepOp 1 1) ∧ ((stepping 1 1).core 0).inReset = false := by decide +kernel
/-- The Calender puts ballast on the arrays. -/
def ballasting : State := ((up.setFld F.PWR_BALLAST_EN 0 1).setFld F.PWR_THR_STAT_BALLAST 0 100).setFld F.CORE_RATE_CTL_EN 0 1
theorem test_MatrixSteps_ballast : ballasting.flag F.PWR_BALLAST_EN = true ∧ ballasting.fld F.PWR_THR_STAT_BALLAST ≠ 0 ∧
    ballastArray ballasting 0 = true ∧ (up.setFld F.PWR_BALLAST_EN 0 0).flag F.PWR_BALLAST_EN = false ∧ ballasting.flag F.CORE_RATE_CTL_EN 0 = true ∧
    ballasting.fld F.CORE_RATE_CTL_WIN 0 = (ballasting.core 0).win ∧
    ballasting.timebase / winLen (ballasting.core 0).win = (ballasting.core 0).winAt / winLen (ballasting.core 0).win := by decide +kernel
theorem test_MatrixSteps_promote : (MBlk.of (natLe 64 (mmaBlock 1))).tropical = false ∧ (MBlk.of (natLe 64 (mmaBlock 1))).intMode = true := by
  decide +kernel

theorem test_MatrixSteps_float : (∀ t ∈ [Machine.Num.fin false 3 0, .fin true 1 (-4)], t.isFinNum = true) ∧ expOf 3 0 = 1 ∧ expOf 1 (-4) = -4 ∧
    (MBlk.of (natLe 64 (1 + 3 * 2 ^ 16 + 3 * 2 ^ 32))).intMode = false ∧ (MBlk.of (natLe 64 (4 + 3 * 2 ^ 16 + 3 * 2 ^ 32))).tropical = true ∧
    partialAdd [.fin false 3 0, .fin true 3 0] = (.zero false, 0) := by decide +kernel
theorem test_MatrixSteps_fa40 : (fa40Add (.fin false 1 0) (.fin false 1 (-30))).1 = (fa40Add (.fin false 1 0) (.zero false)).1 ∧
    (fa40Add (.fin false 1 0) (.fin false 1 (-29))).1 ≠ (fa40Add (.fin false 1 0) (.zero false)).1 := by decide +kernel

/-- FADD of FP32, VL lanes, v1 := v2 + v3. -/
def faddBlock (vl : Nat) : Nat := 0x10 + 1 * 2 ^ 16 + 2 * 2 ^ 21 + 3 * 2 ^ 26 + vl * 2 ^ 43
theorem test_VectorBlocksRun_bad : (headReady (queued 1 (faddBlock 2047) id) 0 1).isSome = true ∧
    (VBlk.of (natLe 64 (faddBlock 2047))).opc = 0x10 ∧
    (VBlk.of (natLe 64 (faddBlock 2047))).ok ((queued 1 (faddBlock 2047) id).core 0) = false := by decide +kernel
theorem test_VectorBlocksRun_ok : (headReady (queued 1 (faddBlock 2) id) 0 1).isSome = true ∧
    (VBlk.of (natLe 64 (faddBlock 2))).ok ((queued 1 (faddBlock 2) id).core 0) = true := by decide +kernel
theorem test_VectorBlocksRun_waits : (up.modPwr (fun p => { p with paced := [0] })).pwr.paced.contains 0 = true ∧
    (VBlk.of (natLe 64 4)).opc = 4 ∧ tilesDone (up.core 0) 0 = true ∧ tilesDone ((queued 0 1 id).core 0) 5 = false := by decide +kernel
theorem test_VectorBlocksRun_rows : (∀ i ∈ [1, 2, 4], ∃ e ∈ vecRows, e.1 = i) ∧ vecRows.length = 50 := ⟨by decide, rfl⟩
/-- A chain of one F32 stage that stores no lane. -/
def chainBlock : Nat := 0x80
theorem test_VectorBlocksRun_chain : (headReady (queued 1 chainBlock id) 0 1).isSome = true ∧ fieldLe (natLe 64 chainBlock) 0 1 = 0x80 ∧
    (CBlk.of (natLe 64 chainBlock)).ok (up.core 0) (stagesOf 1 []) = false ∧ (CBlk.of (natLe 64 (chainBlock + 256))).nstg = 1 ∧
    (CBlk.of (natLe 64 (chainBlock + 256))).ok (up.core 0) (stagesOf 1 (natLe 8 0x1D)) = true := by decide +kernel
/-- A block of a queue of core 0 that has executed. -/
def ranBlk : RunBlk := ⟨1, 0, natLe 64 0, 0, none, 2, 0, true, []⟩
def ranBlock (q : Nat) : State := (coreOn id).modQueue 0 q (fun u => { u with run := [ranBlk], last := 1 })
theorem test_VectorBlocksRun_complete : ((ranBlock 1).core 0).vq.run = [ranBlk] := by decide +kernel
theorem test_VectorResults_lane : (VBlk.of (natLe 64 (faddBlock 2))).ok (up.core 0) = true ∧ (VBlk.of (natLe 64 (faddBlock 2))).opc = 0x10 ∧
    (VBlk.of (natLe 64 (faddBlock 2))).vd < 32 ∧ (VBlk.of (natLe 64 (faddBlock 2))).enabled (up.core 0) 1 = true := by decide +kernel
/-- A register-mode block with an opcode, FP32, two lanes and PD = 1. -/
def vop (op : Nat) : VBlk := VBlk.of (natLe 64 (op + 2 ^ 36 + 2 * 2 ^ 43))
theorem test_VectorResults_ops : ∀ op ∈ [0x03, 0x06, 0x20, 0x25, 0x48, 0x4A, 0x60, 0x66], (vop op).ok (up.core 0) = true ∧ (vop op).opc = op := by
  decide +kernel

/-- A VST pattern of FP32 elements in a row, and one of blocks of 32 E4M3 elements with their scales at 0x1000. -/
theorem test_VectorBlocksRun_store : (VBlk.of (natLe 16 (2 + 3 * 2 ^ 43 + 0xF * 2 ^ 120) ++ natLe 48 0)).mem.fd.share = 0 ∧
    smSorted (storeElems up 0 (Pat.of (0xF * 2 ^ 56)) 0 0 (Ctl.ofByte 0) false (fun _ => 0) 3 (fun j => j) (fun j => j != 1)).1 = true ∧
    (storeElems up 0 (Pat.of (0xF * 2 ^ 56)) 0 0 (Ctl.ofByte 0) false (fun _ => 0) 2 (fun j => j + 1) (fun j => j != 1)).1 =
      [(0, 1), (1, 0), (2, 0), (3, 0)] ∧ syncRegionOn up 0 = false := by decide +kernel
theorem test_VectorBlocksRun_scales : let p := Pat.of ((4 + 2 ^ 4 + 32 * 2 ^ 6) * 2 ^ 24 + 0xF * 2 ^ 56)
    p.fd.share ≠ 0 ∧ p.scaleIx 31 = 0 ∧ p.scaleIx 32 = 1 ∧ patBitAt p 33 = 264 ∧ rawCopy 0 p.fd = false := by decide +kernel
theorem test_VectorBlocksRun_stages : let gs := stagesOf 2 (natLe 8 (0x15 + 0xFF000) ++ natLe 8 (0x10 + 8 * 2 ^ 8 + 0xF0000))
    (∀ x ∈ gs.zipIdx, (∀ y ∈ x.1.used, y < 3 ∨ 8 ≤ y ∧ y < 8 + x.2) ∧ elementOp x.1.opc = true) ∧ gs.length = 2 := by decide +kernel

/-- Instructions of core 0: the custom instructions of chapter 7 with rd = x5, rs1 = x6, and rs2 = x7 where there is one. -/
def cust (op f3 hi : Nat) : Nat :=
  op + 5 * 2 ^ 7 + f3 * 2 ^ 12 + 6 * 2 ^ 15 + (if op = 0x5B ∧ f3 ≠ 2 then 7 * 2 ^ 20 else 0) + hi * 2 ^ 25
def regs (a b : Word) (k : CoreSt) : CoreSt := { k with x := [(6, a), (7, b)] }
/-- Core 0 is at the instruction ins, in a line that its cache holds. -/
def gets (s : State) (ins : Nat) : Bool :=
  let pc := (s.core 0).pc.toNat
  running s && !s.stall && cpRuns s 0 && !(irqDue s 0) && ins % 4 == 3 && decide (pc < 2 ^ 48) && decide (pc % 64 ≤ 60) &&
  (s.core 0).icache.any (fun e => (s.core 0).icache.find? (fun e => e.1 == pc / 64) == some (pc / 64, e.2) &&
    fieldLe e.2 (pc % 64) 4 == ins)
theorem gets_atPc {s : State} {ins : Nat} (h : gets s ins = true) : On s ∧ AtPc s 0 ins s := by
  simp only [gets, Bool.and_eq_true, List.any_eq_true, decide_eq_true_eq, beq_iff_eq, Bool.not_eq_true'] at h
  obtain ⟨⟨⟨⟨⟨⟨⟨hr, hs⟩, hc⟩, hi⟩, h3⟩, hp⟩, h60⟩, e, -, hf, hl⟩ := h
  exact ⟨⟨hr, hs⟩, hc, hi, h3, .inl ⟨hp, h60, e.2, .inl ⟨⟨_, hf⟩, rfl⟩, hl⟩⟩

theorem test_StandardInstructions_add : gets (fetching 0x007302B3 id) 0x007302B3 = true ∧
    hasRow ((fetching 0x007302B3 id).core 0) 0x007302B3 = false ∧ customOk 0x007302B3 = false ∧
    bitsN 0x007302B3 0 7 = 0x33 ∧ bitsN 0x007302B3 12 3 = 0 ∧ bitsN 0x007302B3 25 7 = 0 := by decide +kernel
/-- SUB, ADDIW, LUI, AUIPC, JAL, JALR, BEQ, FENCE, FENCE.I, LD x5, 0(x6), SD x7, 0(x6) and ECALL, by their opcodes. -/
theorem test_StandardInstructions_forms : ∀ ins ∈ [0x407302B3, 0x0013029B, 0x000012B7, 0x00001297, 0x008002EF, 0x000302E7, 0x00730463, 0x0F, 0x100F,
    0x00033283, 0x00733023, 0x73], gets (fetching ins id) ins = true := by decide +kernel
/-- Four bytes at 0x1000 of the core's own window, all clean. -/
theorem test_StandardInstructions_memory : ∀ k ∈ [Acs.r, .w], (match locateCp 0 0 (winBase + 0x1000) 4 k up with
    | .at w => !(anyHost w || (w.filterMap physOf).any (poisonAt up))
    | _ => false) = true := by decide +kernel
/-- AMOADD.D, LR.D, SC.D x5, x7, (x6) with x6 in the core's own window, aligned or not. -/
theorem test_StandardInstructions_amo : ∀ ins ∈ [0x007332AF, 0x100332AF, 0x187332AF], gets (fetching ins (regs (wN (winBase + 0x1000)) 1)) ins = true ∧
    bitsN ins 0 7 = 0x2F ∧ bitsN ins 12 3 = 3 ∧ (wN (winBase + 0x1000) : Word).toNat % 8 = 0 ∧ (wN (winBase + 0x1001) : Word).toNat % 8 ≠ 0 := by
  decide +kernel
theorem test_StandardInstructions_rw : (match locateCp 0 0 (winBase + 0x1000) 8 .rw up with
    | .at w => !(anyHost w || (w.filterMap physOf).any (poisonAt up))
    | _ => false) = true ∧ amoOp 0 64 1 2 = some 3 ∧ amoOp 2 64 1 2 = none := by decide +kernel
/-- CSRRW of sepc, CSRRS of tcore, SRET, WFI and EBREAK. -/
theorem test_StandardInstructions_csr : (∀ ins ∈ [0x141312F3, 0xDC0022F3, 0x10200073, 0x10500073, 0x00100073], gets (fetching ins id) ins = true) ∧
    csrRead up 0 0x141 0 = some 0 ∧ csrRead up 191 0xDC0 0 = some 191 ∧ csrRead up 0 0x7FF 0 = none := by decide +kernel
/-- C.ADDI x5, 1 at pc 0. -/
theorem test_StandardInstructions_compressed : On (fetching 0x0285 id) ∧ AtPc2 (fetching 0x0285 id) 0 0x0285 (fetching 0x0285 id) ∧
    expandC 0x0285 = some 0x00128293 ∧ expandC 0x0002 = some 0x00001013 := by
  refine ⟨by unfold On; decide +kernel, ⟨by decide +kernel, by decide +kernel, by decide, by decide +kernel, by decide +kernel,
    natLe 4 0x0285 ++ List.replicate 60 0, .inl ⟨⟨0, by decide +kernel⟩, rfl⟩, by decide +kernel⟩, by decide +kernel, by decide +kernel⟩
theorem test_TrapsAreTaken_except : (up.core 0).stvec.toNat / 4 = 0 ∧
    ((coreOn (fun k => { k with stvec := 0x100 })).core 0).stvec.toNat / 4 ≠ 0 := by decide +kernel
theorem test_TrapsAreTaken_qerr : let s := coreOn (fun k => { k with sstatus := 2, sie := 0x10000, mq := { k.mq with halt := 1 } })
    irqDue s 0 = true ∧ coreState s 0 = csRunning ∧ (s.core 0).launched = true ∧ (s.core 0).retire = none ∧ s.flag F.CORE_DBG_CTL_HALT 0 = false ∧
    slotHeld s 0 = false ∧ (s.core 0).inReset = false ∧ (s.core 0).park = none := by decide +kernel
theorem test_TrapsAreTaken_reserved : ∀ ins ∈ [cust 0x0B 4 0, cust 0x2B 5 0, cust 0x5B 3 0, cust 0x5B 6 0], gets (fetching ins id) ins = true := by
  decide +kernel
theorem test_TrapsAreTaken_push : ∀ q ∈ [0, 1, 2, 3], gets (fetching (cust 0x0B q 0) (regs 1 0)) (cust 0x0B q 0) = true ∧
    isCustom 0x0B q (cust 0x0B q 0) = true ∧ (rs1Of (fetching (cust 0x0B q 0) (regs 1 0)) 0 (cust 0x0B q 0)).toNat % 64 ≠ 0 := by decide +kernel
theorem test_TrapsAreTaken_signal : gets (fetching (cust 0x5B 0 0) (regs 0x100000 0)) (cust 0x5B 0 0) = true ∧
    isCustom 0x5B 0 (cust 0x5B 0 0) = true ∧ isCustom 0x5B 1 (cust 0x5B 1 1) = true ∧ bitN (cust 0x5B 1 1) 25 = true ∧
    bitN (cust 0x5B 1 0) 25 = false ∧ isCustom 0x5B 2 (cust 0x5B 2 0) = true ∧
    2 ^ 20 ≤ (rs1Of (fetching (cust 0x5B 0 0) (regs 0x100000 0)) 0 (cust 0x5B 0 0)).toNat := by decide +kernel
theorem test_TrapsAreTaken_noSid : NoSid (fetching (cust 0x5B 2 0) id) 0 0 := by unfold NoSid; decide +kernel
/-- Queue 0 of context 0 is enabled, and core 0 is owned by context 0. -/
def queueOn (ins : Nat) (a b : Word) : State := ((fetching ins (regs a b)).setFld F.FE_TQ_CTL_EN 0 1).setReg .CORE_OWNER 0 0x100
theorem test_TrapsAreTaken_queue : isCustom 0x5B 4 (cust 0x5B 4 0) = true ∧ isCustom 0x5B 5 (cust 0x5B 5 0) = true ∧
    up.flag F.FE_TQ_CTL_EN 0 = false ∧ (queueOn (cust 0x5B 4 0) 0 1).flag F.FE_TQ_CTL_EN 0 = true ∧
    tqCtx (queueOn (cust 0x5B 4 0) 0 1) 0 = blkCtx (queueOn (cust 0x5B 4 0) 0 1) 0 ∧
    (rs2Of (queueOn (cust 0x5B 4 0) 0 1) 0 (cust 0x5B 4 0)).toNat % 64 ≠ 0 ∧ gets (queueOn (cust 0x5B 4 0) 0 1) (cust 0x5B 4 0) = true := by decide +kernel
theorem test_BlocksArePushed : gets (fetching (cust 0x0B 0 2) id) (cust 0x0B 0 2) = true ∧ isCustom 0x0B 0 (cust 0x0B 0 2) = true ∧
    poisoned (fetching (cust 0x0B 0 2) id) (padAddr 0 0) 64 = false ∧
    ((fetching (cust 0x0B 0 2) id).core 0).mq.pendCount < qDepth 0 := by decide +kernel
theorem test_BlocksArePushed_full :
    qDepth 0 ≤ ((fetching (cust 0x0B 0 0) (fun k => { k with mq := { k.mq with pend := List.replicate 64 ⟨1, 0, [], [], []⟩ } })).core 0).mq.pendCount ∧
    4 ≤ pendingChains ((coreOn (fun k => { k with vq := { k.vq with pend := List.replicate 4 ⟨1, 0, natLe 64 0x80, [], []⟩ } })).core 0) := by
  decide +kernel
theorem test_QueueInstructions : ∀ f ∈ [0, 1, 2, 3, 4], gets (fetching (cust 0x2B f 0) (regs 1 0)) (cust 0x2B f 0) = true ∧
    isCustom 0x2B f (cust 0x2B f 0) = true := by decide +kernel
/-- A queue halted at ticket 1. -/
theorem test_QueueInstructions_skip : let u := { QueueSt.reset with halt := 1, last := 1, pend := [⟨1, 0, natLe 64 0, [], []⟩] }
    u.halt ≠ 0 ∧ u.haltedTicket = some 1 ∧ (∀ b ∈ u.run, b.failed ≠ 0 → b.ticket = 1) ∧ u.done < (2 : Word).toNat := by decide +kernel
theorem test_QueueInstructions_exit :
    let s := coreOn (fun k => { k with park := some (.texit 0 0 0) })
    On s ∧ (s.core 0).park = some (.texit 0 0 0) ∧ coreState s 0 = csRunning ∧ queuesDone (s.core 0) = true ∧
    slotHeld s 0 = false ∧ (s.core 0).inReset = false ∧ (s.core 0).launch = none := by unfold On; decide +kernel
theorem test_QueueInstructions_last : let y : Launch := ⟨1, 0, 0, 1, 0, 0, 0, true, []⟩
    ∀ j ∈ coresOf y.mask, smGet 0 (smSet 0 0 (exitMark 0) y.exited) j ≠ 0 := by decide +kernel
theorem test_SyncInstructions_words : ∀ op ∈ [SidOp.coreSignal, .wait], NamesWord (withSid (fetching (cust 0x5B 0 0) id)) 0 0 op vatBase := by
  unfold NamesWord; decide +kernel
/-- Identifier 0 of context 0 names barrier 255. -/
theorem test_SyncInstructions_barrier : NamesBarrier (((layBytes 0 (natLe 4 0x2000FF) (withSid (fetching (cust 0x5B 0 0) id))).setFld
    F.SYNC_BAR_CTL_EN 255 1)) 0 0 255 := by unfold NamesBarrier; decide +kernel
theorem test_SyncInstructions_fetch : ∀ f ∈ [0, 1, 2, 4, 5], gets (withSid (fetching (cust 0x5B f 0) id)) (cust 0x5B f 0) = true ∧
    isCustom 0x5B f (cust 0x5B f 0) = true := by decide +kernel
theorem test_SyncInstructions_queue : let s := (queueOn (cust 0x5B 4 0) 0 1).setReg .FE_TQ_BASE 0 (wN (vatBase + 0x100000))
    heldRange s (tqBase s 0) 64 = false ∧ poisonAt s (tqBase s 0) = false ∧ poisonAt s (tqBase s 0 + 8) = false ∧ poisoned s (padAddr 0 0) 64 = false ∧
    poisonAt (s.modMem (fun m => { m with poison := [(vatBase + 0x100000, true)] })) (tqBase s 0) = true := by decide +kernel
theorem test_SyncInstructions_value : (1 : Word).toNat ≤ (rd64 (layBytes vatBase (natLe 8 1) up) vatBase).toNat ∧
    (rd64 up vatBase).toNat < (1 : Word).toNat ∧ up.sync.waits = [] := by decide +kernel

theorem test_ContextSwitch_save : coreState (coreOn id) 0 = csRunning ∧ ((coreOn id).core 0).retire = none ∧
    ((coreOn (fun k => { k with retire := some (5, 7, 0) })).core 0).retire = some (5, 7, 0) ∧ ready (coreOn id) = true ∧ coreState up 0 ≠ csRunning := by
  decide +kernel
theorem test_ContextSwitch_restore : coreState up 0 = csIdle ∧ coreState (coreOn id) 0 ≠ csIdle ∧ coreState (coreOn id) 0 ≠ csSaved := by decide +kernel
theorem test_ContextSwitch_saving : let s := up.setFld F.CORE_CTX_STAT_STATE 0 csSaving
    coreState s 0 = csSaving ∧ startedDone (s.core 0) = true ∧ heldRange s (saveArea s 0) 0x28000 = false ∧
    heldRange s (saveArea s 0) imageSize = false ∧ rangeHbm s (saveArea s 0) imageSize = true := by decide +kernel
theorem test_ContextSwitch_restoring :
    let s := (up.setFld F.CORE_CTX_STAT_STATE 0 csRestoring).setFld F.CORE_OWNER_CTX 0 5
    coreState s 0 = csRestoring ∧ (s.core 0).inReset = false ∧ heldRange s (saveArea s 0) 0x28000 = false ∧
    fieldLe (rdBytes s (saveArea s 0) 0x1000) 0 8 % 64 ≠ s.fld F.CORE_OWNER_CTX 0 := by decide +kernel
theorem test_ContextSwitch_whole : let s := up.setFld F.CORE_CTX_STAT_STATE 0 csRestoring
    rangeHbm s (saveArea s 0) 0x28000 = true ∧ poisoned s (saveArea s 0) 0x28000 = false ∧
    fieldLe (rdBytes s (saveArea s 0) 8) 0 8 % 64 = s.fld F.CORE_OWNER_CTX 0 := by decide +kernel
theorem test_OwnershipAndTranslation : ctxExists up 0 = true ∧ ctxExists up 1 = false ∧ up.flag F.FE_TQ_CTL_EN 1023 = false ∧
    (up.setFld F.MEM_CTX_INVAL_GO 63 1).flag F.MEM_CTX_INVAL_GO 63 = true ∧ up.flag F.MEM_CTX_INVAL_GO 63 = false ∧
    (up.setFld F.FE_TQ_CTL_EN 1023 1).flag F.FE_TQ_CTL_EN 1023 = true ∧
    ((up.modCore 0 (fun k => { k with stale := true })).core 0).stale = true ∧ (up.core 0).stale = false := by decide +kernel
/-- Queue 0 of 16 entries, at byte 0x10000 of the sync-page partition of slice 0, above the word area of a slice. -/
def tqAt : State := up.setReg .FE_TQ_BASE 0 (wN (vatBase + 0x100000))
theorem test_OwnershipAndTranslation_queue : let v := 4 * 2 ^ 8 + 2 ^ 16
    let w := tqAt.regWrite .FE_TQ_CTL 0 (setBitsN v 16 1 0)
    bitN v 16 = true ∧ w.fld F.FE_TQ_CTL_LOG2N 0 = 4 ∧ tqPlaced w 0 = true ∧ ctxExists w (tqCtx w 0) = true ∧ bitN 0 16 = false := by decide +kernel

/-- A DMA block: COPY or FILL of 8 bytes from 0 to 64. -/
def dmaBlock (op len : Nat) : Nat := op + 64 * 2 ^ 128 + len * 2 ^ 192 + 2 ^ 224 + 2 ^ 240
theorem test_DmaBlocks_bad : (headReady (queued 2 (dmaBlock 1 0 + 2 ^ 12) id) 0 2).isSome = true ∧
    (DBlk.of (natLe 64 (dmaBlock 1 0 + 2 ^ 12))).ok false = false ∧ qOf false = 2 ∧ qOf true = 3 := by decide +kernel
theorem test_DmaBlocks_ok : ∀ op ∈ [1, 2], let b := DBlk.of (natLe 64 (dmaBlock op 8))
    (headReady (queued 2 (dmaBlock op 8) id) 0 2).isSome = true ∧ b.ok false = true ∧ b.ok true = true ∧ b.op = op ∧ b.sigEn = false ∧ b.sfab = false ∧
    b.dfab = false ∧ b.cnt1 = 1 ∧ b.cnt2 = 1 ∧ b.len0 = 8 ∧ b.src = 0 ∧ b.dst = 64 ∧ (DBlk.of (natLe 64 (dmaBlock op 0))).total = 0 ∧
    (queued 2 (dmaBlock op 8) id).sync.waits = [] ∧ poisoned (queued 2 (dmaBlock op 8) id) (padAddr 0 0) 8 = false := by decide +kernel
theorem test_DmaBlocks_signal : SignalIs up 0 false 0 0 none ∧
    SignalIs (withSid up) 0 true 0 1 (some (vatBase, 1)) := by
  refine ⟨.inl ⟨rfl, rfl⟩, .inr ⟨rfl, vatBase, ?_, rfl⟩⟩
  unfold NamesWord; decide +kernel
/-- An ATOMIC at the core's own window. -/
def atomBlock (aop : Nat) (fab : Bool) : Nat := 3 + aop * 2 ^ 16 + (if fab then 2 ^ 11 else 0) + winBase * 2 ^ 128
theorem test_DmaBlocks_atomic : (headReady (queued 3 3 id) 0 3).isSome = true ∧ (DBlk.of (natLe 64 3)).op = 3 ∧
    WordAt up 0 0 winBase 8 (padAddr 0 0) ∧ poisoned up (padAddr 0 0) 8 = false :=
  ⟨by decide +kernel, by decide +kernel, .inl (by decide +kernel), by decide +kernel⟩
theorem test_DmaBlocks_complete : (((ranBlock 2).core 0).queue 2).run.find? (fun r => r.executed && r.failed = 0) = some ranBlk ∧
    ((up.core 0).queue 2).run.find? (fun r => r.executed && r.failed = 0) = none := by decide +kernel
/-- A launch of core 0 waits. -/
def launching : State := (up.setReg .CORE_OWNER 0 0x100).modFe (fun f => { f with launches := [⟨1, 0, 0, 1, 0x1000, 7, 0, false, []⟩] })
theorem test_LaunchesStart : launching.fe.launches.find? (fun l => l.ring == 1 && canStart launching l) = some ⟨1, 0, 0, 1, 0x1000, 7, 0, false, []⟩ ∧
    maskOwned launching 0 1 = true ∧ maskOwned up 0 1 = false := by decide +kernel

theorem test_MemoryReadsWhatWasWritten : Memory.wf up.mem = true ∧ up.mem.wcb = [] ∧ region up 0x100000 = .hbm := by decide +kernel
/-- Row 9 of channel 3 is being copied. -/
def copying : State := up.modMem (fun m => { m with remapping := [(3, 9)] })
theorem test_HbmAccesses : hbmUp up = true ∧ inHbm up 0x100000 = true ∧ heldRange up 0x100000 64 = false ∧ smGet false up.mem.poison 0x100000 = false ∧
    (up.setFld F.MEM_SCRUB_CTL_EN 0 1).flag F.MEM_SCRUB_CTL_EN = true ∧ (up.setFld F.MEM_SCRUB_CTL_EN 0 0).flag F.MEM_SCRUB_CTL_EN = false ∧
    heldRange up (chanAddr (localIlv up) 639 0) 64 = false ∧ inHbm up 0x9FFD7FFFFF = true ∧ inHbm up 0x9FFD800000 = false ∧ hbmUp State.reset = false := by decide +kernel
theorem test_HbmAccesses_held : let a := chanAddr (localIlv copying) 3 (1024 * 9)
    inHbm copying a = true ∧ a % 64 = 0 ∧ heldRange copying a 64 = true := by decide +kernel
/-- Channel 3 holds one partial line, and a flush of all is pending. -/
def buffered : State := setWcb 3 [⟨12, 1, 0, false, false⟩] (up.setFld F.MEM_WCB_CTL_FLUSH 0 1)
theorem test_BuffersFlush : (wcbOf buffered 3)[0]? = some ⟨12, 1, 0, false, false⟩ ∧ (wcbOf up 3)[0]? = none ∧ buffered.flag F.MEM_WCB_CTL_FLUSH = true ∧
    up.flag F.MEM_WCB_CTL_FLUSH = false ∧ copying.mem.remapping.find? (fun r => r.1 == 3) = some (3, 9) ∧ (smGet [] copying.mem.remapped 3).length < 64 ∧
    lineOutcome ⟨false, 4, false, false⟩ = .uncorrectable ∧ up.mem.remapping = [] := by decide +kernel
theorem test_HbmIsTested_start : ∀ n ∈ [0, 1, 16777216], let w := up.regWrite .MEM_TG_CTL 0 (setBitsN (n * 2 ^ 32 + 2 ^ 16) 16 1 0)
    w.fld F.MEM_TG_CTL_LINES = n ∧ w.mem.tg = none ∧ ∀ c < 64, w.flag F.MEM_CTX_PTBASE_EN c = false := by decide +kernel
theorem test_HbmIsTested_refused : 16777216 < (up.regWrite .MEM_TG_CTL 0 (16777217 * 2 ^ 32)).fld F.MEM_TG_CTL_LINES := by decide +kernel
/-- A boot step is complete. -/
def bootingAt (n : Nat) : State := State.reset.setFld F.DEV_BOOT_STAT_STEP 0 n
theorem test_HbmIsTrained : On (bootingAt 4) ∧ bootStep (bootingAt 4) = 4 ∧ bootFailed (bootingAt 4) = false ∧
    smGet 0 (bootingAt 4).mem.phases 639 = 0 ∧ bitN ((bootingAt 4).fld F.MEM_TRAIN_STAT_DEGR) (stackOf 639) = false := by unfold On; decide +kernel
/-- Every channel but 639 has passed four phases. -/
theorem test_HbmIsTrained_last : let s := (bootingAt 4).modMem (fun y => { y with phases := smSet 0 639 3 ((List.range 639).map (fun c => (c, 4))) })
    smGet 0 s.mem.phases 639 = 3 ∧ trainUnits (s.modMem (fun y => { y with phases := smSet 0 639 4 y.phases })) = 2560 := by decide +kernel

/-- Ring r is IDLE or in another state. -/
def ringIn (r st : Nat) : State := (up.setFld F.FE_RING_CTL_EN r 1).modRing r (fun k => { k with st := st })
theorem test_RingsFetch_nudge : ∀ r ∈ [0, 255], (ringIn r rsIdle).flag F.FE_RING_CTL_EN r = true ∧ ringCtx (ringIn r rsIdle) r = 0 ∧
    ((ringIn r rsIdle).ring r).st = rsIdle ∧ ((ringIn r rsIdle).ring r).tailOut = false ∧ up.flag F.FE_RING_CTL_EN r = false := by decide +kernel
/-- A read of TAIL is outstanding. -/
def tailDue (st : Nat) : State := (ringIn 1 st).modRing 1 (fun k => { k with tailOut := true })
theorem test_RingsFetch_again : let s := tailDue rsIdle
    (s.ring 1).st = rsIdle ∧ (s.ring 1).tailOut = true ∧ (s.ring 1).tailMore = 0 ∧ (s.ring 1).pollAt = 0 := by decide +kernel
theorem test_RingsFetch_tail : ∀ st ∈ [rsOff, rsIdle, rsActive, rsFaulted, rsAborting], ((tailDue st).ring 1).tailOut = true ∧
    ((tailDue st).ring 1).st = st ∧ ((tailDue st).ring 1).arming = false ∧
    ringN (tailDue st) 1 < (ringN (tailDue st) 1 + 1 + 2 ^ 32 - 0) % 2 ^ 32 ∧ ¬ringN (tailDue st) 1 < (ringN (tailDue st) 1 + 2 ^ 32 - 0) % 2 ^ 32 := by decide +kernel
theorem test_RingsFetch_fetch : ((ringWith 1 0).ring 1).st = rsActive ∧ ((ringWith 1 0).ring 1).fetched = ((ringWith 1 0).ring 1).tail ∧
    (((ringWith 1 0).modRing 1 (fun k => { k with tail := 2 })).ring 1).fetched ≠ 2 := by decide +kernel
theorem test_RingsFetch_enable : ∀ n ∈ [4, 16], let w := up.regWrite .FE_RING_CTL 1 (setBitsN (n * 2 ^ 8 + 2 ^ 13) 13 1 0)
    bitN (n * 2 ^ 8 + 2 ^ 13) 13 = true ∧ w.fld F.FE_RING_CTL_LOG2N 1 = n ∧ ringBase w 1 % 4096 = 0 ∧ ringCq w 1 % 4096 = 0 ∧ ctxExists w (ringCtx w 1) = true ∧
    (up.ring 1).st = rsOff ∧ bitN (w.reg .DEV_ERR_CTX 0).toNat (ringCtx w 1) = false := by decide +kernel

/-- The descriptors of the clauses of DescriptorsAreDispatched, ready on ring 0. -/
def dispatchable (v : Nat) : Bool := nextDesc (ringWith 0 v) 0 == some (desc 0 v) && formOk (natLe 64 v)
theorem test_DescriptorsAreDispatched : ∀ v ∈ [0, 1, 2, 1 + 2 ^ 192, 8, 8 + 2 ^ 64, 9, 0x10, 0x11, 0x11 + 2 ^ 128, 0x18, 0x19, 0x19 + 2 ^ 96, 0x28, 0x30,
    0x38], dispatchable v = true := by decide +kernel
theorem test_DescriptorsAreDispatched_copy : freeEngine (ringWith 0 1) = some 0 ∧ copyOk (natLe 64 1) = true ∧ remoteSig (natLe 64 1) = false ∧
    copyOk (natLe 64 (1 + 2 ^ 192)) = true ∧ fieldLe (natLe 64 (1 + 2 ^ 192)) 24 8 ≠ 0 ∧ fieldLe (natLe 64 1) 24 8 = 0 := by decide +kernel
theorem test_DescriptorsAreDispatched_none : nextDesc up 0 = none ∧ nextDesc (ringWith 0 (2 ^ 8)) 0 = some (desc 0 (2 ^ 8)) := by decide +kernel
theorem test_DescriptorsAreDispatched_bad : formOk (natLe 64 (2 ^ 20)) = false ∧ dOpcode (natLe 64 (2 ^ 20)) = 0 := by decide +kernel
theorem test_DescriptorsAreDispatched_launch :
    maskOwned ((ringWith 0 0).setReg .CORE_OWNER 0 0x100) 0 1 = true ∧ maskOwned (ringWith 0 0) 0 1 = false ∧ maskOwned (ringWith 0 0) 0 0 = true := by
  decide +kernel
theorem test_DescriptorsAreDispatched_words : ∀ op ∈ [SidOp.signal, .wait], NamesWord (withSid (ringWith 0 0x18)) 0 0 op vatBase := by
  unfold NamesWord; decide +kernel
theorem test_DescriptorsAreDispatched_noSid : NoSid (ringWith 0 0x18) 0 0 := by unfold NoSid; decide +kernel
theorem test_DescriptorsAreDispatched_other : nextDesc (ringWith 1 0xFF) 1 = some (desc 0 0xFF) ∧ bodyBits 0xFF = none := by decide +kernel
theorem test_DescriptorsAreDispatched_taskq : let s := (ringWith 0 9).setFld F.FE_TQ_CTL_EN 0 1
    s.flag F.FE_TQ_CTL_EN 0 = true ∧ tqCtx s 0 = ringCtx s 0 ∧ (ringWith 0 9).flag F.FE_TQ_CTL_EN 0 = false := by decide +kernel

/-- The descriptor on ring 1 is at another phase. -/
def ringAt (ph : DPhase) (v : Nat) : State := (ringWith 1 v).modRing 1 (fun k => { k with descs := [{ desc 0 v with phase := ph }] })
theorem test_RecordsAndRecovery_ring : ((ringAt .running 1).ring 1).find 0 = some { desc 0 1 with phase := .running } ∧
    ((ringAt .done 1).ring 1).descs = [{ desc 0 1 with phase := .done }] ∧ ((ringIn 1 rsFaulted).ring 1).st = rsFaulted ∧
    ((ringIn 1 rsFaulted).ring 1).arming = false ∧ oldestDone ((ringWith 1 1).ring 1) = none ∧ ((up.ring 1).find 0) = none ∧
    ((ringAt .running 1).ring 1).descs.find? (fun d => d.phase == .running) = some { desc 0 1 with phase := .running } ∧
    frozen (ringAt .running 1) = false ∧ ((ringAt .running 1).setFld F.FE_RING_CTL_WDOG 1 5).fld F.FE_RING_CTL_WDOG 1 = 5 := by decide +kernel
theorem test_RecordsAndRecovery_remote : remoteSig (natLe 64 1) = false ∧ remoteSig (natLe 64 (1 + 2 ^ 259 + 2 ^ 319)) = true := by
  decide +kernel
theorem test_RecordsAndRecovery_abort : ((ringIn 1 rsAborting).ring 1).st = rsAborting ∧ ((ringIn 1 rsAborting).ring 1).descs = [] := by decide +kernel
theorem test_FunctionsMirrorsAndBar4 : ctxExists up 0 = true ∧ ctxExists up 63 = false ∧ up.fe.pri = [] ∧
    (up.modFe (fun f => { f with pri := [⟨0, 0, .fe 1 0 0⟩] })).fe.pri = [⟨0, 0, .fe 1 0 0⟩] ∧ up.fe.vfEnable = false ∧
    ((up.modFe (fun f => { f with vfEnable := true, numVfs := 5 })).fe.vfEnable = true) ∧
    smGet false (up.modFe (fun f => { f with mirrorDue := [(71, true)] })).fe.mirrorDue 71 = true ∧
    smGet false up.fe.mirrorStop 71 = false ∧ (up.setFld F.FE_PROG_MIRROR_EN 71 1).flag F.FE_PROG_MIRROR_EN 71 = true := by decide +kernel
theorem test_FunctionsMirrorsAndBar4_bar4 : region up (bar4Addr up 0x100000) = .hbm ∧ heldRange up (bar4Addr up 0x100000) 8 = false ∧
    allBytes (backed (up.setReg .FE_BAR4_OFFSET 0 (wN hbmEnd))) (bar4Addr (up.setReg .FE_BAR4_OFFSET 0 (wN hbmEnd)) 0x100000) 8 = false ∧
    region (up.setReg .FE_BAR4_OFFSET 0 (wN hbmEnd)) (bar4Addr (up.setReg .FE_BAR4_OFFSET 0 (wN hbmEnd)) 0x100000) = .unbacked ∧
    poisoned up (bar4Addr up 0x100000) 8 = false := by decide +kernel
theorem test_FunctionsMirrorsAndBar4_held : let s := up.modMem (fun m => { m with selfRefresh := true })
    heldRange s (bar4Addr s 0x100000) 8 = true := by decide +kernel

theorem test_TakesAreSettled : visitTakes [⟨0, 2, true, .core 0 5⟩, ⟨0, 9, true, .core 1 5⟩] 5 = (3, [⟨0, 2, true, .core 0 5⟩], [⟨0, 9, true, .core 1 5⟩]) := by
  decide +kernel
theorem test_SyncWords : pwordAddr up 0 = some vatBase ∧ pwordAddr up 0xFFFFF = none ∧ poisonAt up vatBase = false ∧ up.sync.waits = [] ∧
    poisonAt (up.modMem (fun m => { m with poison := [(vatBase, true)] })) vatBase = true ∧
    bitN 0x80000000 31 = true ∧ regionWaited up 191 = false := by decide +kernel
/-- A wait is parked in the sync region of core 191. -/
theorem test_SyncWords_region : let s := (up.setFld F.CORE_SYNC_CTL_EN 191 1).modSync (fun y => { y with waits := [⟨padAddr 191 syncRegionOff, 1, false, .core 0 5⟩] })
    s.flag F.CORE_SYNC_CTL_EN 191 = true ∧ regionWaited s 191 = true := by decide +kernel
/-- Barrier 0 may be enabled, and is. -/
def barrierOn : State := (up.setReg .CORE_OWNER 0 0x100).setReg .SYNC_BAR_MASK 0 1
theorem test_BarriersAreEnabled : up.flag F.SYNC_BAR_CTL_EN 255 = false ∧ barEnablable 255 (up.regWrite .SYNC_BAR_CTL 255 0) = false ∧
    (up.setFld F.SYNC_BAR_CTL_EN 255 1).flag F.SYNC_BAR_CTL_EN 255 = true ∧
    up.flag F.SYNC_RALN_CTL_EN 63 = false ∧ (up.setFld F.SYNC_RALN_CTL_EN 63 1).flag F.SYNC_RALN_CTL_EN 63 = true := by decide +kernel
theorem test_BarriersAreEnabled_fits : barEnablable 0 (barrierOn.regWrite .SYNC_BAR_CTL 0 0) = true := by decide +kernel
theorem test_BarriersCount : let s := (barrierOn.setFld F.SYNC_BAR_CTL_EN 0 1).setBar 0 { BarSt.reset with slotDue := [(0, 1)], baseDue := [(0, 1)] }
    s.flag F.SYNC_BAR_CTL_EN 0 = true ∧ up.flag F.SYNC_BAR_CTL_EN 255 = false ∧ barMember s 0 0 = true ∧ barMember s 0 191 = false ∧
    0 < smGet 0 (s.bar 0).slotDue 0 ∧ baseSlots s 0 0 = [0] ∧ 0 < smGet 0 (s.bar 0).baseDue 0 ∧ smGet 0 (s.bar 0).baseDue 3 = 0 ∧ barBases s 0 = [0] := by
  decide +kernel
/-- A barrier of two slots on one base die, and of two base dies. -/
theorem test_BarriersCount_more : let s := (up.setReg .SYNC_BAR_MASK 0 (wN (1 + 2 ^ 16 + 2 ^ 48))).setFld F.SYNC_BAR_CTL_EN 0 1
    baseSlots s 0 0 = [0, 1] ∧ barBases s 0 = [0, 1] ∧ smGet 0 (s.bar 0).atBase 1 = 0 ∧ smGet 0 (s.bar 0).atHub 1 = 0 := by decide +kernel
/-- A Thaw whose wave 11 has not begun. -/
def thaw1 : ThawSt := ⟨1, 0, 12, [(0, 12)], true⟩
theorem test_BarriersCount_wave : let s := up.modFrost (fun f => { f with thawing := [thaw1] })
    nextThaw 11 s.frost.thawing = some thaw1 ∧ nextThaw 10 s.frost.thawing = none ∧ frozen s = false ∧ waveSlots thaw1 11 = [0] := by decide +kernel

/-- A port in a state. -/
def portIn (p st : Nat) : State := setPortState p st (up.setFld F.LNK_CTL_EN p 1)
theorem test_LinksComeUp : ∀ p ∈ [0, 15], ∀ st ∈ [psTRAIN, psLANEMAP, psPARAM, psACTIVE, psFAILED], portState (portIn p st) p = st := by decide +kernel
theorem test_LinksComeUp_enable : ∀ p ∈ [0, 15], up.flag F.LNK_CTL_EN p = false ∧ up.flag F.LNK_CTL_EN p = (up.regWrite .LNK_CTL p 0).flag F.LNK_CTL_EN p ∧
    (up.regWrite .LNK_CTL p 1).flag F.LNK_CTL_EN p = true ∧ ((portIn p psACTIVE).regWrite .LNK_CTL p 0).flag F.LNK_CTL_EN p = false := by decide +kernel
theorem test_LinksComeUp_lanes : chooseLanes 0xFF 0 = some (3, 0xFF) ∧ chooseLanes 0x0F 1 = some (2, 0x0F) ∧ chooseLanes 0xC0 0 = some (1, 0xC0) := by
  decide +kernel
theorem test_LinksComeUp_map : (∀ l < 8, bitN (otpBody (portIn 0 psLANEMAP) 4 4) l = false ∧ [(0 : Fin 8), 1, 2, 3, 4, 5, 6, 7][l]? = some (Fin.ofNat 8 l)) ∧
    bitsN ((portIn 0 psLANEMAP).port 0).trainCtl 4 2 ≤ 2 := by decide +kernel
theorem test_LinksComeUp_loss : bitN ((portIn 0 psACTIVE).setFld F.LNK_STAT_LANES 0 0x80 |>.fld F.LNK_STAT_LANES 0) 7 = true ∧
    bitN (up.fld F.LNK_STAT_LANES 0) 7 = false ∧ ((portIn 0 psFAILED).setFld F.LNK_CTL_AUTO 0 1).flag F.LNK_CTL_AUTO 0 = true := by decide +kernel
/-- An ACTIVE port has received one flit. -/
def flitOn (b : List Byte) : State := (portIn 0 psACTIVE).modPort 0 (fun k => { k with rx := [b] })
theorem test_LinksCarryFlits : ((flitOn [0]).port 0).rx = [[0]] ∧ fKind [0] = 0 ∧ fNak [0] = false ∧ portState (takeReturns 0 [0] (flitOn [])) 0 = psACTIVE ∧
    headerOk (portIn 0 psACTIVE) 0 0 = false ∧ ((portIn 0 psACTIVE).port 0).badHdr < 3 ∧
    (((portIn 0 psACTIVE).modPort 0 (fun k => { k with badHdr := 3 })).port 0).badHdr = 3 ∧
    ((portIn 0 psACTIVE).port 0).nakHeld = false ∧ encOn (portIn 0 psACTIVE) 0 = false ∧ fSeq [0] = ((portIn 0 psACTIVE).port 0).rxSeq := by decide +kernel
theorem test_LinksCarryFlits_kinds : [fKind [1], fKind [2], fKind [3]] = [1, 2, 3] := by decide +kernel
/-- The header that the first block of a link carries: BSEQ 0, and its CRC. -/
theorem test_LinksCarryFlits_header : ∃ h : BitVec 40, headerOk (portIn 0 psBLOCKLOCK) 0 h.toNat = true :=
  ⟨BitVec.ofNat 40 (0xB4E1 + crc8 (natLe 4 0xB4E1) * 2 ^ 32), by decide +kernel⟩
theorem test_LinksCarryFlits_replay : 1 < (up.setFld F.LNK_RETRY_CTL_LIMIT 0 3).fld F.LNK_RETRY_CTL_LIMIT 0 ∧
    (((portIn 0 psACTIVE).modPort 0 (fun k => { k with replay := [⟨0, 1, 0, []⟩] })).port 0).replay ≠ [] := by decide +kernel

/-- A packet has been delivered. -/
def inbox (h : Hdr) (l : List Byte) (s : State) : State := s.modFab (fun f => { f with inbox := [⟨none, 0, mkPacket h l⟩] })
/-- Domain 5 is that of context 0. -/
def domUp : State := mapped (up.setReg .FAB_CTX_DOM 0 (wN (5 + 2 ^ 16)))
def reqHdr (opc dom len : Nat) : Hdr := { Hdr.zero with opc := opc, dom := dom, addr := 0x100000, arg1 := len, src := 9, orig := 9, flow := 3, seq := 1 }
/-- What the tests of RequestsAreServed say of the first packet of an opcode. -/
def inPkt (opc dom len : Nat) : InPkt := ⟨none, 0, mkPacket (reqHdr opc dom len) [1, 2, 3, 4]⟩
theorem test_RequestsAreServed_next : ∀ opc ∈ [1, 2, 3, 4, 5, 0x18], let s := inbox (reqHdr opc 0 8) [1, 2, 3, 4] up
    firstPkt opc s = some (inPkt opc 0 8) ∧ (Hdr.of (inPkt opc 0 8).bytes).src = 9 ∧ (Hdr.of (inPkt opc 0 8).bytes).flow = 3 ∧
    recsFull s (recKey 9 3) = false ∧ applied s (recKey 9 3) 1 = none ∧ firstPkt opc up = none := by decide +kernel
theorem test_RequestsAreServed_serves : Serves (inbox (reqHdr 4 0 8) [] up) 4 ⟨none, 0, mkPacket (reqHdr 4 0 8) []⟩ (Hdr.of (mkPacket (reqHdr 4 0 8) [])) 9
    (touchRec (recKey 9 3) (noise (inbox (reqHdr 4 0 8) [] up))) := ⟨by decide +kernel, rfl, by decide +kernel, by
  rw [show (Hdr.of (mkPacket (reqHdr 4 0 8) [])).flow = 3 by decide +kernel]⟩
/-- A node without a route needs no room. -/
theorem test_RequestsAreServed_room : RoomFor up 1 9 3 0 := by
  intro p h
  rw [show nextHop up 1 9 (nodeId up) 3 = .noRoute by decide +kernel] at h
  cases h
theorem test_RequestsAreServed_applied : let s := markApplied (recKey 9 3) 1 0 7 (touchRec (recKey 9 3) up)
    applied s (recKey 9 3) 1 = some (0, 7) := by decide +kernel
theorem test_RequestsAreServed_unknown : domCtx up 5 = none := by decide +kernel
theorem test_RequestsAreServed_target : domCtx domUp 5 = some 0 ∧ poisoned domUp 0x100000 8 = false ∧
    ∀ k ∈ [Acs.r, .w, .rw], LineAt domUp 0 0x100000 8 k 0x100000 := by
  refine ⟨by decide +kernel, by decide +kernel, fun k hk => ?_⟩
  have hx : ∀ k ∈ [Acs.r, .w, .rw], xlate domUp 0 0x100000 k = .ok 0x100000 1072693248 ∧
      physCheck domUp 0x100000 8 (k == .w || k == .rw) = .ok := by decide +kernel
  refine ⟨by decide +kernel, by decide, by decide, by decide, ⟨_, (hx k hk).1, by decide⟩, (hx k hk).2, by decide +kernel, fun c o h => ?_⟩
  rw [show region domUp 0x100000 = .hbm by decide +kernel] at h
  cases h
theorem test_RequestsAreServed_signal : NamesWord (withSid up) 0 0 .remote vatBase ∧ NoSid up 0 0 := by
  unfold NamesWord NoSid; decide +kernel

/-- A request of a front-end descriptor is outstanding. -/
def waiting : Req := ⟨3, 1, [], .fe 1 0, 0, 1, 0, false, []⟩
theorem test_ResponsesAndFlows_retry : let s := up.modFab (fun f => { f with outst := [waiting] })
    s.fab.outst.find? (fun r => r.flow == 3 && r.seq == 1) = some waiting ∧ s.flag F.FAB_CTL_HOLD = false ∧ waiting.sends ≤ s.fld F.FAB_TP_CTL_RETRY ∧
    findReq s (Hdr.of (mkPacket { Hdr.zero with opc := 0x10, flow := 3, seq := 1 } [])) = some waiting ∧ (landNeeds waiting s).stall = false ∧
    findReq up (Hdr.of (mkPacket { Hdr.zero with opc := 0x10, flow := 3, seq := 1 } [])) = none := by decide +kernel
theorem test_ResponsesAndFlows_record : findRec (up.modFab (fun f => { f with recs := smPut (recKey 9 3) ⟨[], 0, 0⟩ f.recs })) (recKey 9 3) = some ⟨[], 0, 0⟩ := by
  decide +kernel
theorem test_ResponsesAndFlows_mgmt : (firstPkt 0x30 (inbox (reqHdr 0x30 0 0) [] up)).isSome = true ∧ up.flag F.FAB_CTX_DOM_EN 63 = false := by decide +kernel

/-- A packet in ingress of port 0, on VC 1, for a node. -/
def atPort (h : Hdr) : IPkt := ⟨1, [mkPacket h []], flitCount 0, true, none, 1, false⟩
def ingressOf (h : Hdr) : State := (portIn 0 psACTIVE).modPort 0 (fun k => { k with ingress := [atPort h] })
theorem test_PacketsAreRouted : let h : Hdr := { Hdr.zero with opc := 0x10, dst := 0, hops := 4 }
    let i := atPort h
    ((ingressOf h).port 0).ingress.find? (fun i => i.vc == 1) = some i ∧ opcClass (Hdr.of (pktHeader i.flits)).opc ≠ none ∧
    nextHop (ingressOf h) i.evc 0 0 0 = .deliver ∧ i.count = flitCount 0 ∧ pcrcOk ((i.flits.flatten).take 64) = true := by decide +kernel
theorem test_PacketsAreRouted_drops : opcClass 0xFF = none ∧ nextHop (ingressOf Hdr.zero) 1 9 0 0 = .noRoute ∧
    ((ingressOf Hdr.zero).port 0).ingress.find? (fun i => i.vc == 0) = none := by decide +kernel
/-- The head of VC 0 of egress has no credit. -/
def stuck : EPkt := ⟨1, 0, [[0]], false, true⟩
theorem test_PacketsAreRouted_escape : let s := (portIn 0 psACTIVE).modPort 0 (fun k => { k with egress := [stuck] })
    (s.port 0).egress.find? (fun e => e.vc == 0) = some stuck ∧ (creditLeft (s.port 0) 0 && portActive s 0 && replayRoom s 0) = false := by decide +kernel
theorem test_PacketsAreRouted_can : let s := (portIn 0 psACTIVE).modPort 0 (fun k => { k with egress := [stuck] })
    stuck.begun = false ∧ stuck.flits ≠ [] ∧ ((portIn 0 psACTIVE).port 0).egress.find? (fun e => e.vc == 0) = none ∧
    smSorted s.ports = true ∧ (∀ x ∈ (s.port 0).egress.erase stuck, x.id ≠ stuck.id) := by decide +kernel
theorem test_PacketsAreRouted_bridge : let x : BrPkt := ⟨1, 0, 0, 1, 4, [[0]], true, false, 0⟩
    let s := up.modFab (fun f => { f with bridge := [x] })
    s.fab.bridge = [x] ∧ x.begun = false ∧ x.flits ≠ [] := by decide +kernel
/-- A ring of four in dimension 0. -/
def torus : State :=
  let s := up.setReg .FAB_DIM_CFG 0 (wN (3 + 2 ^ 4 + 2 ^ 8))
  s.setReg .FAB_RT 0 (wN (defaultRt s 0))
theorem test_EscapeRoutesAvoidTheDateline : dimSize torus 0 = 4 ∧ dimWrap torus 0 = true ∧ (∀ c < 4, rtDir torus 0 c ≠ 3 ∨ c = 0) ∧
    dimWrap (torus.setFld F.FAB_DIM_CFG_WRAP 0 0) 0 = false := by decide +kernel

/-- Group 4095 of context 0, READY, a member of rank 0 of 2. -/
def groupUp : State := ((up.setFld F.COL_GRP_CTL_EN 4095 1).setFld F.COL_GRP_STAT_STATE 4095 csReady).modGrp 4095 (fun k => { k with list := [0, 9], arity := 2 })
theorem test_CollectivesAreDispatched : ∀ op ∈ [1, 2, 3, 4, 5, 6, 7, 8, 9],
    let v := 0x20 + 4095 * 2 ^ 64 + op * 2 ^ 80 + (if op = 1 ∨ op = 2 ∨ op = 5 then 1 else 0) * 2 ^ 92
    dispatchable v = true ∧ fieldLe (natLe 64 v) 10 1 = op ∧ fieldLe (natLe 64 v) 8 2 % 4096 = 4095 ∧ (∃ x ∈ colRows 0, x.1 = op) ∧
    bitN (fieldLe (natLe 64 v) 48 4) 31 = false := by decide +kernel
theorem test_CollectivesAreDispatched_group : groupUp.flag F.COL_GRP_CTL_EN 4095 = true ∧ groupUp.fld F.COL_GRP_CTL_CTX 4095 = 0 ∧
    grpState groupUp 4095 = csReady ∧ (groupUp.grp 4095).resh = 0 ∧ up.flag F.COL_GRP_CTL_EN 4095 = false := by decide +kernel
/-- Context 0 maps its second GiB to Vat slice 0 and those after it. -/
def scratchUp : State := layBytes 0x11008 (natLe 8 0xF00000001F) domUp
theorem test_CollectivesAreDispatched_ring : ringDstOk scratchUp 0 0x42000000 16 = true ∧ ringDstHeld scratchUp 0 0x42000000 16 = false ∧
    ringDstOk up 0 0x42000000 16 = false ∧ NoSid up 0 0 ∧ NamesWord (withSid up) 0 0 .wait vatBase := by
  unfold NoSid NamesWord; decide +kernel
theorem test_CollectivesAreDispatched_held : let s := scratchUp.modMem (fun m => { m with selfRefresh := true })
    ringDstHeld s 0 0x42000000 16 = true ∧ ringDstOk s 0 0x42000000 16 = false := by decide +kernel
theorem test_CollectivesAreDispatched_reshard : dispatchable (0x21 + 4095 * 2 ^ 64 + 1 * 2 ^ 96) = true ∧
    fieldLe (natLe 64 (0x21 + 4095 * 2 ^ 64 + 1 * 2 ^ 96)) 12 4 = 1 ∧ (desc 0 0x21).status ≠ 1 ∧ ((ringWith 0 0x21).ring 0).find 0 = some (desc 0 0x21) := by
  decide +kernel
/-- Its first operation is dispatched, and in progress. -/
def colWith (started : Bool) : State := groupUp.modGrp 4095 (fun k => { k with ops := [{ ColOp.blank with seq := 1, op := 1, redop := 1, count := 4, started := started }] })
theorem test_CollectivesRun_start : (((colWith false).grp 4095).ops.head?).map (·.started) = some false ∧ grpState (colWith false) 4095 = csReady ∧
    mayInject (colWith false) = true ∧ partHeld (colWith false) ((colWith false).fld F.COL_GRP_CTL_SLICE 4095) .col = false ∧
    inPlaceWide { ColOp.blank with op := 1 } = false := by decide +kernel
theorem test_CollectivesRun_tree : 2 ∈ kidsOf 2 7 0 ∧ 6 ∈ kidsOf 2 7 2 := by decide +kernel
def colHdr (sub seq : Nat) : Hdr := { Hdr.zero with opc := 0x20, flow := 0x1FFF, dom := 5, arg0 := seq + sub * 2 ^ 32, src := 9, arg1 := 2 ^ 32 }
theorem test_CollectivesRun_packet : ∀ sub ∈ [1, 2, 3, 4, 5, 6, 7, 10],
    let s := inbox (colHdr sub 1) [1, 2, 3, 4] (colWith true)
    let i : InPkt := ⟨none, 0, mkPacket (colHdr sub 1) [1, 2, 3, 4]⟩
    s.fab.inbox.find? (fun i => fieldLe i.bytes 0 1 == 0x20 && (pSub (Hdr.of i.bytes) == sub ||
      (sub == 1 && subOther (pSub (Hdr.of i.bytes))))) = some i ∧ subOther (pSub (Hdr.of i.bytes)) = false := by
  decide +kernel
theorem test_CollectivesRun_reserved : subOther 0 = true ∧ subOther 8 = true := by decide +kernel
/-- The group's context has domain 5. -/
def colDom (s : State) : State := s.setReg .FAB_CTX_DOM 0 (wN (5 + 2 ^ 16))
theorem test_CollectivesRun_current : let s := colDom (colWith true)
    (colCtx s 4095).map (fun c => (c.g, c.m, c.r)) = some (4095, 2, 0) ∧ (s.grp 4095).list[1]? = some 9 ∧ grpOn s 4095 = true ∧
    domCtx s 5 = some (grpCtx s 4095) ∧ grpState s 4095 = csReady ∧ pRank (Hdr.of (mkPacket (colHdr 1 1) [])) = 1 ∧
    (1 + 2 ^ 32 - (s.grp 4095).base) % 2 ^ 32 = 1 ∧ (5 + 2 ^ 32 - (s.grp 4095).base) % 2 ^ 32 = 5 := by decide +kernel
theorem test_CollectivesRun_timeout : let e : ColSeg := ⟨1, 1, 1, [], 1, 0⟩
    let s := (colWith true).modGrp 4095 (fun k => { k with segs := [e] })
    (s.grp 4095).segs.find? (fun e => e.peer == 1 && e.kind == 1 && e.num == 1 && decide (0 < e.sends)) = some e ∧
    e.sends < s.fld F.FAB_TP_CTL_RETRY + 1 ∧ (s.setFld F.FAB_TP_CTL_RETRY 0 0).fld F.FAB_TP_CTL_RETRY + 1 ≤ e.sends := by decide +kernel
theorem test_CollectivesRun_list : readList up 0 = none ∧ (up.grp 0).staged = none ∧ ((up.modGrp 0 (fun k => { k with staged := some (0, 1) })).grp 0).staged ≠ none ∧
    readList (layBytes 0 (natLe 4 2 ++ [2] ++ List.replicate 11 0 ++ natLe 2 0 ++ natLe 2 9) up) 0 = some (2, [0, 9]) := by decide +kernel
theorem test_CollectivesRun_held : let s := up.modMem (fun m => { m with selfRefresh := true })
    heldRange s 0 (16 + 2 * min (rdNat s 0 4) 65536) = true ∧ heldRange up 0 (16 + 2 * min (rdNat up 0 4) 65536) = false := by decide +kernel
/-- A group of this node alone. -/
theorem test_CollectivesRun_enable : let w := colDom up
    nodeValid w (nodeId w) = true ∧ ctxExists w (grpCtx w 7) = true ∧ w.flag F.FAB_CTX_DOM_EN (grpCtx w 7) = true ∧
    stagingUsed w 0 + staging 2 1 0 (grpSlots w 7) ≤ (partSizes (w.reg .VAT_PART 0).toNat).2.1 := by decide +kernel

theorem test_ModulesAndGuests_frame : ∀ x ∈ [0, 12287, 12288, 14335], modUp up x = true ∧ pathFitted up (d2dPath x) = true := by decide +kernel
/-- A frame waits for the path of module 0. -/
def offered : State := up.modPath 0 (fun q => { q with waiting := [(0, 0, List.replicate 256 7)], next := 1 })
theorem test_ModulesAndGuests_fresh : d2dPath 0 = 0 ∧ (offered.d2dMod 0).again = 0 ∧ (offered.d2dMod 0).buf.length < 32 ∧ (offered.d2dPathSt 0).redeal = [] ∧
    pickFrame offered 0 = some ⟨false, 0, 0, List.replicate 256 7⟩ ∧ pathOutst offered 0 = [] ∧ gseqOpen offered 0 0 = true := by decide +kernel
theorem test_ModulesAndGuests_again : let s := up.modPath 0 (fun q => { q with redeal := [(0, List.replicate 256 7)], want := 0, next := 1 })
    pickFrame s 0 = some ⟨true, 0, 0, List.replicate 256 7⟩ ∧ pickFrame up 0 = none := by decide +kernel
/-- The frame that module 0 sends first, as its receiver takes it. -/
def frame0 : List Byte := (nextFrame 0 offered).1
set_option maxRecDepth 40000 in
theorem test_ModulesAndGuests_received : crc32c (frame0.take 260) = fieldLe frame0 260 4 ∧ frame0.length = 264 ∧ bitN (fieldLe frame0 256 4) 0 = true ∧
    bitsN (fieldLe frame0 256 4) 2 7 = (up.d2dMod 0).rx ∧ bitsN (fieldLe frame0 256 4) 16 16 = (up.d2dPathSt 0).want ∧ (up.d2dPathSt 0).early = [] := by decide +kernel
set_option maxRecDepth 40000 in
theorem test_ModulesAndGuests_crc : crc32c ((flipBit frame0 5).take 260) ≠ fieldLe (flipBit frame0 5) 260 4 := by decide +kernel
theorem test_ModulesAndGuests_replay : let s := up.modMod 0 (fun m => { m with buf := [(0, 0, [])] })
    (s.d2dMod 0).buf = [(0, 0, [])] ∧ modUp s 0 = true ∧ (up.d2dMod 0).buf = [] ∧ (up.d2dMod 0).retrain = none ∧
    (List.replicate 32 (0, 0, ([] : List Byte))).length = 32 ∧ [(0, 0, ([] : List Byte))].drop (1 - 1) = (0, 0, []) :: [] ∧ ((up.modMod 0 (fun m => { m with retrain := some 5 })).d2dMod 0).retrain = some 5 := by
  decide +kernel
/-- A guest die is fitted; window 15 gives it 64 KiB of HBM. -/
def guestUp : State := { (((up.setFld F.D2D_GW_CTL_EN 15 1).setFld F.D2D_GW_CTL_LOG2SZ 15 16).setFld F.D2D_GW_CTL_R 15 1) with
  d2d := { up.d2d with guest := true } }
theorem test_ModulesAndGuests_guest : gwFor guestUp 0xFFFF 1 = some 15 ∧ gwFor guestUp 0xFFFF 2 = none ∧ gwPermits guestUp 15 false 0xFFFF 1 = true ∧
    gwPermits guestUp 15 true 0xFFFF 1 = false ∧ gwMissing guestUp 15 guestUp.now + 1 ≤ 65536 ∧
    65536 < gwMissing (guestUp.modD2d (fun d => { d with spent := smSet (0, 0) 15 (65536, guestUp.now) d.spent })) 15 guestUp.now + 1 := by decide +kernel

theorem test_ModulesAndGuests_held : let q : GuestReq := ⟨15, false, 0, 1, [], true⟩
    let s := guestUp.modD2d (fun d => { d with held := [q] })
    s.d2d.held.find? (fun h => h.window == 15) = some q ∧ gwWaits s 15 0 1 = false ∧ gwFor s 0 1 = some 15 ∧ gwPermits s 15 false 0 1 = true ∧
    gwWaits (s.modMem (fun m => { m with selfRefresh := true })) 15 0 1 = true ∧
    guestUp.flag F.D2D_GW_CTL_KIND 15 = false ∧ up.d2d.guest = false ∧ up.d2d.held = [] := by decide +kernel
theorem test_ModulesAndGuests_word : let s := guestUp.setFld F.D2D_GW_CTL_KIND 15 1
    s.flag F.D2D_GW_CTL_KIND 15 = true ∧ pwordAddr s (s.fld F.D2D_GW_TGT_TGT 15 % 2 ^ 20 + 0 / 8) = some vatBase := by decide +kernel

theorem test_PowerIsControlled_cap : up.flag F.PWR_EXT_CAP_EN = false ∧ (up.regWrite .PWR_CAP 0 (3000 + 2 ^ 16)).flag F.PWR_CAP_IMMED = true ∧
    (up.regWrite .PWR_CAP 0 (3000 + 2 ^ 16)).fld F.PWR_CAP_CAP = 3000 := by decide +kernel
theorem test_PowerIsControlled_measure : up.fld F.PWR_MEAS_P_EST = 0 ∧ capEff up = 3000 ∧ unlimited up = true ∧ measOnly up = false ∧ up.pwr.runAbove < 200 := by
  decide +kernel
theorem test_PowerIsControlled_ramp : (up.modPwr (fun p => { p with msPrev := some 150000 })).pwr.msPrev = some 150000 ∧ up.pwr.msPrev = none ∧
    up.pwr.airHot = false ∧ ready (up.setFld F.DEV_BOOT_STAT_READY 0 0) = false := by decide +kernel
theorem test_PowerIsControlled_exit : let s := up.setFld F.PWR_THR_STAT_MEASONLY 0 1
    s.flag F.PWR_THR_STAT_MEASONLY = true ∧ s.pwr.differ = none ∧ (up.modPwr (fun p => { p with slotEnd := some 9 })).pwr.slotEnd = some 9 ∧
    up.pwr.slotEnd = none ∧ up.flag F.PWR_THR_STAT_MEASONLY = false ∧ up.rst.vsb = true := by decide +kernel
theorem test_RatesAreEqualised : (up.setFld F.CORE_RATE_CTL_EN 191 1).flag F.CORE_RATE_CTL_EN 191 = true ∧
    (up.setFld F.CORE_RATE_CTL_EN 191 0).flag F.CORE_RATE_CTL_EN 191 = false ∧
    up.fld F.CORE_RATE_CTL_WIN 191 = (up.core 191).win ∧ up.timebase ≤ nextWindow up 191 ∧ bitN up.pwr.hot 15 = false ∧
    bitN (up.modPwr (fun p => { p with hot := 0x8000 })).pwr.hot 15 = true ∧
    (up.setFld F.PWR_RAIL_CTL_EQ_EN 0 1).flag F.PWR_RAIL_CTL_EQ_EN = true ∧ (up.setFld F.PWR_RAIL_CTL_TRIM_EN 0 1).flag F.PWR_RAIL_CTL_TRIM_EN = true ∧
    (up.setFld F.PWR_RAIL_CTL_EQ_EN 0 0).flag F.PWR_RAIL_CTL_EQ_EN = false ∧ (up.setFld F.PWR_RAIL_CTL_TRIM_EN 0 0).flag F.PWR_RAIL_CTL_TRIM_EN = false ∧
    smGet 0 (up.modPwr (fun p => { p with slow := smSet 0 15 8 p.slow })).pwr.slow 15 = 7 + 1 ∧
    smGet 0 (up.modPwr (fun p => { p with aged := smSet 0 15 8 p.aged })).pwr.aged 15 = 7 + 1 := by decide +kernel
theorem test_RatesAreEqualised_rates : let rate := rateOf (List.replicate 15 1500 ++ [1000])
    refRate rate 15 up = 1500 ∧ rate 15 * 100 < 99 * refRate rate 15 up ∧ 995 * refRate rate 14 up < rate 14 * 1000 ∧
    railClamped up 15 = false := by decide +kernel

theorem test_ResetSourcesBeginResets : up.rst.vsb = true ∧ up.rst.level = 0 ∧ bitN up.rst.ext srcSUPPLY = false ∧ bitN up.rst.ext srcPWRGOOD = false ∧
    bitN up.rst.ext srcRESETN = false ∧ bitN up.rst.ext srcPERSTN = false := by decide +kernel
theorem test_CoreResetRuns_refused : ((up.setFld F.DEV_CORE_RST_BUSY 0 1).regWrite .DEV_CORE_RST 0 0x10001).flag F.DEV_CORE_RST_BUSY = true ∧
    (up.regWrite .DEV_CORE_RST 0 0x10000).flag F.DEV_CORE_RST_BUSY = false ∧ (up.regWrite .DEV_CORE_RST 0 0x10000).fld F.DEV_CORE_RST_MASK = 0 := by
  decide +kernel
theorem test_CoreResetRuns : (up.regWrite .DEV_CORE_RST 0 0x10800).fld F.DEV_CORE_RST_MASK = 0x800 ∧
    (up.setFld F.DEV_CORE_RST_BUSY 0 1).flag F.DEV_CORE_RST_BUSY = true := by decide +kernel
theorem test_CoreResetRuns_over : let s := up.setFld F.DEV_CORE_RST_BUSY 0 1
    s.flag F.DEV_CORE_RST_BUSY = true ∧ s.rst.ext % 32 = 0 ∧ coreReqsOut s = false ∧ up.flag F.DEV_CORE_RST_BUSY = false := by decide +kernel
theorem test_ResetSourcesBeginResets_end : let s := up.modRst (fun r => { r with level := 2, stretched := false })
    s.rst.level ≠ 0 ∧ s.rst.stretched = false ∧ s.rst.off = false ∧ s.rst.ext = 0 ∧ s.stall = false ∧
    holdsReset (s.modRst (fun r => { r with ext := 2 ^ srcPERSTN })) = true ∧ holdsReset s = false ∧
    (s.modRst (fun r => { r with off := true })).rst.off = true := by decide +kernel
theorem test_ResetSourcesBeginResets_pin : let s := { up.modRst (fun r => { r with level := 2, ext := 2 ^ srcRESETN }) with now := 22001 }
    s.rst.level ≠ 0 ∧ bitN s.rst.ext srcRESETN = true ∧ s.rst.start + 22000 < s.now := by decide +kernel
theorem test_BootStepsRun : ∀ n ∈ [1, 2, 3, 5, 7], bootAt (bootingAt n) n = true ∧ running (bootingAt n) = true ∧ bootAt up n = false := by decide +kernel
theorem test_BootStepsRun_ports : bootStep (bootingAt 6) = 6 ∧ bootFailed (bootingAt 6) = false ∧ ∀ p < 16, (bootingAt 6).flag F.LNK_CTL_EN p = false := by
  decide +kernel
theorem test_BootStepsRun_firmware : let s := (bootingAt 2).modSec (fun x => { x with slotA := .erased, slotB := .erased })
    imageValid s (slotImage s s.sec.active) = none ∧ imageValid s (slotImage s !s.sec.active) = none := by decide +kernel
theorem test_BootStepsRun_straps : strapErrors (fun _ => none) ≠ [] := by decide +kernel
theorem test_OtpProgramming : (up.regWrite .OTP_PROG_CTL 0 (3 + 1 * 2 ^ 4 + 0xA5 * 2 ^ 8 + 2 ^ 16)).flag F.OTP_PROG_STAT_BUSY = false ∧
    bitN (3 + 1 * 2 ^ 4 + 0xA5 * 2 ^ 8 + 2 ^ 16) 16 = true ∧ bitsN (3 + 1 * 2 ^ 4 + 0xA5 * 2 ^ 8 + 2 ^ 16) 8 8 = 0xA5 ∧
    (up.modRst (fun r => { r with prog := some (3, 1, []) })).rst.prog = some (3, 1, []) ∧ up.rst.prog = none ∧ up.rst.progMgmt = false := by decide +kernel

/-- The device is in a state of Frost. -/
def frostIn (st : Nat) : State := up.setFld F.DEV_FROST_STAT_STATE 0 st
theorem test_FrostStopsAndThaws : frostState up = fsRUN ∧ frostState (frostIn fsCUT) = fsCUT ∧ (frostIn fsCUT).frost.dumping = false ∧
    frostState (frostIn fsSTOPPING) = fsSTOPPING ∧ atLocalCut (frostIn fsSTOPPING) = true ∧ (frostIn fsSTOPPING).frost.scope = 0 ∧
    (frostIn fsSTOPPING).frost.desc = none ∧ (frostIn fsSTOPPING).frost.thawDue = false := by decide +kernel
theorem test_FrostStopsAndThaws_due : let s := (frostIn fsCUT).modFrost (fun f => { f with thawDue := true })
    s.frost.thawDue = true ∧ frostState s = fsCUT ∧ s.frost.dumping = false ∧ s.fld F.DEV_FROST_STAT_SRC ≠ fsrcPOLICY ∧
    (s.setFld F.DEV_FROST_STAT_SRC 0 fsrcPOLICY).fld F.DEV_FROST_STAT_SRC = fsrcPOLICY ∧ fgen s = 0 := by decide +kernel
theorem test_FrostStopsAndThaws_pin : let s := (up.setFld F.DEV_FROST_CTL_PIN_IN 0 1).modRst (fun r => { r with frostHigh := 0 })
    let x := { s with now := 1000 }
    x.rst.frostLow = false ∧ drivesFrostN x = false ∧ x.rst.frostHigh + 1000 ≤ x.now ∧ ready x = true ∧ x.flag F.DEV_FROST_CTL_PIN_IN = true ∧
    fgen (up.setFld F.DEV_FROST_STAT_FGEN 0 65535) = 65535 := by decide +kernel
theorem test_FrostStopsAndThaws_dump : rangeHbm up (0 * 2 ^ 30) dumpSize = true ∧
    heldRange up (0 * 2 ^ 30) dumpSize = false ∧ heldRange up vatBase 0x20000000 = false ∧
    rangeHbm up ((up.setFld F.DEV_FROST_DUMP_ADDR 0 1023).fld F.DEV_FROST_DUMP_ADDR * 2 ^ 30) dumpSize = false := by decide +kernel
theorem test_FrostStopsAndThaws_marker : let f := natLe 1 3 ++ List.replicate 7 0 ++ [3, 1] ++ List.replicate 246 0
    fKind f = 3 ∧ fSub f = 3 ∧ fieldLe f 9 1 = 1 ∧ ((flitOn f).port 0).rx = [f] ∧
    portState (takeReturns 0 f (flitOn [])) 0 = psACTIVE := by decide +kernel

theorem test_DebugReads_sample : ∀ o ∈ [1, 2, 3, 5, 7], let s := up.modDbg (fun d => { d with snap := [(63, some (193, (o, 5)))] })
    smGet none s.dbg.snap 63 = some (193, o, 5) ∧ snapFirst s 63 193 5 = true ∧ smGet none up.dbg.snap 63 = none := by decide +kernel
/-- Context 3's request came in the same instant. -/
theorem test_DebugReads_later : let s := up.modDbg (fun d => { d with snap := [(3, some (193, 1, 5)), (63, some (193, 1, 5))] })
    snapFirst s 63 193 5 = false ∧ snapFirst s 3 193 5 = true := by decide +kernel
theorem test_DebugReads_untouched : up.dbg.touched % 2 ^ 24 = 0 ∧ (up.core 191).shown.1 ≠ wkDEBUG ∧
    (touch 0 (up.modDbg (fun d => { d with off := false }))).dbg.touched % 2 ^ 24 ≠ 0 := by decide +kernel
theorem test_DebugReads_other : (up.modDbg (fun d => { d with drain := true })).dbg.drain = true ∧ up.dbg.drain = false ∧
    (up.modDbg (fun d => { d with wfg := some (0, [], true) })).dbg.wfg = some (0, [], true) ∧ up.dbg.wfg = none ∧
    (up.modDbg (fun d => { d with wfg := some (0, [], false) })).dbg.wfg = some (0, [], false) ∧
    (up.regWrite .CORE_DBG_CTL 191 1).flag F.CORE_DBG_CTL_HALT 191 = true ∧ up.flag F.CORE_DBG_CTL_HALT 191 = false := by decide +kernel

/-- Session 7 is open. -/
def sessionUp : State := up.modSec (fun x => { x with sessions := [⟨7, none, true, 0⟩] })
theorem test_SessionsAreServed : mgmtUp up = true ∧ ready up = true ∧ Heard .i3c ∧ Heard (.doe 0) ∧ up.sec.sessions.length < 4 ∧ openSession sessionUp 7 = true ∧
    hasSession sessionUp 7 = true ∧ openSession sessionUp 8 = false ∧ hasSession sessionUp 8 = false :=
  ⟨by decide +kernel, by decide +kernel, trivial, rfl, by decide +kernel, by decide +kernel, by decide +kernel, by decide +kernel, by decide +kernel⟩
theorem test_SessionsAreServed_full : 4 ≤ (up.modSec (fun x => { x with sessions := List.replicate 4 ⟨7, none, true, 0⟩ })).sec.sessions.length := by decide +kernel
theorem test_SessionsAreServed_key : up.fld F.SEC_LNK_CTL_TXSLOT 15 = 0 ∧ up.flag F.SEC_LNK_CTL_ACTIVE 15 = false ∧
    (up.setFld F.SEC_LNK_CTL_ACTIVE 15 1).flag F.SEC_LNK_CTL_ACTIVE 15 = true := by decide +kernel
theorem test_ManagementCommands : mayChange up .i3c = true ∧ mayChange sessionUp (.vdm (some 7)) = true ∧ mayChange up (.vdm none) = false ∧
    mayAsk up (.vdm none) = true ∧ mayAsk up (.doe 0) = false ∧ up.dbg.wfg = none ∧ sensorNow up 3 ≠ none ∧ sensorNow up 0 = none := by decide +kernel
theorem test_ManagementCommands_otp : up.sec.nonce = none ∧ (up.modSec (fun x => { x with nonce := some [1] })).sec.nonce ≠ none ∧
    up.flag F.OTP_PROG_STAT_BUSY = false := by decide +kernel
theorem test_ManagementCommands_update : pldmUp up = true ∧ up.sec.update = none ∧
    (up.modSec (fun x => { x with update := some ⟨9, true, 2, [], false⟩ })).sec.update = some ⟨9, true, 2, [], false⟩ ∧
    (9 : Fin 256) = Fin.ofNat 256 (⟨9, true, 2, [], false⟩ : FwUpdate).agent := by decide +kernel

theorem test_RegisterWritesTakeEffect : regAt (regOffset .PWR_BALLAST 0) = some (.PWR_BALLAST, 0, 0) ∧ regOffset .PWR_BALLAST 0 % 4 = 0 := by decide +kernel
theorem test_RegisterWritesTakeEffect_form : bar0Form 0x100 8 = true ∧ bar0Form 0x104 4 = true ∧ bar0Form 0x104 8 = false ∧ bar0Form 0x100 2 = false ∧
    bar0Form 0x100 16 = false ∧ bar0Form 0x100 0 = false := by decide
theorem test_VfWritesOnlyItsGrants : vfMayWrite up 63 .PWR_BALLAST 0 = false := by decide +kernel
theorem test_ShadowWrites : regAt (regOffset .FAB_RT 0) = some (.FAB_RT, 0, 0) ∧ Reg.FAB_RT.info.txn = true ∧ isWindowReg .FAB_RT = false ∧
    txState up = txIDLE ∧ txState (up.setFld F.TXN_STAT_STATE 0 txOPEN) = txOPEN := by decide +kernel
/-- A transaction with one staged register. -/
def txnOf (st : Nat) (r : Reg) (v : Word) : State :=
  { (up.setFld F.TXN_STAT_STATE 0 st) with txn := { up.txn with shadows := smPut (regKey r 0) v [] } }
/-- The credits of VC 0 of port 0 staged as they are. -/
def txnWith (st : Nat) : State := txnOf st .LNK_VC_CRED 455

theorem test_TransactionBegins : txState up = txIDLE ∧ txState (txnWith txOPEN) ≠ txIDLE := by decide +kernel
theorem test_TransactionEnds_open : txState (txnWith txOPEN) = txOPEN ∧ (txnWith txOPEN).txn.shadows ≠ [] ∧
    commitFails (txnWith txOPEN) (withShadows (txnWith txOPEN)) = [] := by decide +kernel
theorem test_TransactionEnds_apply : let s := txnWith txCOMMITTING
    let t := withShadows s
    txState s = txCOMMITTING ∧ (commitUnits s t).all (fun b => b) = true ∧ localIlv s = localIlv t ∧ changes s t .FAB_NODE 0 = false ∧
    (∀ p < 16, linkDiffers s t p = false ∧ credDiffers s t p = false) ∧ (∀ w < 16, gwDirty s w = false) ∧ txState up ≠ txCOMMITTING := by decide +kernel
/-- While a commit moves the SYNC partition of slice 0, its words are held (R168). -/
theorem test_SyncWords_held : let s := txnOf txCOMMITTING .VAT_PART 0
    heldRange s vatBase 8 = true ∧ pwordAddr s 0 = some vatBase ∧ heldRange up vatBase 8 = false := by decide +kernel
/-- R166 fails for slice 0, so the lowest offset is that of VAT_PART(0) (Table 21.1: 0x020_0000). -/
theorem test_TransactionEnds_rejected : let s := txnOf txOPEN .VAT_PART 0
    lowestOf (commitFails s (withShadows s)) = some 0x200000 := by decide +kernel
/-- A flit of port 0 that no credit has come back for keeps the port from quiescence (R249). -/
theorem test_TransactionEnds_timeout :
    let s := (txnOf txCOMMITTING .LNK_VC_CRED 100).modPort 0 (fun k => { k with sent := smSet 0 0 1 k.sent })
    txState s = txCOMMITTING ∧ frozen s = false ∧ (commitUnits s (withShadows s)).all (fun b => b) = false := by decide +kernel
/-- A COPY that has failed and one that has not wait for a page. -/
theorem test_FunctionsMirrorsAndBar4_failed : ((ringAt .running 1).ring 1).find 0 = some { desc 0 1 with phase := .running } ∧
    (((ringWith 1 1).modRing 1 (fun k => { k with descs := [{ desc 0 1 with status := cREMOTE }] })).ring 1).find 0 =
      some { desc 0 1 with status := cREMOTE } ∧ cREMOTE ≠ 0 ∧
    dOpcode (desc 0 1).bytes = 1 ∧ (desc 0 1).status = 0 := by decide +kernel
/-- Functions 3 and 4 are going. -/
theorem test_FunctionsMirrorsAndBar4_going : let s := up.modFe (fun f => { f with vfGoing := some ([3, 4], true, 2) })
    s.fe.vfGoing = some ([3, 4], true, 2) ∧ up.fe.vfGoing = none ∧ (∀ p ∈ up.fe.rings, p.2.st = rsOff) ∧
    ctxExists (up.modFe (fun f => { f with vfEnable := true, numVfs := 5 })) 5 = true := by decide +kernel
/-- Whether an answer to a page request may be used: a started descriptor's not under Frost (R373). -/
theorem test_FunctionsMirrorsAndBar4_page : mayResume up ⟨0, 0, .fe 1 0 0⟩ = true ∧
    mayResume (frostIn fsCUT) ⟨0, 0, .fe 1 0 0⟩ = false ∧ mayResume (frostIn fsCUT) ⟨0, 0, .pkt []⟩ = true := by decide +kernel

theorem test_BlocksAreChecked_matrix : (MBlk.of (natLe 16 (1 + 2 ^ 8 + 8 * 2 ^ 16 + 8 * 2 ^ 32 + 128 * 2 ^ 48 + 128 * 2 ^ 56 + 64 * 2 ^ 64 + 2 * 2 ^ 96 +
    2 * 2 ^ 112) ++ natLe 16 (0x4000 * 2 ^ 24) ++ natLe 16 3 ++ natLe 16 3)).ok = true := by decide +kernel
theorem test_BlocksAreChecked_vector : (VBlk.of (natLe 16 (2 + 512 * 2 ^ 43 + 0xF * 2 ^ 120) ++ natLe 48 0)).ok CoreSt.reset = true ∧
    (CBlk.of (natLe 32 (0x80 + 2 ^ 8 + 16 * 2 ^ 24 + 0xF * 2 ^ 120) ++ natLe 32 (0x1000 + 0xF * 2 ^ 56 + 0x2000 * 2 ^ 208))).ok CoreSt.reset
      (stagesOf 1 (natLe 8 (0x15 + 0xFF000))) = true := by decide +kernel
theorem test_BlocksAreChecked_dma :
    (DBlk.of (natLe 32 (1 + 0x1000 * 2 ^ 128 + 64 * 2 ^ 192 + 2 * 2 ^ 224 + 2 ^ 240) ++ natLe 32 (64 + 64 * 2 ^ 48))).ok false = true ∧
    (DBlk.of (natLe 32 (3 + 4 * 2 ^ 128) ++ natLe 32 (0x10 * 2 ^ 24))).atomOk = true := by decide +kernel
theorem test_BlocksAreChecked_form : formOk (natLe 64 (1 + 2 ^ 239)) = true ∧ formOk (natLe 64 (1 + 2 ^ 240)) = false ∧
    dOpcode (natLe 64 (1 + 2 ^ 240)) = 1 ∧ copyOk (natLe 64 1) = true ∧ copyOk (natLe 33 (1 + 5 * 2 ^ 256)) = false := by decide +kernel
theorem test_BlocksAreChecked_commit : commitFails State.reset State.reset = [] ∧
    (let t := withShadows (txnOf txOPEN .VAT_PART 0); bitsN (t.reg .VAT_PART 0).toNat 0 8 < 1) ∧
    (∃ c ∈ portCredits (withShadows (txnOf txOPEN .LNK_VC_CRED 17)) 0, c < 18) := by decide +kernel

/-! ## Results worked by hand from the spec's definitions -/

/-- The check value of CRC-32C over the nine ASCII digits. -/
theorem test_crc32c_digits : crc32c ((List.range 9).map (fun i => BitVec.ofNat 8 (0x31 + i))) = 0xE3069283 := by decide +kernel
/-- The check value of the unreflected CRC-64 with that polynomial and initial value 0. -/
theorem test_crc64_digits : crc64 0 ((List.range 9).map (fun i => BitVec.ofNat 8 (0x31 + i))) = 0x6C40DF5F0B497347 := by decide +kernel
/-- A tie goes to the even code: 1 + 2^-8 lies halfway between 0x3F80 and 0x3F81 of BF16. -/
theorem test_convert_tie : (toFp fBF16 (Ctl.ofByte 0) 0 (decodeFp fFP32 0x3F808000)).code = 0x3F80 ∧
    (toFp fBF16 (Ctl.ofByte 0) 0 (decodeFp fFP32 0x3F818000)).code = 0x3F82 := by decide +kernel
/-- 61440 is the midpoint above E5M2's largest number 57344: it overflows to infinity. -/
theorem test_convert_overflow : (toFp fE5M2 (Ctl.ofByte 0) 0 (decodeFp fFP32 0x47700000)).code = 0x7C := by decide +kernel
/-- x5 = x6 + x7 wraps. -/
theorem test_add_wraps : ((after (.cpInstruction 0 (answer []))
    (fetching 0x007302B3 (fun k => { k with x := smSet 0 7 2 (smSet 0 6 (wN (2 ^ 64 - 1)) k.x) }))).core 0).x = [(5, 1), (6, wN (2 ^ 64 - 1)), (7, 2)] := by
  decide +kernel
/-- A COPY of 16 bytes of the scratchpad up by 8: bytes 8 to 15 are of both sides (R155). -/
theorem test_copy_overlap : mvOverlap ⟨0, some 0, .pad 0, .pad 0, 16, .vdma 0 1, 0, false⟩ (fun L => (L, 8 + L, 16 - L)) up =
    [⟨false, padAddr 0 8, 8⟩] := by decide +kernel

end Sys2Proof.Tests
end

section
/-! Register writes (R6, R408, R414): what a write does to one field, and what a PF's BAR0 access does to a register. -/

namespace Sys2Proof.Machine

/-! ## One field -/

/-- Table 0.3: the value of the field written, under its access code. -/
theorem bitsN_writeField (old v : Nat) (f : FieldSpec) :
    bitsN (writeField old v f) f.lsb f.width =
      (match f.acc with
        | .rw => if f.lo ≤ bitsN v f.lsb f.width ∧ bitsN v f.lsb f.width ≤ f.hi then bitsN v f.lsb f.width
          else bitsN old f.lsb f.width
        | .ro => bitsN old f.lsb f.width
        | .wo => bitsN old f.lsb f.width
        | .w1c => bitsN old f.lsb f.width &&& (bitsN v f.lsb f.width ^^^ (2 ^ f.width - 1))
        | .w1s => bitsN old f.lsb f.width ||| bitsN v f.lsb f.width) := by
  have ho : bitsN old f.lsb f.width < 2 ^ f.width := bitsN_lt ..
  have hx : bitsN v f.lsb f.width < 2 ^ f.width := bitsN_lt ..
  unfold writeField
  cases f.acc with
  | rw =>
    simp only [Bool.and_eq_true, decide_eq_true_eq]
    split
    · rw [bitsN_setBitsN, Nat.mod_eq_of_lt hx]
    · rfl
  | ro => rfl
  | wo => rfl
  | w1c => simp only [bitsN_setBitsN, Nat.mod_eq_of_lt (Nat.lt_of_le_of_lt Nat.and_le_left ho)]
  | w1s => simp only [bitsN_setBitsN, Nat.mod_eq_of_lt (Nat.or_lt_two_pow ho hx)]

/-- A write of a field changes no bit outside it. -/
theorem bitsN_writeField_ne (old v : Nat) (f : FieldSpec) (l w : Nat) (h : l + w ≤ f.lsb ∨ f.lsb + f.width ≤ l) :
    bitsN (writeField old v f) l w = bitsN old l w := by
  unfold writeField
  cases f.acc with
  | rw =>
    dsimp only
    split
    · exact bitsN_setBitsN_ne _ _ _ _ _ _ h
    · rfl
  | ro => rfl
  | wo => rfl
  | w1c => exact bitsN_setBitsN_ne _ _ _ _ _ _ h
  | w1s => exact bitsN_setBitsN_ne _ _ _ _ _ _ h

/-! ## One register -/

theorem plainRegs_plain : ∀ r ∈ plainRegs, PlainReg r := by
  unfold plainRegs
  repeat refine List.forall_mem_cons.mpr ⟨⟨rfl, fun _ _ _ _ _ => rfl⟩, ?_⟩
  exact List.forall_mem_nil _

/-- R192: a set-up register of a context takes a write while the context exists. -/
theorem unless_not_ctxExists (r : Reg) (i v : Nat) (s : State) :
    unless_ (!(ctxExists s i)) r i v s = if ctxExists s i then s.regWrite r i v else s := by
  unfold unless_
  cases ctxExists s i with
  | false => rfl
  | true => rfl

theorem writeReg_of_ctxSetup : ∀ r ∈ [Reg.FE_CTX_CFG, .SYNC_CTX_TBL, .MEM_CTX_PTBASE],
    ∀ (fn i v mask : Nat) (s : State), writeReg fn r i v mask s = if ctxExists s i then s.regWrite r i v else s := by
  repeat refine List.forall_mem_cons.mpr ⟨fun _ i v _ s => unless_not_ctxExists _ i v s, ?_⟩
  exact List.forall_mem_nil _

/-- Once the host is ready, the PF writes the bits of `mask` of a plain register, and the others keep what they hold. -/
theorem writeBits_of_plain {r : Reg} (hr : PlainReg r) {s : State} (hs : ready s = true) (i v mask : Nat) :
    writeBits 0 r i v mask s = s.regWrite r i (mergeWrite r (s.reg r i).toNat v mask) := by
  obtain ⟨htxn, hw⟩ := hr
  have hmay : mayWrite s 0 r i = true := rfl
  have hserved : served s r i = true := by rw [served, hs, Bool.true_or]
  rw [writeBits, hmay, hserved, htxn]
  exact hw _ _ _ _ _

/-! ## A BAR0 access -/

theorem bar0Form_eq_false_iff (off len : Nat) : bar0Form off len = false ↔ (len ≠ 4 ∧ len ≠ 8) ∨ off % len ≠ 0 := by
  simp only [bar0Form, Bool.and_eq_false_iff, Bool.or_eq_false_iff, beq_eq_false_iff_ne]

theorem bar0Write_of_not_form {off len : Nat} (h : bar0Form off len = false) (fn v : Nat) (s : State) :
    bar0Write fn off len v s = s := by
  rw [bar0Write, h]
  rfl

/-- Eight bytes at the offset of a 64-bit register write it whole. -/
theorem bar0Write_eight {off i : Nat} {r : Reg} (hat : regAt off = some (r, i, 0)) (hw : r.info.width = 64)
    (ho : off % 8 = 0) (fn v : Nat) (s : State) : bar0Write fn off 8 v s = writeBits fn r i v (2 ^ 64 - 1) s := by
  have hform : bar0Form off 8 = true := (Bool.not_eq_false _).mp (by simp [bar0Form_eq_false_iff, ho])
  simp only [bar0Write, hform, hat, hw, Bool.not_true, Bool.false_eq_true, if_false, if_true]

/-- Four bytes at the offset of a register write its lower half. -/
theorem bar0Write_four {off i : Nat} {r : Reg} (hat : regAt off = some (r, i, 0)) (ho : off % 4 = 0)
    (fn v : Nat) (s : State) : bar0Write fn off 4 v s = writeBits fn r i (v % 2 ^ 32) (2 ^ 32 - 1) s := by
  have hform : bar0Form off 4 = true := (Bool.not_eq_false _).mp (by simp [bar0Form_eq_false_iff, ho])
  have hwrite : bar0Write fn off 4 v s = write4 fn off v s := by
    rw [bar0Write, hform]
    rfl
  rw [hwrite, write4, hat]
  simp only [Nat.mul_zero, Nat.pow_zero, Nat.mul_one]

/-- A BAR0 write completes with its effect, which cannot meet memory that is held where it only writes a register. -/
theorem does_registerWrite {s t : State} (hs : On s) (fn : CtxId) (off : Fin 0x2000000) (len : Fin 4097) (v : Word)
    (ht : t.stall = false) (h : bar0Write fn off len v.toNat s = t) : Does (.registerWrite fn off len v) s t :=
  does_run hs ht (h ▸ rfl)

/-- R408: an access that BAR0 does not serve is discarded. -/
theorem does_none_of_not_form {s : State} (hs : On s) (fn : CtxId) (off : Fin 0x2000000) (len : Fin 4097) (v : Word)
    (h : bar0Form off len = false) : Does (.registerWrite fn off len v) s s ∧ Does (.shadowWrite fn off len v) s s := by
  have hb := bar0Write_of_not_form h fn v.toNat s
  refine ⟨does_registerWrite hs fn off len v hs.2 hb, does_none hs ?_⟩
  have hx : exec (.shadowWrite fn off len v) s = run s (if hitsTxn off then bar0Write fn off len v.toNat s else s) := rfl
  rw [hx, hb, ite_self]

/-- Settles O55: field by field from Table 0.3, the register from its row of `writeReg`, and the access from the forms
that BAR0 serves. -/
theorem registerWritesTakeEffect : Obligations.RegisterWritesTakeEffect := by
  refine ⟨fun old v f _ => ⟨bitsN_writeField old v f, bitsN_writeField_ne old v f⟩, plainRegs_plain, writeReg_of_ctxSetup, ?_, ?_⟩
  · intro s off v r i hs hrdy hp hat
    have done (len : Fin 4097) (x mask : Nat)
        (h : bar0Write (0 : CtxId) off len v.toNat s = writeBits (0 : CtxId) r i x mask s) :
        Does (.registerWrite 0 off len v) s (s.regWrite r i (mergeWrite r (s.reg r i).toNat x mask)) :=
      does_registerWrite hs 0 off len v hs.2 (h.trans (writeBits_of_plain hp hrdy i x mask))
    exact ⟨fun hw ho => done 8 _ _ (bar0Write_eight hat hw ho _ _ s), fun ho => done 4 _ _ (bar0Write_four hat ho _ _ s)⟩
  · intro s fn off len v hs h
    exact does_none_of_not_form hs fn off len v ((bar0Form_eq_false_iff _ _).mpr h)

end Sys2Proof.Machine
end

section
/-! Number formats (chapter 03): what rounding picks, the pieces of a split, codes that convert back, and comparisons. -/

namespace Sys2Proof.Machine

/-! ## The pick of each rounding mode (R44, R46) -/

@[simp] theorem pickUp_exact (r : Rnd) (neg : Bool) (t div U : Nat) : pickUp r neg t 0 div U = false := rfl

@[simp] theorem pickUp_rtz (neg : Bool) (t rem div U : Nat) : pickUp .rtz neg t rem div U = false := ite_self _

theorem pickUp_rup {rem : Nat} (h : rem ≠ 0) (neg : Bool) (t div U : Nat) : pickUp .rup neg t rem div U = !neg := if_neg h

theorem pickUp_rdn {rem : Nat} (h : rem ≠ 0) (neg : Bool) (t div U : Nat) : pickUp .rdn neg t rem div U = neg := if_neg h

theorem pickUp_rto {rem : Nat} (h : rem ≠ 0) (neg : Bool) (t div U : Nat) :
    pickUp .rto neg t rem div U = (t % 2 == 0) := if_neg h

theorem pickUp_rne {rem : Nat} (h : rem ≠ 0) (neg : Bool) (t div U : Nat) :
    pickUp .rne neg t rem div U = (decide (div < 2 * rem) || (2 * rem == div && t % 2 == 1)) := if_neg h

theorem pickUp_sr {rem : Nat} (h : rem ≠ 0) (neg : Bool) (t div U : Nat) :
    pickUp .sr neg t rem div U = decide (2 ^ 32 ≤ rem * 2 ^ 32 / div + U) := if_neg h

/-! ## Rounding on a grid -/

/-- A magnitude whose exponent is the grid's is kept as it is. -/
@[simp] theorem roundGrid_self (r : Rnd) (U : Nat) (neg : Bool) (m : Nat) (e : Int) :
    roundGrid r U neg m e e = (m, false) := by
  simp [roundGrid, pow2]

/-- The multiple of `d` that the mode picks for `m`: t, or u where it picks up. -/
def pick (r : Rnd) (U : Nat) (neg : Bool) (m d : Nat) : Nat :=
  if pickUp r neg (m / d) (m % d) d U then m / d + 1 else m / d

theorem roundGrid_of_lt {e q : Int} (h : e < q) (r : Rnd) (U : Nat) (neg : Bool) (m : Nat) :
    roundGrid r U neg m e q = (pick r U neg m (pow2 (q - e)), m % pow2 (q - e) != 0) :=
  if_neg (Int.not_le.mpr h)

section
variable (r : Rnd) (U : Nat) (neg : Bool) (m d : Nat)

theorem pick_eq_or : pick r U neg m d = m / d ∨ pick r U neg m d = m / d + 1 := by
  rw [pick]
  split
  · exact .inr rfl
  · exact .inl rfl

theorem pick_eq_quotient_iff : pick r U neg m d = m / d ↔ pickUp r neg (m / d) (m % d) d U = false := by
  simp [pick]

theorem pick_eq_succ_iff : pick r U neg m d = m / d + 1 ↔ pickUp r neg (m / d) (m % d) d U = true := by
  simp [pick]

theorem pick_exact (h : m % d = 0) : pick r U neg m d = m / d := by
  rw [pick_eq_quotient_iff, h, pickUp_exact]

theorem pick_rtz : pick .rtz U neg m d = m / d := by
  rw [pick_eq_quotient_iff, pickUp_rtz]

theorem pick_rup_eq_quotient_iff (h : m % d ≠ 0) : pick .rup U neg m d = m / d ↔ neg = true := by
  rw [pick_eq_quotient_iff, pickUp_rup h, Bool.not_eq_false']

theorem pick_rdn_eq_quotient_iff (h : m % d ≠ 0) : pick .rdn U neg m d = m / d ↔ neg = false := by
  rw [pick_eq_quotient_iff, pickUp_rdn h]

theorem pick_sr_eq_succ_iff (h : m % d ≠ 0) : pick .sr U neg m d = m / d + 1 ↔ 2 ^ 32 ≤ m % d * 2 ^ 32 / d + U := by
  rw [pick_eq_succ_iff, pickUp_sr h, decide_eq_true_eq]

theorem pick_rto_odd (h : m % d ≠ 0) : pick .rto U neg m d % 2 = 1 := by
  simp only [pick, pickUp_rto h, beq_iff_eq]
  split
  case isTrue => omega
  case isFalse => omega

/-- RNE: the multiple picked is within half of `d` of `m`, and it is the even one where two are as near. -/
theorem pick_rne_nearest (hd : 0 < d) :
    2 * (max (pick .rne U neg m d * d) m - min (pick .rne U neg m d * d) m) ≤ d ∧
      (2 * (m % d) = d → pick .rne U neg m d % 2 = 0) := by
  have hm : m / d * d + m % d = m := Nat.div_add_mod' m d
  have hlt : m % d < d := Nat.mod_lt m hd
  have hu : (m / d + 1) * d = m / d * d + d := Nat.succ_mul ..
  by_cases hrem : m % d = 0
  · rw [pick_exact _ _ _ _ _ hrem]
    omega
  · simp only [pick, pickUp_rne hrem, Bool.or_eq_true, Bool.and_eq_true, decide_eq_true_eq, beq_iff_eq]
    split
    case isTrue hup =>
      rw [hu]
      omega
    case isFalse hdown => omega

end

/-! ## The split of a magnitude (R36, R37) -/

/-- The spacing of 8 significant bits at a magnitude. -/
def ulp8 (m : Nat) : Nat := 2 ^ (Nat.log2 m - 7)

/-- A magnitude truncated to 8 significant bits. -/
def top8 (m : Nat) : Nat := m / ulp8 m * ulp8 m
/-- What truncation to 8 significant bits leaves. -/
def rest8 (m : Nat) : Nat := m % ulp8 m

theorem trunc8_eq (m : Nat) (e : Int) : trunc8 m e = ((top8 m, e), (rest8 m, e)) := by
  by_cases h : Nat.log2 m < 8
  · have hulp : ulp8 m = 1 := by rw [ulp8, Nat.sub_eq_zero_of_le (Nat.le_of_lt_succ h), Nat.pow_zero]
    simp only [trunc8, if_pos h, top8, rest8, hulp, Nat.div_one, Nat.mul_one, Nat.mod_one]
  · exact if_neg h

theorem top8_add_rest8 (m : Nat) : top8 m + rest8 m = m := Nat.div_add_mod' ..

theorem ulp8_dvd_top8 (m : Nat) : ulp8 m ∣ top8 m := Nat.dvd_mul_left ..

theorem ulp8_mono {m n : Nat} (h : m ≤ n) : ulp8 m ∣ ulp8 n := by
  have hlog : Nat.log2 m ≤ Nat.log2 n := by
    rcases Nat.eq_zero_or_pos m with rfl | hm
    · exact Nat.zero_le _
    · have hm0 : m ≠ 0 := Nat.ne_of_gt hm
      exact (Nat.le_log2 (Nat.ne_of_gt (Nat.lt_of_lt_of_le hm h))).mpr (Nat.le_trans (Nat.log2_self_le hm0) h)
  exact Nat.pow_dvd_pow 2 (Nat.sub_le_sub_right hlog 7)

/-- The part kept has at most 8 significant bits. -/
theorem ulp8_top8_dvd (m : Nat) : ulp8 (top8 m) ∣ top8 m :=
  Nat.dvd_trans (ulp8_mono (Nat.div_mul_le_self ..)) (ulp8_dvd_top8 m)

theorem ulp8_le {m k : Nat} (h : m < 2 ^ (k + 8)) : ulp8 m ≤ 2 ^ k := by
  refine Nat.pow_le_pow_right (by decide) ?_
  by_cases hm : m = 0
  · subst hm
    exact Nat.zero_le k
  · have := (Nat.log2_lt hm).mpr h
    omega

theorem ulp8_dvd_of_lt {x : Nat} (h : x < 2 ^ 8) : ulp8 x ∣ x := by
  have hulp : ulp8 x = 1 := Nat.le_antisymm (ulp8_le (k := 0) h) (Nat.two_pow_pos _)
  exact hulp ▸ Nat.one_dvd x

/-- A truncation takes 8 bits off the top. -/
theorem rest8_lt {m k : Nat} (h : m < 2 ^ (k + 8)) : rest8 m < 2 ^ k :=
  Nat.lt_of_lt_of_le (Nat.mod_lt m (Nat.two_pow_pos _)) (ulp8_le h)

theorem top8_ne_zero {m : Nat} (h : m ≠ 0) : top8 m ≠ 0 := by
  have hle : ulp8 m ≤ m :=
    Nat.le_trans (Nat.pow_le_pow_right Nat.two_pos (Nat.sub_le ..)) (Nat.log2_self_le h)
  exact Nat.mul_ne_zero (Nat.ne_of_gt (Nat.div_pos hle (Nat.two_pow_pos _))) (Nat.ne_of_gt (Nat.two_pow_pos _))

/-- A piece of a finite value: a zero piece is a structural zero (R37). -/
def pieceOf (n : Bool) (x : Nat) (e : Int) : Option Num := if x = 0 then none else some (.fin n x e)

theorem pieceOf_cases (n : Bool) (x : Nat) (e : Int) :
    pieceOf n x e = none ∧ x = 0 ∨ pieceOf n x e = some (.fin n x e) ∧ x ≠ 0 := by
  by_cases h : x = 0
  · exact .inl ⟨if_pos h, h⟩
  · exact .inr ⟨if_neg h, h⟩

theorem splitPieces_fin (n : Bool) (m : Nat) (e : Int) :
    splitPieces (.fin n m e) =
      [some (.fin n (top8 m) e), pieceOf n (top8 (rest8 m)) e, pieceOf n (rest8 (rest8 m)) e] := by
  simp only [splitPieces, trunc8_eq]
  by_cases h : rest8 m = 0
  · rw [if_pos h, h]
    rfl
  · rw [if_neg h, pieceOf, if_neg (top8_ne_zero h)]
    rfl

/-! ## Codes of a floating format (R32) -/

theorem log2_two_pow_add {k x : Nat} (h : x < 2 ^ k) : Nat.log2 (2 ^ k + x) = k := by
  have hpos := Nat.two_pow_pos k
  rw [Nat.log2_eq_iff (by omega), Nat.pow_succ]
  omega

/-- The fraction of a code. -/
def fracOf (f : FpFmt) (code : Nat) : Nat := code % 2 ^ f.mb
/-- The exponent field of a code. -/
def exOf (f : FpFmt) (code : Nat) : Nat := code / 2 ^ f.mb % 2 ^ f.eb
/-- The sign of a code. -/
def negOf (f : FpFmt) (code : Nat) : Bool := decide (code / 2 ^ (f.mb + f.eb) % 2 = 1)

theorem fracOf_lt (f : FpFmt) (code : Nat) : fracOf f code < 2 ^ f.mb := Nat.mod_lt _ (Nat.two_pow_pos _)

theorem exOf_lt (f : FpFmt) (code : Nat) : exOf f code < 2 ^ f.eb := Nat.mod_lt _ (Nat.two_pow_pos _)

/-- A bit of weight `p` at the top of a code. -/
theorem top_bit {code p : Nat} (h : code < 2 * p) : (if code / p % 2 = 1 then p else 0) = p * (code / p) := by
  have hbit : code / p < 2 := Nat.div_lt_of_lt_mul (by rwa [Nat.mul_comm])
  rcases Nat.le_one_iff_eq_zero_or_eq_one.mp (Nat.le_of_lt_succ hbit) with h0 | h1
  · simp [h0]
  · simp [h1]

/-- A code is its three fields. -/
theorem fields_eq_code (f : FpFmt) {code : Nat} (h : code < 2 ^ (1 + f.eb + f.mb)) :
    fracOf f code + exOf f code * 2 ^ f.mb + signBit f (negOf f code) = code := by
  have hlow : fracOf f code + exOf f code * 2 ^ f.mb = code % 2 ^ (f.mb + f.eb) := by
    rw [Nat.pow_add, Nat.mod_mul, Nat.mul_comm (2 ^ f.mb)]
    rfl
  have hsign : signBit f (negOf f code) = 2 ^ (f.mb + f.eb) * (code / 2 ^ (f.mb + f.eb)) := by
    rw [← top_bit (by rwa [← Nat.pow_add_one', Nat.add_comm, Nat.add_comm f.mb, ← Nat.add_assoc])]
    simp only [signBit, negOf, decide_eq_true_eq, Nat.add_comm f.eb]
  rw [hlow, hsign, Nat.mod_add_div]

/-- The finite value of a sign, an exponent field and a fraction. -/
def finValue (f : FpFmt) (neg : Bool) (ex frac : Nat) : Num :=
  if ex = 0 then mkFin neg frac (1 - (f.bias : Int) - f.mb)
  else .fin neg (2 ^ f.mb + frac) ((ex : Int) - f.bias - f.mb)

section
variable {f : FpFmt} (code : Nat)

theorem decodeFp_of_none (h : f.sp = .none) :
    decodeFp f code = finValue f (negOf f code) (exOf f code) (fracOf f code) := by
  simp only [decodeFp, h]
  rfl

theorem decodeFp_of_ieee (h : f.sp = .ieee) :
    decodeFp f code =
      if exOf f code = 2 ^ f.eb - 1 then
        if fracOf f code = 0 then .inf (negOf f code) else .nan (fracOf f code / 2 ^ (f.mb - 1) % 2 = 0)
      else finValue f (negOf f code) (exOf f code) (fracOf f code) := by
  simp only [decodeFp, h]
  rfl

theorem decodeFp_of_e4m3 (h : f.sp = .e4m3) :
    decodeFp f code =
      if exOf f code = 2 ^ f.eb - 1 ∧ fracOf f code = 2 ^ f.mb - 1 then .nan false
      else finValue f (negOf f code) (exOf f code) (fracOf f code) := by
  simp only [decodeFp, h]
  rfl

end

theorem fields_lt {frac ex b n : Nat} (hfrac : frac < b) (hex : ex < n) : frac + ex * b < n * b :=
  calc frac + ex * b < (ex + 1) * b := by rw [Nat.succ_mul]; omega
    _ ≤ n * b := Nat.mul_le_mul_right b hex

/-- A code that is not a NaN is an infinity of an IEEE format, or a finite value that is not above the largest. -/
theorem decodeFp_cases (f : FpFmt) (code : Nat) (h : (decodeFp f code).isNaN = false) :
    (f.sp = .ieee ∧ exOf f code = 2 ^ f.eb - 1 ∧ fracOf f code = 0 ∧ decodeFp f code = .inf (negOf f code)) ∨
    (fracOf f code + exOf f code * 2 ^ f.mb ≤ maxCode f ∧
      decodeFp f code = finValue f (negOf f code) (exOf f code) (fracOf f code)) := by
  have hfrac := fracOf_lt f code
  have hex := exOf_lt f code
  have hlt : fracOf f code + exOf f code * 2 ^ f.mb < 2 ^ f.eb * 2 ^ f.mb := fields_lt hfrac hex
  cases hsp : f.sp with
  | none =>
    refine .inr ⟨?_, decodeFp_of_none code hsp⟩
    rw [← Nat.pow_add] at hlt
    simp only [maxCode, hsp]
    exact Nat.le_sub_one_of_lt hlt
  | ieee =>
    have hval := decodeFp_of_ieee code hsp
    by_cases htop : exOf f code = 2 ^ f.eb - 1
    · rw [if_pos htop] at hval
      by_cases hzero : fracOf f code = 0
      · exact .inl ⟨rfl, htop, hzero, hval.trans (if_pos hzero)⟩
      · rw [hval, if_neg hzero] at h
        exact absurd h Bool.noConfusion
    · refine .inr ⟨?_, hval.trans (if_neg htop)⟩
      have hbelow : fracOf f code + exOf f code * 2 ^ f.mb < (2 ^ f.eb - 1) * 2 ^ f.mb :=
        fields_lt hfrac (by omega)
      simp only [maxCode, hsp]
      exact Nat.le_sub_one_of_lt hbelow
  | e4m3 =>
    have hval := decodeFp_of_e4m3 code hsp
    by_cases hnan : exOf f code = 2 ^ f.eb - 1 ∧ fracOf f code = 2 ^ f.mb - 1
    · rw [hval, if_pos hnan] at h
      exact absurd h Bool.noConfusion
    · refine .inr ⟨?_, hval.trans (if_neg hnan)⟩
      have htop : (2 ^ f.eb - 1) * 2 ^ f.mb + 2 ^ f.mb = 2 ^ f.eb * 2 ^ f.mb := by
        rw [← Nat.succ_mul, Nat.succ_eq_add_one, Nat.sub_add_cancel Nat.one_le_two_pow]
      simp only [maxCode, hsp, Nat.pow_add]
      by_cases hex' : exOf f code = 2 ^ f.eb - 1
      · rw [hex']
        omega
      · have hbelow : fracOf f code + exOf f code * 2 ^ f.mb < (2 ^ f.eb - 1) * 2 ^ f.mb :=
          fields_lt hfrac (by omega)
        omega

/-- A value that lies on its format's grid and is not above the largest keeps every bit. -/
theorem roundFin_exact {f : FpFmt} {m : Nat} {e : Int}
    (hq : max (expOf m e - f.mb) (1 - (f.bias : Int) - f.mb) = e)
    (hmax : m + (e - (1 - (f.bias : Int) - f.mb)).toNat * 2 ^ f.mb ≤ maxCode f) (r : Rnd) (sat : Bool) (U : Nat) (neg : Bool) :
    roundFin f r sat U neg m e =
      ⟨m + (e - (1 - (f.bias : Int) - f.mb)).toNat * 2 ^ f.mb + signBit f neg, 0⟩ := by
  simp only [roundFin, hq, roundGrid_self, if_neg (Nat.not_lt.mpr hmax), Bool.false_and, Bool.false_eq_true, if_false]

theorem toFp_subnormal {f : FpFmt} {frac : Nat} (hpos : frac ≠ 0) (hfrac : frac < 2 ^ f.mb) (hmax : frac ≤ maxCode f)
    (c : Ctl) (U : Nat) (neg : Bool) :
    toFp f c U (.fin neg frac (1 - (f.bias : Int) - f.mb)) = ⟨frac + signBit f neg, 0⟩ := by
  have hlog : Nat.log2 frac < f.mb := (Nat.log2_lt hpos).mpr hfrac
  have hq : max (expOf frac (1 - (f.bias : Int) - f.mb) - f.mb) (1 - (f.bias : Int) - f.mb) =
      1 - (f.bias : Int) - f.mb := by
    rw [expOf]
    omega
  rw [toFp, roundFin_exact hq (by simpa using hmax)]
  simp

theorem toFp_normal {f : FpFmt} {ex frac : Nat} (hfrac : frac < 2 ^ f.mb) (hmax : frac + (ex + 1) * 2 ^ f.mb ≤ maxCode f)
    (c : Ctl) (U : Nat) (neg : Bool) :
    toFp f c U (.fin neg (2 ^ f.mb + frac) (((ex + 1 : Nat) : Int) - f.bias - f.mb)) =
      ⟨frac + (ex + 1) * 2 ^ f.mb + signBit f neg, 0⟩ := by
  have hq : max (expOf (2 ^ f.mb + frac) (((ex + 1 : Nat) : Int) - f.bias - f.mb) - f.mb) (1 - (f.bias : Int) - f.mb) =
      ((ex + 1 : Nat) : Int) - f.bias - f.mb := by
    rw [expOf, log2_two_pow_add hfrac]
    omega
  have hsteps : (((ex + 1 : Nat) : Int) - f.bias - f.mb - (1 - (f.bias : Int) - f.mb)).toNat = ex := by omega
  have hmag : 2 ^ f.mb + frac + ex * 2 ^ f.mb = frac + (ex + 1) * 2 ^ f.mb := by
    rw [Nat.succ_mul]
    omega
  rw [toFp, roundFin_exact hq (by rwa [hsteps, hmag]), hsteps, hmag]

theorem toFp_finValue {f : FpFmt} {ex frac : Nat} (hfrac : frac < 2 ^ f.mb) (hmax : frac + ex * 2 ^ f.mb ≤ maxCode f)
    (c : Ctl) (U : Nat) (neg : Bool) :
    toFp f c U (finValue f neg ex frac) = ⟨frac + ex * 2 ^ f.mb + signBit f neg, 0⟩ := by
  cases ex with
  | zero =>
    rw [Nat.zero_mul, Nat.add_zero] at hmax ⊢
    rw [finValue, if_pos rfl, mkFin]
    by_cases hzero : frac = 0
    · rw [if_pos hzero, hzero, Nat.zero_add]
      rfl
    · rw [if_neg hzero, toFp_subnormal hzero hfrac hmax]
  | succ ex => rw [finValue, if_neg ex.succ_ne_zero, toFp_normal hfrac hmax]

/-- R44, R56: a code that is not a NaN converts back to itself. -/
theorem toFp_decodeFp (f : FpFmt) {code : Nat} (hcode : code < 2 ^ (1 + f.eb + f.mb)) (h : (decodeFp f code).isNaN = false)
    (c : Ctl) (U : Nat) : toFp f c U (decodeFp f code) = ⟨code, 0⟩ := by
  have hfields := fields_eq_code f hcode
  rcases decodeFp_cases f code h with ⟨hsp, hex, hfrac, hval⟩ | ⟨hmax, hval⟩
  · rw [hex, hfrac, Nat.zero_add] at hfields
    rw [hval]
    simp only [toFp, infCode, hsp, hfields]
  · rw [hval, toFp_finValue (fracOf_lt f code) hmax, hfields]

/-- R32: a significand has one bit more than the fraction. -/
theorem decodeFp_fin_lt {f : FpFmt} {code : Nat} {n : Bool} {m : Nat} {e : Int} (h : decodeFp f code = .fin n m e) :
    m < 2 ^ (f.mb + 1) := by
  have hfrac := fracOf_lt f code
  have hnan : (decodeFp f code).isNaN = false := by rw [h]; rfl
  rw [Nat.pow_succ]
  rcases decodeFp_cases f code hnan with ⟨-, -, -, hval⟩ | ⟨-, hval⟩
  · cases hval.symm.trans h
  · rw [h, finValue, mkFin] at hval
    split at hval
    · split at hval
      · cases hval
      · cases hval
        omega
    · cases hval
      omega

/-! ## Integer codes (R41, R51) -/

theorem toSigned_mem {n code : Nat} (hn : 0 < n) (h : code < 2 ^ n) :
    -((2 ^ (n - 1) : Nat) : Int) ≤ toSigned n code ∧ toSigned n code ≤ ((2 ^ (n - 1) - 1 : Nat) : Int) := by
  have hp : 2 ^ n = 2 * 2 ^ (n - 1) := by rw [← Nat.pow_add_one', Nat.sub_add_cancel hn]
  simp only [toSigned, Nat.mod_eq_of_lt h]
  split
  case isTrue => omega
  case isFalse => omega

theorem ofSigned_of_lt {n code : Nat} (h : code < 2 ^ n) : ofSigned n (code : Int) = code := by
  rw [ofSigned, ← Int.natCast_emod, Nat.mod_eq_of_lt h, Int.toNat_natCast]

theorem ofSigned_toSigned {n code : Nat} (h : code < 2 ^ n) : ofSigned n (toSigned n code) = code := by
  have hmod : ofSigned n (toSigned n code) = ofSigned n (code : Int) := by
    simp only [toSigned, Nat.mod_eq_of_lt h]
    split
    · rfl
    · rw [ofSigned, Int.sub_emod_right, ofSigned]
  rw [hmod, ofSigned_of_lt h]

/-- An integer in the range of its target converts to its code. -/
theorem toInt_numOfInt {n : Nat} {signed : Bool} {v : Int}
    (hlo : (if signed then -((2 ^ (n - 1) : Nat) : Int) else 0) ≤ v)
    (hhi : v ≤ if signed then ((2 ^ (n - 1) - 1 : Nat) : Int) else ((2 ^ n - 1 : Nat) : Int))
    (c : Ctl) (U : Nat) : toInt n signed c U (numOfInt v) = ⟨ofSigned n v, 0⟩ := by
  by_cases hv : v = 0
  · subst hv
    rw [ofSigned, Int.zero_emod]
    rfl
  · have hsign : (if decide (v < 0) = true then -(v.natAbs : Int) else v.natAbs) = v := by
      simp only [decide_eq_true_eq]
      split
      case isTrue => omega
      case isFalse => omega
    rw [numOfInt, mkFin, if_neg (Int.natAbs_ne_zero.mpr hv)]
    simp only [toInt, roundInt, roundGrid_self, hsign, if_neg (Int.not_lt.mpr hlo), if_neg (Int.not_lt.mpr hhi),
      Bool.false_eq_true, if_false]

/-! ## FA40 images (R35, R87) -/

/-- A magnitude of 30 bits whose exponent FA40 has is placed without rounding. -/
theorem fa40RoundMode_exact {m : Nat} {e : Int} (hlog : Nat.log2 m = 29) (hlo : -539 ≤ e) (hhi : e ≤ 482)
    (r : Rnd) (U : Nat) (neg : Bool) :
    fa40RoundMode r U neg m e = ((e + 540).toNat * 2 ^ 29 + m % 2 ^ 29 + (if neg then 2 ^ 39 else 0), false) := by
  have hq : expOf m e - 29 = e := by
    rw [expOf, hlog]
    omega
  have hexp : expOf m e = e + 29 := by
    rw [expOf, hlog]
    omega
  have hfrac : m * 2 ^ 30 / 2 ^ (29 + 1) = m := Nat.mul_div_cancel m (Nat.two_pow_pos _)
  have hplace : e + 29 + 511 = e + 540 := by omega
  simp only [fa40RoundMode, hq, roundGrid_self, hlog, hfrac]
  rw [hexp, hplace, if_neg (by omega), if_neg (by omega)]

/-- An FA40 image that is not a NaN is the image of its value, but a zero has one image only. -/
theorem fa40OfNum_decodeFa40 {code : Nat} (hcode : code < 2 ^ 40) (h : (decodeFa40 code).isNaN = false) :
    fa40OfNum (decodeFa40 code) =
      (if code / 2 ^ 29 % 1024 = 0 then code / 2 ^ 39 * 2 ^ 39 else code, false) := by
  have hsign : (if code / 2 ^ 39 % 2 = 1 then 2 ^ 39 else 0) = 2 ^ 39 * (code / 2 ^ 39) := top_bit hcode
  simp only [decodeFa40] at h ⊢
  by_cases h0 : code / 2 ^ 29 % 1024 = 0
  · simp only [if_pos h0, fa40OfNum, fa40Zero, decide_eq_true_eq, hsign, Nat.mul_comm]
  · simp only [if_neg h0] at h ⊢
    by_cases htop : code / 2 ^ 29 % 1024 = 1023
    · simp only [if_pos htop] at h ⊢
      by_cases hfrac : code % 2 ^ 29 = 0
      · simp only [if_pos hfrac, fa40OfNum, fa40Inf, decide_eq_true_eq, hsign]
        congr 1
        omega
      · rw [if_neg hfrac] at h
        exact absurd h Bool.noConfusion
    · have hlog := log2_two_pow_add (Nat.mod_lt code (Nat.two_pow_pos 29))
      rw [if_neg htop, fa40OfNum, fa40RoundMode_exact hlog (by omega) (by omega)]
      simp only [decide_eq_true_eq, hsign]
      congr 1
      omega

/-- Settles O7, format by format: `toFp_decodeFp`, `toInt_numOfInt` and `fa40OfNum_decodeFa40`. -/
theorem codesConvertBack : Obligations.CodesConvertBack := by
  refine ⟨fun f _ code hcode hnan c U => toFp_decodeFp f hcode hnan c U, ?_,
    fun code hcode hnan => fa40OfNum_decodeFa40 hcode hnan⟩
  intro n hn code hcode c U
  have hpos : 0 < n := Nat.pos_of_ne_zero (by rintro rfl; exact absurd hn (by decide))
  obtain ⟨hlo, hhi⟩ := toSigned_mem hpos hcode
  constructor
  · rw [toInt_numOfInt hlo hhi, ofSigned_toSigned hcode]
  · rw [toInt_numOfInt (Int.natCast_nonneg code) (Int.ofNat_le.mpr (Nat.le_sub_one_of_lt hcode)), ofSigned_of_lt hcode]

/-- Settles O8: the picks of `roundGrid_of_lt`, mode by mode, and the pieces of `splitPieces_fin`. -/
theorem roundingPicks : Obligations.RoundingPicks := by
  constructor
  · intro r U neg m e q hlt
    rw [roundGrid_of_lt hlt]
    intro d t k
    refine ⟨bne_iff_ne, pick_eq_or r U neg m d, pick_exact r U neg m d, ?_, ?_, ?_, ?_, ?_, ?_⟩
    · rintro rfl
      exact pick_rtz U neg m d
    · rintro rfl hrem
      exact pick_rup_eq_quotient_iff U neg m d hrem
    · rintro rfl hrem
      exact pick_rdn_eq_quotient_iff U neg m d hrem
    · rintro rfl hrem
      exact pick_rto_odd U neg m d hrem
    · rintro rfl
      exact pick_rne_nearest U neg m d (Nat.two_pow_pos _)
    · rintro rfl hrem
      exact pick_sr_eq_succ_iff U neg m d hrem
  · intro code _ n m e hval
    have hm : m < 2 ^ (8 + 8 + 8) := decodeFp_fin_lt hval
    refine ⟨top8 m, pieceOf n (top8 (rest8 m)) e, pieceOf n (rest8 (rest8 m)) e, splitPieces_fin n m e,
      top8 (rest8 m), rest8 (rest8 m), pieceOf_cases n _ e, pieceOf_cases n _ e, ?_, ?_⟩
    · rw [Nat.add_assoc, top8_add_rest8, top8_add_rest8]
    · simp only [List.forall_mem_cons]
      exact ⟨fun _ => ulp8_top8_dvd m, fun _ => ulp8_top8_dvd (rest8 m),
        fun _ => ulp8_dvd_of_lt (rest8_lt (k := 8) (rest8_lt (k := 8 + 8) hm)), List.forall_mem_nil _⟩

/-! ## Comparisons (R58) -/

theorem sigFlags_pair (a b : Num) : sigFlags [a, b] = if a.isSig || b.isSig then flNV else 0 := by
  simp only [sigFlags, List.any_cons, List.any_nil, Bool.or_false]

theorem sigFlags_of_not_nan {a b : Num} (ha : a.isNaN = false) (hb : b.isNaN = false) : sigFlags [a, b] = 0 := by
  have hsig : ∀ x : Num, x.isNaN = false → x.isSig = false
    | .zero _, _ => rfl
    | .fin _ _ _, _ => rfl
    | .inf _, _ => rfl
  rw [sigFlags_pair, hsig a ha, hsig b hb]
  rfl

/-- EQ and NE are the quiet comparisons. -/
theorem cmpRes_flags (op : Nat) (a b : Num) :
    (cmpRes op a b).2 =
      if op = 0x20 ∨ op = 0x21 then sigFlags [a, b] else if a.isNaN || b.isNaN then flNV else 0 := by
  simp only [cmpRes, Bool.or_eq_true, beq_iff_eq]
  split
  · rfl
  · rfl

theorem cmpRes_of_nan (op : Nat) {a b : Num} (h : a.isNaN = true ∨ b.isNaN = true) :
    (cmpRes op a b).1 = (op == 0x21) := by
  simp only [cmpRes, if_pos ((Bool.or_eq_true _ _).mpr h)]

/-- Settles O9: the flags by `cmpRes_flags`, the answers of a NaN by `cmpRes_of_nan`. -/
theorem comparisons : Obligations.Comparisons := by
  refine ⟨fun op a b _ => ⟨fun hnan => ⟨?_, ?_, ?_⟩, fun ha hb => ?_⟩, fun m n => ⟨rfl, rfl, rfl, rfl, rfl, rfl⟩⟩
  · rw [cmpRes_of_nan op hnan, beq_iff_eq]
  · intro hop
    have hloud : ¬(op = 0x20 ∨ op = 0x21) := by
      simp only [List.mem_cons, List.not_mem_nil, or_false] at hop
      omega
    rw [cmpRes_flags, if_neg hloud, if_pos ((Bool.or_eq_true _ _).mpr hnan)]
  · intro hop
    have hquiet : op = 0x20 ∨ op = 0x21 := by simpa using hop
    rw [cmpRes_flags, if_pos hquiet, sigFlags_pair]
  · rw [cmpRes_flags, sigFlags_of_not_nan ha hb, ha, hb]
    exact ite_self _

end Sys2Proof.Machine
end

section
/-! The vector engine in register mode (chapter 06): a register element and a predicate bit after a write, what each kind
of instruction writes, and what it leaves. -/

namespace Sys2Proof.Machine

/-! ## Loops over element numbers -/

section
variable {σ β : Type} (obs : σ → β) {f : σ → Nat → σ} {n : Nat}

/-- What no step of a loop changes, the loop does not change. -/
theorem foldl_range_keep (h : ∀ s i, i < n → obs (f s i) = obs s) (s : σ) :
    obs ((List.range n).foldl f s) = obs s := by
  induction n with
  | zero => rfl
  | succ n ih =>
    rw [List.range_succ, List.foldl_append, List.foldl_cons, List.foldl_nil, h _ n (Nat.lt_succ_self n)]
    exact ih fun s i hi => h s i (Nat.lt_succ_of_lt hi)

/-- What only step j of a loop changes reads after the loop as after that step. -/
theorem foldl_range_at {j : Nat} (hj : j < n) (hne : ∀ s i, i < n → i ≠ j → obs (f s i) = obs s)
    {x : β → β} (hat : ∀ s, obs (f s j) = x (obs s)) (s : σ) : obs ((List.range n).foldl f s) = x (obs s) := by
  induction n with
  | zero => exact absurd hj (Nat.not_lt_zero j)
  | succ n ih =>
    rw [List.range_succ, List.foldl_append, List.foldl_cons, List.foldl_nil]
    by_cases hlast : j = n
    · subst hlast
      rw [hat, foldl_range_keep obs fun s i hi => hne s i (Nat.lt_succ_of_lt hi) (Nat.ne_of_lt hi)]
    · rw [hne _ n (Nat.lt_succ_self n) (Ne.symm hlast)]
      exact ih (by omega) fun s i hi => hne s i (Nat.lt_succ_of_lt hi)

end

/-- Write the values that `w` has for the elements below n, in order. -/
def putEach {α : Type} (put : CoreSt → Nat → α → CoreSt) (w : Nat → Option α) (n : Nat) (k : CoreSt) : CoreSt :=
  (List.range n).foldl (fun k' j => (w j).elim k' (put k' j)) k

section
variable {α β : Type} (obs : CoreSt → β) {put : CoreSt → Nat → α → CoreSt} (w : Nat → Option α) {n : Nat}

theorem putEach_keep (h : ∀ k i x, i < n → obs (put k i x) = obs k) (k : CoreSt) : obs (putEach put w n k) = obs k := by
  refine foldl_range_keep obs (fun k i hi => ?_) k
  cases w i with
  | none => rfl
  | some x => exact h k i x hi

theorem putEach_at {j : Nat} (hj : j < n) (hne : ∀ k i x, i ≠ j → i < n → obs (put k i x) = obs k)
    {val : α → β} (hat : ∀ k x, obs (put k j x) = val x) (k : CoreSt) :
    obs (putEach put w n k) = (w j).elim (obs k) val := by
  refine foldl_range_at obs (x := fun old => (w j).elim old val) hj (fun k i hi hij => ?_) (fun k => ?_) k
  · cases w i with
    | none => rfl
    | some x => exact hne k i x hij hi
  · cases w j with
    | none => rfl
    | some x => exact hat k x

end

/-! ## Little-endian bytes (R3) -/

theorem leNat_lt (l : List Byte) : leNat l < 2 ^ (8 * l.length) := by
  induction l with
  | nil => exact Nat.one_pos
  | cons b l ih =>
    have hb := b.isLt
    rw [leNat, List.length_cons, Nat.mul_succ, Nat.pow_add]
    omega

/-- The low n bytes of a number are it modulo 2^(8n). -/
theorem leNat_bytes (n v : Nat) :
    leNat ((List.range n).map (fun i => BitVec.ofNat 8 (v / 256 ^ i))) = v % 2 ^ (8 * n) := by
  induction n generalizing v with
  | zero => exact (Nat.mod_one v).symm
  | succ n ih =>
    have htail : ∀ i, v / 256 ^ (i + 1) = v / 256 / 256 ^ i := fun i => by
      rw [Nat.pow_succ', Nat.div_div_eq_div_mul]
    rw [List.range_succ_eq_map, List.map_cons, List.map_map, leNat]
    simp only [Function.comp_def, Nat.succ_eq_add_one, htail]
    rw [ih, BitVec.toNat_ofNat, Nat.pow_zero, Nat.div_one, Nat.mul_succ, Nat.add_comm (8 * n), Nat.pow_add, Nat.mod_mul]

/-! ## Register elements (R110) -/

/-- The core with other vector registers: two cores that are equal under it differ in their vector registers only. -/
def CoreSt.withVreg (k : CoreSt) (m : SMap Byte) : CoreSt := { k with vreg := m }

/-- The core with other predicates: as `CoreSt.withVreg`, for what differs in its predicates only. -/
def CoreSt.withPreg (k : CoreSt) (m : SMap Word) : CoreSt := { k with preg := m }

theorem vByte_setVByte (k : CoreSt) (a a' : Nat) (x : Byte) :
    vByte (k.setVByte a x) a' = if a' = a then x else vByte k a' := by
  by_cases h : a' = a
  · subst h
    simp [vByte, CoreSt.setVByte]
  · simp [vByte, CoreSt.setVByte, smGet_smSet_ne, h]

/-- The elements of a type fill a register of 2 KiB. -/
theorem etBytes_mul_etCap (t : Nat) : etBytes t * etCap t = 2048 := by
  unfold etBytes etCap
  split <;> rfl

section
variable (k : CoreSt) (v t j code : Nat)

theorem vByte_vSet {i : Nat} (hi : i < etBytes t) :
    vByte (vSet k v t j code) (2048 * v + etBytes t * j + i) = BitVec.ofNat 8 (code / 256 ^ i) := by
  refine foldl_range_at (vByte · (2048 * v + etBytes t * j + i)) (x := fun _ => _) hi (fun k i' _ hne => ?_) (fun k => ?_) k
  · rw [vByte_setVByte, if_neg (by omega)]
  · rw [vByte_setVByte, if_pos rfl]

theorem vByte_vSet_ne {a : Nat} (h : a < 2048 * v + etBytes t * j ∨ 2048 * v + etBytes t * j + etBytes t ≤ a) :
    vByte (vSet k v t j code) a = vByte k a := by
  refine foldl_range_keep (vByte · a) (fun k i hi => ?_) k
  rw [vByte_setVByte, if_neg (by omega)]

/-- Writing a register element changes the vector registers only. -/
theorem vSet_withVreg (m : SMap Byte) : (vSet k v t j code).withVreg m = k.withVreg m := by
  refine foldl_range_keep (CoreSt.withVreg · m) (fun _ _ _ => ?_) k
  rfl

theorem vGet_lt : vGet k v t j < 2 ^ (8 * etBytes t) := by
  have h := leNat_lt ((List.range (etBytes t)).map (fun i => vByte k (2048 * v + etBytes t * j + i)))
  rwa [List.length_map, List.length_range] at h

theorem vGet_congr {k k' : CoreSt} {v t j : Nat} (h : ∀ i < etBytes t,
    vByte k' (2048 * v + etBytes t * j + i) = vByte k (2048 * v + etBytes t * j + i)) : vGet k' v t j = vGet k v t j :=
  congrArg leNat (List.map_congr_left fun i hi => h i (List.mem_range.mp hi))

theorem vGet_vSet : vGet (vSet k v t j code) v t j = code % 2 ^ (8 * etBytes t) := by
  rw [← leNat_bytes]
  exact congrArg leNat (List.map_congr_left fun i hi => vByte_vSet k v t j code (List.mem_range.mp hi))

theorem vGet_vSet_ne {j' : Nat} (h : j' ≠ j) : vGet (vSet k v t j code) v t j' = vGet k v t j' := by
  refine vGet_congr fun i hi => vByte_vSet_ne k v t j code ?_
  have hapart {x y : Nat} (hxy : x < y) : etBytes t * x + etBytes t ≤ etBytes t * y := Nat.mul_le_mul_left _ hxy
  rcases Nat.lt_or_gt_of_ne h with hlt | hgt
  · have := hapart hlt
    omega
  · have := hapart hgt
    omega

/-- An element of a register lies in it. -/
theorem vByte_vSet_outside {a : Nat} (hj : j < etCap t) (h : a < 2048 * v ∨ 2048 * v + 2048 ≤ a) :
    vByte (vSet k v t j code) a = vByte k a := by
  have hend : etBytes t * j + etBytes t ≤ 2048 := etBytes_mul_etCap t ▸ Nat.mul_le_mul_left _ hj
  exact vByte_vSet_ne k v t j code (by omega)

end

/-! ## Predicate bits (R110) -/

theorem bitN_eq_bitsN (v i : Nat) : bitN v i = decide (bitsN v i 1 = 1) := rfl

/-- A word with bit i replaced. -/
theorem bitN_wN_setBitsN {i j : Nat} (hj : j < 64) (w : Nat) (b : Bool) :
    bitN (wN (setBitsN w i 1 (if b then 1 else 0))).toNat j = if j = i then b else bitN w j := by
  rw [bitN_eq_bitsN, bitsN_wN _ _ _ (by omega)]
  by_cases h : j = i
  · rw [if_pos h, h, bitsN_setBitsN]
    cases b with
    | false => rfl
    | true => rfl
  · rw [if_neg h, bitsN_setBitsN_ne _ _ _ _ _ _ (by omega), bitN_eq_bitsN]

section
variable (k : CoreSt) {p : Nat} (i : Nat) (b : Bool)

/-- Writing a predicate bit changes the predicates only. -/
theorem pSet_withPreg (p : Nat) (m : SMap Word) : (pSet k p i b).withPreg m = k.withPreg m := by
  unfold pSet
  split
  · rfl
  · rfl

theorem pWord_pSet (hp : p ≠ 0) : pWord (pSet k p i b) p (i / 64) =
    (wN (setBitsN (pWord k p (i / 64)) (i % 64) 1 (if b then 1 else 0))).toNat := by
  simp [pWord, pSet, hp]

theorem pWord_pSet_ne {q w : Nat} (h : 16 * q + w ≠ 16 * p + i / 64) : pWord (pSet k p i b) q w = pWord k q w := by
  unfold pSet
  split
  · rfl
  · exact congrArg BitVec.toNat (smGet_smSet_ne _ _ _ _ _ _ h)

theorem pBit_pSet (hp : p ≠ 0) : pBit (pSet k p i b) p i = b := by
  rw [pBit, pWord_pSet k i b hp, bitN_wN_setBitsN (Nat.mod_lt _ (by decide)), if_pos rfl,
    decide_eq_false hp, Bool.false_or]

theorem pBit_pSet_ne {q j : Nat} (hi : i < 1024) (hj : j < 1024) (h : q ≠ p ∨ j ≠ i) :
    pBit (pSet k p i b) q j = pBit k q j := by
  unfold pBit
  by_cases hkey : 16 * q + j / 64 = 16 * p + i / 64
  · obtain ⟨rfl, hw⟩ : q = p ∧ j / 64 = i / 64 := by omega
    by_cases hq : q = 0
    · simp only [hq, decide_true, Bool.true_or]
    · rw [hw, pWord_pSet k i b hq, bitN_wN_setBitsN (Nat.mod_lt _ (by decide)), if_neg (by omega)]
  · rw [pWord_pSet_ne k i b hkey]

end

/-! ## Writes of VD and of PD (R112, R113) -/

/-- What an instruction writes for element j: its value where enabled, `zero` where MASKZ clears it, else nothing. -/
def maskedWrite {α : Type} (b : VBlk) (k : CoreSt) (zero : α) (val : Nat → α) (j : Nat) : Option α :=
  if b.enabled k j then some (val j) else if b.maskz then some zero else none

section
variable {α : Type} {b : VBlk} {k : CoreSt} (zero : α) (val : Nat → α) {j : Nat}

theorem maskedWrite_enabled (h : b.enabled k j = true) : maskedWrite b k zero val j = some (val j) := if_pos h

theorem maskedWrite_disabled {β : Type} (h : b.enabled k j = false) (old : β) (g : α → β) :
    (maskedWrite b k zero val j).elim old g = if b.maskz then g zero else old := by
  rw [maskedWrite, h]
  cases b.maskz with
  | true => rfl
  | false => rfl

end

/-- A loop over the results of an instruction that puts those of enabled elements, and `zero` under MASKZ for the others. -/
theorem foldl_results {ρ α : Type} {step : CoreSt → Nat × Option ρ → CoreSt} (put : CoreSt → Nat → α → CoreSt)
    (b : VBlk) (k : CoreSt) (res : Nat → ρ) (val : ρ → α) (zero : α)
    (hsome : ∀ k' j r, step k' (j, some r) = put k' j (val r))
    (hnone : ∀ k' j, step k' (j, none) = if b.maskz then put k' j zero else k') :
    ((List.range b.vl).map (fun j => (j, if b.enabled k j then some (res j) else none))).foldl step k =
      putEach put (maskedWrite b k zero (fun j => val (res j))) b.vl k := by
  rw [List.foldl_map, putEach]
  congr 1
  funext k' j
  rw [maskedWrite]
  cases b.enabled k j with
  | true => exact hsome k' j (res j)
  | false =>
    refine (hnone k' j).trans ?_
    cases b.maskz with
    | true => rfl
    | false => rfl

/-- Write codes into VD. -/
def putVd (b : VBlk) : (Nat → Option Nat) → Nat → CoreSt → CoreSt := putEach (fun k j code => vSet k b.vd b.et j code)

/-- Write bits into PD. -/
def putPd (b : VBlk) : (Nat → Option Bool) → Nat → CoreSt → CoreSt := putEach (fun k j x => pSet k b.pd j x)

theorem writeVd_eq_putVd (k : CoreSt) (b : VBlk) (f : Nat → Res) :
    (writeVd k b f).1 = putVd b (maskedWrite b k 0 (fun j => (f j).code)) b.vl k :=
  foldl_results _ b k f Res.code 0 (fun _ _ _ => rfl) (fun _ _ => rfl)

section
variable (b : VBlk) (w : Nat → Option Nat) {n : Nat} (k : CoreSt)

theorem putVd_withVreg (m : SMap Byte) : (putVd b w n k).withVreg m = k.withVreg m :=
  putEach_keep (CoreSt.withVreg · m) w (fun k j code _ => vSet_withVreg k _ _ j code m) k

theorem vByte_putVd_outside {a : Nat} (hn : n ≤ etCap b.et) (h : a < 2048 * b.vd ∨ 2048 * b.vd + 2048 ≤ a) :
    vByte (putVd b w n k) a = vByte k a :=
  putEach_keep (vByte · a) w (fun k j code hj => vByte_vSet_outside k _ _ j code (Nat.lt_of_lt_of_le hj hn) h) k

theorem vGet_putVd {j : Nat} (hj : j < n) :
    vGet (putVd b w n k) b.vd b.et j = (w j).elim (vGet k b.vd b.et j) (· % 2 ^ (8 * etBytes b.et)) :=
  putEach_at (vGet · b.vd b.et j) w hj (fun k _ code h _ => vGet_vSet_ne k _ _ _ code (Ne.symm h))
    (fun k code => vGet_vSet k _ _ j code) k

theorem vGet_putVd_above {j : Nat} (hj : n ≤ j) : vGet (putVd b w n k) b.vd b.et j = vGet k b.vd b.et j :=
  putEach_keep (vGet · b.vd b.et j) w
    (fun k _ code hi => vGet_vSet_ne k _ _ _ code (Nat.ne_of_gt (Nat.lt_of_lt_of_le hi hj))) k

end

section
variable (b : VBlk) (w : Nat → Option Bool) {n : Nat} (k : CoreSt)

theorem putPd_withPreg (m : SMap Word) : (putPd b w n k).withPreg m = k.withPreg m :=
  putEach_keep (CoreSt.withPreg · m) w (fun k j x _ => pSet_withPreg k j x _ m) k

theorem pBit_putPd {j : Nat} (hpd : b.pd ≠ 0) (hn : n ≤ 1024) (hj : j < n) :
    pBit (putPd b w n k) b.pd j = (w j).elim (pBit k b.pd j) id :=
  putEach_at (pBit · b.pd j) w hj
    (fun k i x h hi => pBit_pSet_ne k i x (Nat.lt_of_lt_of_le hi hn) (Nat.lt_of_lt_of_le hj hn) (.inr (Ne.symm h)))
    (fun k x => pBit_pSet k j x hpd) k

theorem pBit_putPd_ne {q j : Nat} (hn : n ≤ 1024) (hj : j < 1024) (h : q ≠ b.pd ∨ n ≤ j) :
    pBit (putPd b w n k) q j = pBit k q j :=
  putEach_keep (pBit · q j) w
    (fun k i x hi => pBit_pSet_ne k i x (Nat.lt_of_lt_of_le hi hn) hj
      (h.imp_right fun hnj => Nat.ne_of_gt (Nat.lt_of_lt_of_le hi hnj))) k

end

/-! ## What an accepted block satisfies (R111) -/

theorem etCap_le (t : Nat) : etCap t ≤ 1024 := by
  unfold etCap
  split <;> decide

theorem etCap_pos (t : Nat) : 0 < etCap t := by
  have hcap := etBytes_mul_etCap t
  exact Nat.pos_of_ne_zero fun h => by simp [h] at hcap

theorem vl_le_etCap {k : CoreSt} {b : VBlk} (h : b.ok k = true) : b.vl ≤ etCap b.et := by
  simp only [VBlk.ok, Bool.and_eq_true, decide_eq_true_eq] at h
  obtain ⟨⟨⟨⟨⟨⟨⟨⟨⟨-, hvl⟩, -⟩, -⟩, -⟩, -⟩, -⟩, -⟩, -⟩, -⟩ := h
  exact hvl

theorem vl_le_1024 {k : CoreSt} {b : VBlk} (h : b.ok k = true) : b.vl ≤ 1024 := Nat.le_trans (vl_le_etCap h) (etCap_le b.et)

theorem pd_ne_zero_of_cmp {k : CoreSt} {b : VBlk} (h : b.ok k = true) (hcmp : isCmp b.opc = true) : b.pd ≠ 0 := by
  intro hpd
  simp [VBlk.ok, hcmp, hpd] at h

/-! ## What each instruction writes -/

theorem isCmp_iff (op : Nat) : isCmp op = true ↔ 0x20 ≤ op ∧ op ≤ 0x25 := by
  simp only [isCmp, Bool.and_eq_true, decide_eq_true_eq]

theorem not_isCmp {op : Nat} (h : ¬(0x20 ≤ op ∧ op ≤ 0x25)) : ¬isCmp op = true := fun hcmp => h ((isCmp_iff op).mp hcmp)

/-- The answer of a compare at element j (R58). -/
def cmpElem (k : CoreSt) (b : VBlk) (j : Nat) : Bool × Nat :=
  cmpRes b.opc (etNum b.et (vGet k b.vs1 b.et j)) (etNum b.et (vGet k b.vs2 b.et j))

/-- The result of an arithmetic instruction at element j. -/
def laneElem (k : CoreSt) (b : VBlk) (strict : Bool) (j : Nat) : Res :=
  lane b.opc b.et b.ctl strict (vGet k b.vs1 b.et j) (vGet k b.vs2 b.et j) (vGet k b.vs3 b.et j)

/-- The code that SEL copies to element j. -/
def selElem (k : CoreSt) (b : VBlk) (j : Nat) : Nat := if pBit k b.pd j then vGet k b.vs1 b.et j else vGet k b.vs2 b.et j

/-- The code that SHUF copies to element j. -/
def shufElem (k : CoreSt) (b : VBlk) (j : Nat) : Nat :=
  let i := vGet k b.vs2 b.et j % 65536
  if i < etCap b.et then vGet k b.vs1 b.et i else 0

theorem selElem_lt (k : CoreSt) (b : VBlk) (j : Nat) : selElem k b j < 2 ^ (8 * etBytes b.et) := by
  unfold selElem
  split
  · exact vGet_lt k _ _ j
  · exact vGet_lt k _ _ j

theorem shufElem_lt (k : CoreSt) (b : VBlk) (j : Nat) : shufElem k b j < 2 ^ (8 * etBytes b.et) := by
  unfold shufElem
  dsimp only
  split
  · exact vGet_lt k _ _ _
  · exact Nat.two_pow_pos _

section
variable (s : State) (c : Nat) {b : VBlk} {k : CoreSt} (strict : Bool)

/-- A load, a move, a read of the accumulator, CVT, SEL and SHUF come before compares, reductions and lanes. -/
theorem runVec_of_compute (h1 : 0x10 ≤ b.opc) (h2 : b.opc ≠ 0x50) : (runVec s c b k strict).1 =
    if isCmp b.opc then putPd b (maskedWrite b k false (fun j => (cmpElem k b j).1)) b.vl k
    else if 0x48 ≤ b.opc ∧ b.opc ≤ 0x4A then putVd b (fun _ => some (reduce k b strict).code) 1 k
    else (writeVd k b (laneElem k b strict)).1 := by
  unfold runVec
  rw [if_neg (by omega), if_neg (by omega), if_neg (by omega), if_neg (by omega), if_neg (by omega), if_neg h2]
  split
  · exact foldl_results _ b k (cmpElem k b) Prod.fst false (fun _ _ _ => rfl) (fun _ _ => rfl)
  · split
    · rfl
    · rfl

theorem runVec_of_cmp (h : isCmp b.opc = true) :
    (runVec s c b k strict).1 = putPd b (maskedWrite b k false (fun j => (cmpElem k b j).1)) b.vl k := by
  have hop : 0x20 ≤ b.opc ∧ b.opc ≤ 0x25 := (isCmp_iff b.opc).mp h
  rw [runVec_of_compute s c strict (by omega) (by omega), if_pos h]

/-- A compare changes the predicates only. -/
theorem runVec_keeps_of_cmp {β : Type} (obs : CoreSt → β) (h : isCmp b.opc = true)
    (hp : ∀ k m, obs (CoreSt.withPreg k m) = obs k) : obs (runVec s c b k strict).1 = obs k := by
  rw [runVec_of_cmp s c strict h, ← hp _ k.preg, putPd_withPreg, hp]

theorem runVec_of_red (h : 0x48 ≤ b.opc ∧ b.opc ≤ 0x4A) :
    (runVec s c b k strict).1 = putVd b (fun _ => some (reduce k b strict).code) 1 k := by
  rw [runVec_of_compute s c strict (by omega) (by omega), if_neg (not_isCmp (by omega)), if_pos h]

theorem runVec_of_lane (h : 0x10 ≤ b.opc ∧ b.opc ≤ 0x1F ∨ 0x30 ≤ b.opc ∧ b.opc ≤ 0x40 ∨ 0x60 ≤ b.opc) :
    (runVec s c b k strict).1 = (writeVd k b (laneElem k b strict)).1 := by
  rw [runVec_of_compute s c strict (by omega) (by omega), if_neg (not_isCmp (by omega)), if_neg (by omega)]

theorem runVec_of_vld (h : b.opc = 0x01) :
    (runVec s c b k strict).1 = (writeVd k b (loadElem s c b.mem b.saddr b.et b.ctl 0)).1 :=
  congrArg Prod.fst (if_pos h)

theorem runVec_of_vmov (h : b.opc = 0x03) :
    (runVec s c b k strict).1 = (writeVd k b (fun j => ⟨vGet k b.vs1 b.et j, 0⟩)).1 := by
  simp only [runVec, h]
  rfl

theorem runVec_of_accrd (h : b.opc = 0x04) : (runVec s c b k strict).1 = (writeVd k b (accElem k b.arow b.et b.ctl)).1 := by
  simp only [runVec, h]
  rfl

theorem runVec_of_cvt (h : b.opc = 0x05) : (runVec s c b k strict).1 = (writeVd k b (fun j =>
    cvtRes b.st b.et b.ctl (rndWord s c b.tid b.ixb b.ixp b.mem j) (vGet k b.vs1 b.st j))).1 := by
  simp only [runVec, h]
  rfl

theorem runVec_of_sel (h : b.opc = 0x06) : (runVec s c b k strict).1 = (writeVd k b (fun j => ⟨selElem k b j, 0⟩)).1 := by
  simp only [runVec, h]
  rfl

theorem runVec_of_shuf (h : b.opc = 0x50) : (runVec s c b k strict).1 = (writeVd k b (fun j => ⟨shufElem k b j, 0⟩)).1 := by
  simp only [runVec, h]
  rfl

/-- Every instruction but a compare and a reduction gives each enabled element a result of its own. -/
theorem runVec_writes (hcmp : ¬isCmp b.opc = true) (hred : ¬(0x48 ≤ b.opc ∧ b.opc ≤ 0x4A)) :
    ∃ f, (runVec s c b k strict).1 = (writeVd k b f).1 := by
  unfold runVec
  dsimp only
  rw [if_neg hcmp, if_neg hred]
  iterate 6
    split
    · exact ⟨_, rfl⟩
  exact ⟨_, rfl⟩

/-- Every instruction but a compare writes codes into VD, none from the type's capacity on. -/
theorem runVec_putsVd (hok : b.ok k = true) (hcmp : ¬isCmp b.opc = true) :
    ∃ w n, n ≤ etCap b.et ∧ (runVec s c b k strict).1 = putVd b w n k := by
  by_cases hred : 0x48 ≤ b.opc ∧ b.opc ≤ 0x4A
  · exact ⟨_, 1, etCap_pos b.et, runVec_of_red s c strict hred⟩
  · obtain ⟨f, hf⟩ := runVec_writes s c strict hcmp hred
    exact ⟨_, b.vl, vl_le_etCap hok, hf.trans (writeVd_eq_putVd k b f)⟩

/-! ## What the instructions leave, and what they write -/

section
variable (hok : b.ok k = true)
include hok

/-- What is not a compare changes the vector registers only. -/
theorem runVec_keeps_of_not_cmp {β : Type} (obs : CoreSt → β) (hcmp : isCmp b.opc = false)
    (hv : ∀ k m, obs (CoreSt.withVreg k m) = obs k) : obs (runVec s c b k strict).1 = obs k := by
  obtain ⟨w, n, -, hk⟩ := runVec_putsVd s c strict hok (ne_true_of_eq_false hcmp)
  rw [hk, ← hv _ k.vreg, putVd_withVreg, hv]

/-- R112: what depends neither on the vector registers nor on the predicates stays. -/
theorem runVec_keeps {β : Type} (obs : CoreSt → β) (hv : ∀ k m, obs (CoreSt.withVreg k m) = obs k)
    (hp : ∀ k m, obs (CoreSt.withPreg k m) = obs k) : obs (runVec s c b k strict).1 = obs k := by
  cases hcmp : isCmp b.opc with
  | true => exact runVec_keeps_of_cmp s c strict obs hcmp hp
  | false => exact runVec_keeps_of_not_cmp s c strict hok obs hcmp hv

theorem vByte_runVec_outside {a : Nat} (h : a < 2048 * b.vd ∨ 2048 * b.vd + 2048 ≤ a) :
    vByte (runVec s c b k strict).1 a = vByte k a := by
  cases hcmp : isCmp b.opc with
  | true => exact runVec_keeps_of_cmp s c strict (vByte · a) hcmp (fun _ _ => rfl)
  | false =>
    obtain ⟨w, n, hn, hk⟩ := runVec_putsVd s c strict hok (ne_true_of_eq_false hcmp)
    rw [hk, vByte_putVd_outside b w k hn h]

theorem pBit_runVec_ne {q j : Nat} (hj : j < 1024) (h : q ≠ b.pd ∨ b.vl ≤ j) :
    pBit (runVec s c b k strict).1 q j = pBit k q j := by
  cases hcmp : isCmp b.opc with
  | true => rw [runVec_of_cmp s c strict hcmp, pBit_putPd_ne b _ k (vl_le_1024 hok) hj h]
  | false => exact runVec_keeps_of_not_cmp s c strict hok (pBit · q j) hcmp (fun _ _ => rfl)

theorem pBit_runVec {j : Nat} (hcmp : isCmp b.opc = true) (hj : j < b.vl) : pBit (runVec s c b k strict).1 b.pd j =
    (maskedWrite b k false (fun j => (cmpElem k b j).1) j).elim (pBit k b.pd j) id := by
  rw [runVec_of_cmp s c strict hcmp, pBit_putPd b _ k (pd_ne_zero_of_cmp hok hcmp) (vl_le_1024 hok) hj]

end

section
variable {j : Nat} (hcmp : isCmp b.opc = false) (hred : ¬(0x48 ≤ b.opc ∧ b.opc ≤ 0x4A))
include hcmp hred

theorem vGet_runVec_above (hj : b.vl ≤ j) : vGet (runVec s c b k strict).1 b.vd b.et j = vGet k b.vd b.et j := by
  obtain ⟨f, hf⟩ := runVec_writes s c strict (ne_true_of_eq_false hcmp) hred
  rw [hf, writeVd_eq_putVd, vGet_putVd_above b _ k hj]

theorem vGet_runVec_disabled (hj : j < b.vl) (hen : b.enabled k j = false) :
    vGet (runVec s c b k strict).1 b.vd b.et j = if b.maskz then 0 else vGet k b.vd b.et j := by
  obtain ⟨f, hf⟩ := runVec_writes s c strict (ne_true_of_eq_false hcmp) hred
  rw [hf, writeVd_eq_putVd, vGet_putVd b _ k hj, maskedWrite_disabled _ _ hen, Nat.zero_mod]

end

section
variable (hred : 0x48 ≤ b.opc ∧ b.opc ≤ 0x4A)
include hred

theorem vGet_runVec_red : vGet (runVec s c b k strict).1 b.vd b.et 0 = (reduce k b strict).code % 2 ^ (8 * etBytes b.et) := by
  rw [runVec_of_red s c strict hred, vGet_putVd b _ k Nat.one_pos, Option.elim_some]

theorem vGet_runVec_red_pos {j : Nat} (hj : 0 < j) : vGet (runVec s c b k strict).1 b.vd b.et j = vGet k b.vd b.et j := by
  rw [runVec_of_red s c strict hred, vGet_putVd_above b _ k hj]

end

/-- The result of an instruction at an enabled element, once the instruction is known to deliver `f`. -/
theorem vGet_runVec_enabled {f : Nat → Res} (hf : (runVec s c b k strict).1 = (writeVd k b f).1) {j : Nat} (hj : j < b.vl)
    (hen : b.enabled k j = true) :
    vGet (runVec s c b k strict).1 b.vd b.et j = (f j).code % 2 ^ (8 * etBytes b.et) := by
  rw [hf, writeVd_eq_putVd, vGet_putVd b _ k hj, maskedWrite_enabled _ _ hen, Option.elim_some]

/-- An instruction that copies elements delivers them whole. -/
theorem vGet_runVec_copied {f : Nat → Nat} (hf : (runVec s c b k strict).1 = (writeVd k b (fun j => ⟨f j, 0⟩)).1)
    (hlt : ∀ j, f j < 2 ^ (8 * etBytes b.et)) {j : Nat} (hj : j < b.vl) (hen : b.enabled k j = true) :
    vGet (runVec s c b k strict).1 b.vd b.et j = f j := by
  rw [vGet_runVec_enabled s c strict hf hj hen, Nat.mod_eq_of_lt (hlt j)]

end

/-- Settles O13: the frame by `runVec_keeps` and the lemmas beside it, each element by `vGet_runVec_enabled` and
`vGet_runVec_disabled`, each predicate bit by `pBit_runVec`. -/
theorem vectorResults : Obligations.VectorResults := by
  intro s c b k strict hok _ _ _
  have keeps {β : Type} := runVec_keeps (β := β) s c strict hok
  refine ⟨keeps CoreSt.acc (fun _ _ => rfl) (fun _ _ => rfl), keeps CoreSt.x (fun _ _ => rfl) (fun _ _ => rfl),
    fun q => keeps (CoreSt.queue · q) (fun _ _ => rfl) (fun _ _ => rfl),
    fun hcmp => runVec_keeps_of_not_cmp s c strict hok CoreSt.preg hcmp (fun _ _ => rfl),
    fun hcmp => runVec_keeps_of_cmp s c strict CoreSt.vreg hcmp (fun _ _ => rfl),
    fun a ha => vByte_runVec_outside s c strict hok ha,
    fun p j _ hj hp => pBit_runVec_ne s c strict hok hj (.inl hp),
    fun j hvl hj => pBit_runVec_ne s c strict hok hj (.inr hvl),
    fun hcmp hred j hvl _ => vGet_runVec_above s c strict hcmp hred hvl,
    fun hcmp hred j hj hen => vGet_runVec_disabled s c strict hcmp hred hj hen,
    fun hop j hj hen => vGet_runVec_enabled s c strict (runVec_of_lane s c strict hop) hj hen,
    fun hop j hj hen => vGet_runVec_enabled s c strict (runVec_of_vld s c strict hop) hj hen,
    fun hop j hj hen => vGet_runVec_enabled s c strict (runVec_of_accrd s c strict hop) hj hen,
    fun hop j hj hen => vGet_runVec_enabled s c strict (runVec_of_cvt s c strict hop) hj hen,
    fun hred => vGet_runVec_red s c strict hred,
    fun hop j hj hen => vGet_runVec_copied s c strict (runVec_of_vmov s c strict hop) (fun j => vGet_lt k _ _ j) hj hen,
    fun hop j hj hen => vGet_runVec_copied s c strict (runVec_of_sel s c strict hop) (selElem_lt k b) hj hen,
    fun hop j hj hen => vGet_runVec_copied s c strict (runVec_of_shuf s c strict hop) (shufElem_lt k b) hj hen,
    fun hred j hj _ => vGet_runVec_red_pos s c strict hred hj,
    fun hcmp j hj hen => ?_, fun hcmp j hj hen => ?_⟩
  · rw [pBit_runVec s c strict hok hcmp hj, maskedWrite_enabled _ _ hen]
    rfl
  · rw [pBit_runVec s c strict hok hcmp hj, maskedWrite_disabled _ _ hen]
    rfl

end Sys2Proof.Machine
end
